-- ==== Sys2Proof/Word.lean ====
section
/-! DEFINITION. The word types of Lammexa and their plainest arithmetic: bytes, 64-bit words (R4), 128-bit vector
registers (R164), little-endian byte lists (R5), sign and zero extension (R9). -/
namespace Sys2Proof

/-- A byte, 8 bits (R4). -/
abbrev Byte := BitVec 8
/-- A word, 64 bits (R4). -/
abbrev Word := BitVec 64
/-- The contents of a `v` register, 128 bits (R164). -/
abbrev Quad128 := BitVec 128
/-- An instruction, 32 bits (R4). -/
abbrev Code := BitVec 32
/-- A register number 0 to 31 of a class (R34). -/
abbrev RegNo := BitVec 5

/-- `zext(x, 64)` of R9, or the low 64 bits of a wider value. -/
abbrev zext64 {w : Nat} (x : BitVec w) : Word := x.setWidth 64

/-- `sext(x, 64)` of R9. -/
abbrev sext64 {w : Nat} (x : BitVec w) : Word := x.signExtend 64

/-- The natural number that a little-endian byte list writes: the first byte holds bits 7 to 0 (R5). -/
def leNat : List Byte → Nat
  | [] => 0
  | b :: bs => b.toNat + 256 * leNat bs

/-- The `n` little-endian bytes of `x` (R5). -/
def leBytes : Nat → Nat → List Byte
  | 0, _ => []
  | n + 1, x => BitVec.ofNat 8 x :: leBytes n (x / 256)

/-- Bits `hi` to `lo` of a natural number, as a natural number (R5, R9). -/
def bitsOf (x hi lo : Nat) : Nat := (x / 2 ^ lo) % 2 ^ (hi + 1 - lo)

/-- The least multiple of `a` that is not below `x`. -/
def alignUp (x a : Nat) : Nat := ((x + a - 1) / a) * a

/-- The quotient rounded up. -/
def ceilDiv (x a : Nat) : Nat := (x + a - 1) / a

end Sys2Proof
end

