-- ==== Sys2Proof/Syntax.lean ====
section
/-! DEFINITION. The instructions of Lammexa as syntax: register and port operands (R34, R35), modifiers (R41 to R50), and
`Instr` with one constructor per row of spec/opcode_table.json. The first 220 rows are instruction words; the other 69 are the
steps of the device's other agents (spec/95_what_each_step_holds.md), which have operands but no encoding. -/
namespace Sys2Proof

/-- The port names of R34. `q n` is queue register `qn`. -/
inductive Port where
  | pi | po | q (n : BitVec 2) | pn | pe | ps | pw
  deriving DecidableEq, Repr

/-- What a 6-bit data field of the g, f or v class names (R34): a register 0 to 31 or a port. -/
inductive Opnd where
  | reg (n : RegNo)
  | port (p : Port)
  deriving DecidableEq, Repr

/-- The six scopes of R8, coded 0 to 5 (R41). -/
inductive Scope where
  | el | qd | tl | cp | dv | sy
  deriving DecidableEq, Repr

/-- The access widths of `lda` and `stl` (R41, R159). -/
inductive Width where
  | w8 | w16 | w32 | w64
  deriving DecidableEq, Repr

/-- The scalar floating types in the order of opcodes 0x40 to 0x43 (R42). -/
inductive FType where
  | f64 | f32 | f16 | bf16
  deriving DecidableEq, Repr

/-- The eight types of `fcvt`, coded 0 to 7 (R42). -/
inductive CvtType where
  | f64 | f32 | f16 | bf16 | i64 | n64 | i32 | n32
  deriving DecidableEq, Repr

/-- The nine lane types in the order of opcodes 0x50 to 0x58 (R43). -/
inductive LaneType where
  | f32 | bf16 | f16 | i32 | i16 | i8 | n32 | n16 | n8
  deriving DecidableEq, Repr

/-- Rounding modes 0 to 5 of R66. -/
inductive RMode where
  | rne | rna | rtz | rdn | rup | sr
  deriving DecidableEq, Repr

/-- The mode field of `fcvt`: a mode, or `.dyn` for the mode of `fcsr` (R42, R66). -/
inductive RmField where
  | mode (m : RMode)
  | dyn
  deriving DecidableEq, Repr

/-- The conditions of `fcmp` (R42). -/
inductive FCond where
  | eq | lt | le | un
  deriving DecidableEq, Repr

/-- The orders of `fence` (R41, R318). -/
inductive FenceOrder where
  | acq | rel | ar | sc
  deriving DecidableEq, Repr

/-- The operations of `coll` (R46). -/
inductive CollOp where
  | addI64 | addF32 | minI64 | maxI64 | minnN64 | maxnN64
  deriving DecidableEq, Repr

/-- One class's five budget shares (R124, R126). -/
structure ClassShare where
  mem : BitVec 8
  l2w : BitVec 8
  inj : BitVec 8
  twp : BitVec 8
  qvu : BitVec 8
  deriving DecidableEq, Repr

/-- A carousel that the load request binds (R397): its number, table, length and gap (none is 1,024 ticks). -/
structure CarouselRequest where
  car : Nat
  ctab : Nat
  clen : Nat
  cgap : Option Nat
  deriving DecidableEq, Repr

/-- Where the runtime has placed an image (R391, R54): `.text` from `text` up to `textEnd` with its literal pool, `.data`, and the addresses of
the labels `trapentry` and `trapend` that its source defines. -/
structure Image where
  text : Nat
  textEnd : Nat
  pool : Option Nat
  data : Nat
  trapentry : Option Nat
  trapend : Option Nat
  deriving DecidableEq, Repr

/-- What the Birog runtime hands the partition controller when it starts a context: the partition's tiles (R110), the identity
and tables of the context (R86, R103, R127, R140, R355), its image with the labels of its trap entry (R347, R391), the
maintenance bit (R318), the seed (R72), the launch windows (R105), the ready-ring offset (R120), the tracked regions (R149),
the trust windows (R152) and the carousels (R397). -/
structure LoadRequest where
  narrow : List Nat
  wide : List Nat
  ctxid : BitVec 12
  asid : BitVec 12
  root : Nat
  ttab : Nat
  gtab : Nat
  image : Image
  maint : Bool
  jobseed : Word
  windows : List Nat
  ringBase : BitVec 16
  tracked : List (Nat × Nat)
  trust : List (Nat × Nat × Nat)
  carousels : List CarouselRequest
  deriving DecidableEq, Repr

/-- A host access over CXL.mem or CXL.cache at a physical address (R148, R382). -/
inductive HostAccess where
  | read (pa n : Nat)
  | write (pa : Nat) (bytes : List Byte)
  deriving DecidableEq, Repr

/-- Where a soft error strikes (R154). -/
inductive ErrorPlace where
  | localMem (le off : Nat)
  | l1 (tile pa : Nat)
  | l2 (pa : Nat)
  | gddr (pa : Nat)
  | icache (tile va : Nat)
  | gReg (le set : Nat) (sup : Bool) (n : RegNo)
  | fReg (le set : Nat) (n : RegNo)
  | vReg (le set : Nat) (n : RegNo)
  deriving DecidableEq, Repr

/-- The changes that are made only while a partition stands at a calm point (R366). -/
inductive CalmChange where
  | groupEntry (g va count : Nat)
  | bindWindow (w : Nat) (ctx : Option (BitVec 12))
  | tracked (k base len : Nat)
  | trustWindow (k base len plane : Nat)
  | bindCarousel (car : Nat) (bound : Bool) (ctx : BitVec 12)
  | advanceEpoch
  deriving DecidableEq, Repr

/-- One constructor per row of spec/opcode_table.json, in the table's order. Fields that may hold a port are `Opnd`; fields that
hold an address, a token, a capability, a channel, a carousel, a segment or a group, or that are read and written, are `RegNo`
(R35). In `rpt` the fields c and n hold the counts less one (R32). -/
inductive Instr where
  /-- `ADD` (R189). -/
  | add (d a b : Opnd)
  /-- `SUB` (R189). -/
  | sub (d a b : Opnd)
  /-- `AND` (R189). -/
  | and (d a b : Opnd)
  /-- `OR` (R189). -/
  | or (d a b : Opnd)
  /-- `XOR` (R189). -/
  | xor (d a b : Opnd)
  /-- `NOR` (R189). -/
  | nor (d a b : Opnd)
  /-- `SLL` (R189). -/
  | sll (d a b : Opnd)
  /-- `SRL` (R189). -/
  | srl (d a b : Opnd)
  /-- `SRA` (R189). -/
  | sra (d a b : Opnd)
  /-- `ROL` (R189). -/
  | rol (d a b : Opnd)
  /-- `SLT` (R189). -/
  | slt (d a b : Opnd)
  /-- `SLTN` (R189). -/
  | sltn (d a b : Opnd)
  /-- `MIN` (R189). -/
  | min (d a b : Opnd)
  /-- `MAX` (R189). -/
  | max (d a b : Opnd)
  /-- `MINN` (R189). -/
  | minn (d a b : Opnd)
  /-- `MAXN` (R189). -/
  | maxn (d a b : Opnd)
  /-- `MUL` (R189). -/
  | mul (d a b : Opnd)
  /-- `MULH` (R189). -/
  | mulh (d a b : Opnd)
  /-- `MULHN` (R189). -/
  | mulhn (d a b : Opnd)
  /-- `DIV` (R190). -/
  | div (d a b : Opnd)
  /-- `DIVN` (R190). -/
  | divn (d a b : Opnd)
  /-- `REM` (R190). -/
  | rem (d a b : Opnd)
  /-- `REMN` (R190). -/
  | remn (d a b : Opnd)
  /-- `CLZ` (R189). -/
  | clz (d a : Opnd)
  /-- `CTZ` (R189). -/
  | ctz (d a : Opnd)
  /-- `POPC` (R189). -/
  | popc (d a : Opnd)
  /-- `BSWAP` (R189). -/
  | bswap (d a : Opnd)
  /-- `BEXT` (R189). -/
  | bext (d a b : Opnd)
  /-- `BINS` (R189). -/
  | bins (d : RegNo) (a b : Opnd)
  /-- `SEL` (R189). -/
  | sel (d : RegNo) (a b : Opnd)
  /-- `ADDW` (R189). -/
  | addw (d a b : Opnd)
  /-- `SUBW` (R189). -/
  | subw (d a b : Opnd)
  /-- `MULW` (R189). -/
  | mulw (d a b : Opnd)
  /-- `LEA_SHIFT0` (R189). -/
  | lea0 (d a b : Opnd)
  /-- `LEA_SHIFT1` (R189). -/
  | lea1 (d a b : Opnd)
  /-- `LEA_SHIFT2` (R189). -/
  | lea2 (d a b : Opnd)
  /-- `LEA_SHIFT3` (R189). -/
  | lea3 (d a b : Opnd)
  /-- `ADDI` (R192). -/
  | addi (d a : Opnd) (i : BitVec 12)
  /-- `ANDI` (R192). -/
  | andi (d a : Opnd) (i : BitVec 12)
  /-- `ORI` (R192). -/
  | ori (d a : Opnd) (i : BitVec 12)
  /-- `XORI` (R192). -/
  | xori (d a : Opnd) (i : BitVec 12)
  /-- `SLLI` (R192). -/
  | slli (d a : Opnd) (i : BitVec 6)
  /-- `SRLI` (R192). -/
  | srli (d a : Opnd) (i : BitVec 6)
  /-- `SRAI` (R192). -/
  | srai (d a : Opnd) (i : BitVec 6)
  /-- `SLTI` (R192). -/
  | slti (d a : Opnd) (i : BitVec 12)
  /-- `SLTNI` (R192). -/
  | sltni (d a : Opnd) (i : BitVec 12)
  /-- `ADDWI` (R192). -/
  | addwi (d a : Opnd) (i : BitVec 12)
  /-- `LDHI` (R192). -/
  | ldhi (d : Opnd) (i : BitVec 18)
  /-- `PCADD` (R192). -/
  | pcadd (d : Opnd) (i : BitVec 18)
  /-- `BEQ` (R193). -/
  | beq (a b : Opnd) (off : BitVec 12)
  /-- `BNE` (R193). -/
  | bne (a b : Opnd) (off : BitVec 12)
  /-- `BLT` (R193). -/
  | blt (a b : Opnd) (off : BitVec 12)
  /-- `BGE` (R193). -/
  | bge (a b : Opnd) (off : BitVec 12)
  /-- `BLTN` (R193). -/
  | bltn (a b : Opnd) (off : BitVec 12)
  /-- `BGEN` (R193). -/
  | bgen (a b : Opnd) (off : BitVec 12)
  /-- `JAL` (R194). -/
  | jal (d : Opnd) (off : BitVec 18)
  /-- `JALR` (R194). -/
  | jalr (d : Opnd) (a : RegNo) (i : BitVec 12)
  /-- `RPT` (R195). -/
  | rpt (c : BitVec 6) (n : BitVec 4) (kd ka kb : BitVec 2)
  /-- `CALLAT` (R117). -/
  | callat (d a : Opnd) (b c : RegNo)
  /-- `BSIGLT` (R210). -/
  | bsiglt (a : RegNo) (lit : BitVec 6) (off : BitVec 12)
  /-- `BSIGGE` (R210). -/
  | bsigge (a : RegNo) (lit : BitVec 6) (off : BitVec 12)
  /-- `LDN8` (R157). -/
  | ldn8 (d : Opnd) (a : RegNo) (off : BitVec 12)
  /-- `LDI8` (R157). -/
  | ldi8 (d : Opnd) (a : RegNo) (off : BitVec 12)
  /-- `LDN16` (R157). -/
  | ldn16 (d : Opnd) (a : RegNo) (off : BitVec 12)
  /-- `LDI16` (R157). -/
  | ldi16 (d : Opnd) (a : RegNo) (off : BitVec 12)
  /-- `LDN32` (R157). -/
  | ldn32 (d : Opnd) (a : RegNo) (off : BitVec 12)
  /-- `LDI32` (R157). -/
  | ldi32 (d : Opnd) (a : RegNo) (off : BitVec 12)
  /-- `LD64` (R157). -/
  | ld64 (d : Opnd) (a : RegNo) (off : BitVec 12)
  /-- `ST8` (R157). -/
  | st8 (d : Opnd) (a : RegNo) (off : BitVec 12)
  /-- `ST16` (R157). -/
  | st16 (d : Opnd) (a : RegNo) (off : BitVec 12)
  /-- `ST32` (R157). -/
  | st32 (d : Opnd) (a : RegNo) (off : BitVec 12)
  /-- `ST64` (R157). -/
  | st64 (d : Opnd) (a : RegNo) (off : BitVec 12)
  /-- `FLD32` (R157). -/
  | fld32 (d : Opnd) (a : RegNo) (off : BitVec 12)
  /-- `FLD64` (R157). -/
  | fld64 (d : Opnd) (a : RegNo) (off : BitVec 12)
  /-- `FST32` (R157). -/
  | fst32 (d : Opnd) (a : RegNo) (off : BitVec 12)
  /-- `FST64` (R157). -/
  | fst64 (d : Opnd) (a : RegNo) (off : BitVec 12)
  /-- `FLDT32` (R158). -/
  | fldt32 (d : Opnd) (a : RegNo) (off : BitVec 12)
  /-- `FLDT64` (R158). -/
  | fldt64 (d : Opnd) (a : RegNo) (off : BitVec 12)
  /-- `FSTT32` (R158). -/
  | fstt32 (d : Opnd) (a : RegNo) (off : BitVec 12)
  /-- `FSTT64` (R158). -/
  | fstt64 (d : Opnd) (a : RegNo) (off : BitVec 12)
  /-- `VLD` (R157). -/
  | vld (d : Opnd) (a : RegNo) (off : BitVec 12)
  /-- `VST` (R157). -/
  | vst (d : Opnd) (a : RegNo) (off : BitVec 12)
  /-- `VLDT` (R158). -/
  | vldt (d : Opnd) (a : RegNo) (off : BitVec 12)
  /-- `VSTT` (R158). -/
  | vstt (d : Opnd) (a : RegNo) (off : BitVec 12)
  /-- `LDA` (R159). -/
  | lda (d : Opnd) (a : RegNo) (sc : Scope) (w : Width)
  /-- `STL` (R159). -/
  | stl (d : Opnd) (a : RegNo) (sc : Scope) (w : Width)
  /-- `LDV` (R160). -/
  | ldv (d : Opnd) (a : RegNo) (b : Opnd) (sc : Scope)
  /-- `STV` (R161). -/
  | stv (d : Opnd) (a : RegNo) (sc : Scope)
  /-- `VRST` (R162). -/
  | vrst (a : RegNo) (b : Opnd)
  /-- `AADD` (R315). -/
  | aadd (d : Opnd) (a : RegNo) (b : Opnd) (w64 ar : Bool)
  /-- `AAND` (R315). -/
  | aand (d : Opnd) (a : RegNo) (b : Opnd) (w64 ar : Bool)
  /-- `AOR` (R315). -/
  | aor (d : Opnd) (a : RegNo) (b : Opnd) (w64 ar : Bool)
  /-- `AXOR` (R315). -/
  | axor (d : Opnd) (a : RegNo) (b : Opnd) (w64 ar : Bool)
  /-- `AMIN` (R315). -/
  | amin (d : Opnd) (a : RegNo) (b : Opnd) (w64 ar : Bool)
  /-- `AMAX` (R315). -/
  | amax (d : Opnd) (a : RegNo) (b : Opnd) (w64 ar : Bool)
  /-- `AMINN` (R315). -/
  | aminn (d : Opnd) (a : RegNo) (b : Opnd) (w64 ar : Bool)
  /-- `AMAXN` (R315). -/
  | amaxn (d : Opnd) (a : RegNo) (b : Opnd) (w64 ar : Bool)
  /-- `ASWP` (R315). -/
  | aswp (d : Opnd) (a : RegNo) (b : Opnd) (w64 ar : Bool)
  /-- `ACAS` (R315). -/
  | acas (d a : RegNo) (b : Opnd) (w64 ar : Bool)
  /-- `FENC` (R316). -/
  | fenc (d : RegNo) (smp st ld : Bool) (sc : Scope)
  /-- `FWAIT` (R317). -/
  | fwait (a : RegNo)
  /-- `FENCE` (R318). -/
  | fence (o : FenceOrder) (sc : Scope)
  /-- `FADD` (R200). -/
  | fadd (t : FType) (d a b : Opnd)
  /-- `FSUB` (R200). -/
  | fsub (t : FType) (d a b : Opnd)
  /-- `FMUL` (R200). -/
  | fmul (t : FType) (d a b : Opnd)
  /-- `FDIV` (R200). -/
  | fdiv (t : FType) (d a b : Opnd)
  /-- `FSQRT` (R200). -/
  | fsqrt (t : FType) (d a : Opnd)
  /-- `FMIN` (R201). -/
  | fmin (t : FType) (d a b : Opnd)
  /-- `FMAX` (R201). -/
  | fmax (t : FType) (d a b : Opnd)
  /-- `FABS` (R200). -/
  | fabs (t : FType) (d a : Opnd)
  /-- `FNEG` (R200). -/
  | fneg (t : FType) (d a : Opnd)
  /-- `FSGN` (R200). -/
  | fsgn (t : FType) (d a b : Opnd)
  /-- `FCLASS` (R202). -/
  | fclass (t : FType) (d a : Opnd)
  /-- `FRND` (R203). -/
  | frnd (t : FType) (d a : Opnd)
  /-- `FMOV` (R200). -/
  | fmov (t : FType) (d a : Opnd)
  /-- `FFMA` (R205). -/
  | ffma (dbl : Bool) (d a b c : Opnd)
  /-- `FCMP` (R206). -/
  | fcmp (t : FType) (cond : FCond) (d a b : Opnd)
  /-- `FCVT` (R207). -/
  | fcvt (dst src : CvtType) (rm : RmField) (d a : Opnd)
  /-- `FMOVI` (R208). -/
  | fmovi (d : Opnd) (i : BitVec 12)
  /-- `FTC` (R209). -/
  | ftc (d : Opnd) (a : RegNo) (v : Bool) (lane : BitVec 2)
  /-- `FSTC` (R209). -/
  | fstc (d : RegNo) (a : Opnd) (v : Bool) (lane : BitVec 2)
  /-- `VADD` (R240). -/
  | vadd (t : LaneType) (d a b : Opnd)
  /-- `VSUB` (R240). -/
  | vsub (t : LaneType) (d a b : Opnd)
  /-- `VMUL` (R240). -/
  | vmul (t : LaneType) (d a b : Opnd)
  /-- `VMIN` (R240). -/
  | vmin (t : LaneType) (d a b : Opnd)
  /-- `VMAX` (R240). -/
  | vmax (t : LaneType) (d a b : Opnd)
  /-- `VABS` (R240). -/
  | vabs (t : LaneType) (d a : Opnd)
  /-- `VNEG` (R240). -/
  | vneg (t : LaneType) (d a : Opnd)
  /-- `VAND` (R240). -/
  | vand (t : LaneType) (d a b : Opnd)
  /-- `VOR` (R240). -/
  | vor (t : LaneType) (d a b : Opnd)
  /-- `VXOR` (R240). -/
  | vxor (t : LaneType) (d a b : Opnd)
  /-- `VSHL` (R240). -/
  | vshl (t : LaneType) (d a b : Opnd)
  /-- `VSHR` (R240). -/
  | vshr (t : LaneType) (d a b : Opnd)
  /-- `VPERM` (R240). -/
  | vperm (t : LaneType) (d a b : Opnd)
  /-- `VBC` (R240). -/
  | vbc (t : LaneType) (d a : Opnd)
  /-- `VRED` (R240). -/
  | vred (t : LaneType) (d a : Opnd)
  /-- `VINS` (R240). -/
  | vins (t : LaneType) (d : RegNo) (a : Opnd) (l : BitVec 6)
  /-- `VEXT` (R240). -/
  | vext (t : LaneType) (d a : Opnd) (l : BitVec 6)
  /-- `VDOT` (R240). -/
  | vdot (t : LaneType) (d a b : Opnd)
  /-- `VCMP` (R240). -/
  | vcmp (t : LaneType) (d a b : Opnd)
  /-- `VSEL` (R240). -/
  | vsel (t : LaneType) (d : RegNo) (a b : Opnd)
  /-- `VFMA_F32` (R242). -/
  | vfmaF32 (d a b c : Opnd)
  /-- `VFMA_BF16` (R242). -/
  | vfmaBf16 (d a b c : Opnd)
  /-- `VCVT` (R243). -/
  | vcvt (dst src : LaneType) (d a : Opnd)
  /-- `WADD` (R246). -/
  | wadd (d a : RegNo)
  /-- `WSUB` (R246). -/
  | wsub (d a : RegNo)
  /-- `WMUL` (R246). -/
  | wmul (d a : RegNo)
  /-- `WFMA` (R246). -/
  | wfma (d a : RegNo)
  /-- `WMIN` (R246). -/
  | wmin (d a : RegNo)
  /-- `WMAX` (R246). -/
  | wmax (d a : RegNo)
  /-- `WCVT` (R246). -/
  | wcvt (d a : RegNo)
  /-- `WRED` (R246). -/
  | wred (d a : RegNo)
  /-- `WEXP` (R246). -/
  | wexp (d a : RegNo)
  /-- `WRSQ` (R246). -/
  | wrsq (d a : RegNo)
  /-- `WACT` (R246). -/
  | wact (d a : RegNo) (b : Opnd)
  /-- `WSCL` (R246). -/
  | wscl (d a : RegNo) (b : Opnd)
  /-- `WCPY` (R246). -/
  | wcpy (d a : RegNo)
  /-- `WTRN` (R246). -/
  | wtrn (d a : RegNo)
  /-- `MLD` (R276). -/
  | mld (d a b c : RegNo)
  /-- `MSWP` (R277). -/
  | mswp (d a : RegNo)
  /-- `MRFP4` (R278). -/
  | mrfp4 (d a b c : RegNo)
  /-- `MRI8` (R278). -/
  | mri8 (d a b c : RegNo)
  /-- `MRI48` (R278). -/
  | mri48 (d a b c : RegNo)
  /-- `MRBF` (R278). -/
  | mrbf (d a b c : RegNo)
  /-- `MRHF` (R278). -/
  | mrhf (d a b c : RegNo)
  /-- `MRE43` (R278). -/
  | mre43 (d a b c : RegNo)
  /-- `MRE52` (R278). -/
  | mre52 (d a b c : RegNo)
  /-- `MRE45` (R278). -/
  | mre45 (d a b c : RegNo)
  /-- `MDRN` (R279). -/
  | mdrn (d a b c : RegNo)
  /-- `MZRO` (R281). -/
  | mzro (d a : RegNo)
  /-- `MCAP` (R275). -/
  | mcap (d : RegNo) (a b : Opnd)
  /-- `MQRY` (R282). -/
  | mqry (d a : RegNo)
  /-- `CPY` (R253). -/
  | cpy (d a b : RegNo) (c : Opnd)
  /-- `CPYM` (R253). -/
  | cpym (d : Opnd) (a b : RegNo) (c : Opnd)
  /-- `GATH` (R255). -/
  | gath (d a b c : RegNo)
  /-- `SCAT` (R255). -/
  | scat (d a b c : RegNo)
  /-- `RBR` (R254). -/
  | rbr (d : Opnd) (a b : RegNo) (c : Opnd)
  /-- `COLL` (R257). -/
  | coll (d a b : RegNo) (op : CollOp)
  /-- `SEND` (R183). -/
  | send (d a : RegNo) (n : BitVec 6) (rel : Option Scope)
  /-- `SENDM` (R184). -/
  | sendm (d a : RegNo) (n : BitVec 6) (rel : Option Scope)
  /-- `DONE` (R185). -/
  | doneI
  /-- `MID` (R186). -/
  | mid (d : Opnd)
  /-- `SPAWN` (R116). -/
  | spawn (d : RegNo) (a : Opnd) (b c : RegNo)
  /-- `RDEC` (R119). -/
  | rdec (d a : RegNo)
  /-- `ALW` (R187). -/
  | alw (d a : Opnd)
  /-- `QWAIT` (R188). -/
  | qwait (d : Opnd) (p : BitVec 6) (b : Opnd)
  /-- `HSET` (R97). -/
  | hset (a b : RegNo)
  /-- `HMASK` (R96). -/
  | hmask (d a b : Opnd)
  /-- `GBAR` (R340). -/
  | gbar (d a : RegNo)
  /-- `GSEND` (R341). -/
  | gsend (d a : RegNo) (n : BitVec 6) (rel : Option Scope)
  /-- `GID` (R342). -/
  | gid (d : Opnd) (i : BitVec 2)
  /-- `STG` (R99). -/
  | stg (a b : RegNo)
  /-- `CLONE` (R335). -/
  | clone (d a : RegNo)
  /-- `MERGE` (R336). -/
  | merge (d a : RegNo) (b : Opnd)
  /-- `KRD` (R337). -/
  | krd (d : Opnd) (a : RegNo) (i : BitVec 3)
  /-- `XST` (R338). -/
  | xst (d a : RegNo) (b : Opnd)
  /-- `CSUB` (R227). -/
  | csub (d : Opnd) (a b : RegNo)
  /-- `CSKIP` (R228). -/
  | cskip (d : Opnd) (a b : RegNo)
  /-- `CPROM` (R229). -/
  | cprom (d a b : RegNo)
  /-- `CSTAT` (R230). -/
  | cstat (d : Opnd) (a : RegNo) (s : BitVec 2)
  /-- `BOXT` (R234). -/
  | boxt (d a b m : RegNo)
  /-- `TRIT` (R235). -/
  | trit (d a b w : RegNo)
  /-- `SPUSH` (R237). -/
  | spush (a : Opnd)
  /-- `SPOP` (R237). -/
  | spop (d : Opnd)
  /-- `EDG` (R291). -/
  | edg (d a b : RegNo)
  /-- `COV` (R292). -/
  | cov (d a b z : RegNo)
  /-- `QMRG` (R293). -/
  | qmrg (d a b p : RegNo)
  /-- `DFX` (R294). -/
  | dfx (d a : RegNo)
  /-- `DFY` (R294). -/
  | dfy (d a : RegNo)
  /-- `SMP` (R296). -/
  | smp (d a b : RegNo)
  /-- `SMPL` (R296). -/
  | smpl (d a b l : RegNo)
  /-- `TXL` (R296). -/
  | txl (d a b : RegNo)
  /-- `SYS` (R353). -/
  | sys (i : BitVec 12)
  /-- `TRET` (R354). -/
  | tret (m : BitVec 2)
  /-- `YLD` (R358). -/
  | yld
  /-- `MARK` (R374). -/
  | mark (a : Opnd) (i : BitVec 12)
  /-- `CSRR` (R355). -/
  | csrr (d : Opnd) (csr : BitVec 12)
  /-- `CSRW` (R355). -/
  | csrw (d a : Opnd) (csr : BitVec 12)
  /-- `CSRS` (R355). -/
  | csrs (d a : Opnd) (csr : BitVec 12)
  /-- `CSRC` (R355). -/
  | csrc (d a : Opnd) (csr : BitVec 12)
  /-- `LAUNCH_WINDOW_WRITE` (R105). -/
  | launchWindowWrite (w off : Nat) (bytes : List Byte)
  /-- `LSTAT_READ` (R108). -/
  | lstatRead (w : Nat)
  /-- `LAUNCH_DISPATCH` (R109). -/
  | launchDispatch (w : Nat)
  /-- `LAUNCH_SHARE_RETRY` (R113). -/
  | launchShareRetry (w chiplet : Nat)
  /-- `MESSAGE_ARRIVAL` (R167). -/
  | messageArrival (k : Nat)
  /-- `ACTIVATION_DISPATCH` (R168). -/
  | activationDispatch (le : Nat)
  /-- `SPAWN_AT_TARGET` (R116). -/
  | spawnAtTarget (k : Nat)
  /-- `SPAWN_REPLY` (R116). -/
  | spawnReply (k : Nat)
  /-- `RDEC_AT_OWNER` (R119). -/
  | rdecAtOwner (k : Nat)
  /-- `TILE_IDLE` (R121). -/
  | tileIdle (tile : Nat)
  /-- `STEAL_REQUEST` (R122). -/
  | stealRequest (k : Nat)
  /-- `STEAL_ANSWER` (R122). -/
  | stealAnswer (k : Nat)
  /-- `BUDGET_PERIOD_BOUNDARY` (R124). -/
  | budgetPeriodBoundary
  /-- `BUDGET_SHARE_WRITE` (R124). -/
  | budgetShareWrite (shares : Vector ClassShare 6)
  /-- `SPLIT_QUEUE` (R325). -/
  | splitQueue (le ch : Nat)
  /-- `CLONE_INSTALL` (R326). -/
  | cloneInstall (le ch : Nat)
  /-- `MERGE_EXPORT_QUEUE` (R331). -/
  | mergeExportQueue (le ch : Nat)
  /-- `MERGE_IMPORT_QUEUE` (R332). -/
  | mergeImportQueue (le ch : Nat)
  /-- `PAGE_WALK` (R143). -/
  | pageWalk (tile va : Nat)
  /-- `SHOOTDOWN` (R146). -/
  | shootdown (va len : Nat)
  /-- `LDV_WAKE` (R160). -/
  | ldvWake (le k : Nat)
  /-- `SCRUB` (R155). -/
  | scrub (pa : Nat)
  /-- `PORT_UNBLOCK` (R180). -/
  | portUnblock (le set : Nat)
  /-- `DONE_COMPLETE` (R185). -/
  | doneComplete (le set : Nat)
  /-- `QWAIT_EXPIRY` (R188). -/
  | qwaitExpiry (le set : Nat)
  /-- `COPY_COMMAND_COMPLETE` (R253). -/
  | copyCommandComplete (tile k : Nat)
  /-- `REMOTE_LOCAL_ACCESS` (R131). -/
  | remoteLocalAccess (le k : Nat)
  /-- `WOP_EXECUTE` (R244). -/
  | wopExecute (quad : Nat)
  /-- `WOP_QUANTUM_END` (R248). -/
  | wopQuantumEnd (quad : Nat)
  /-- `COLL_CONTRIBUTION` (R257). -/
  | collContribution (k : Nat)
  /-- `GBAR_ARRIVAL` (R339). -/
  | gbarArrival (k : Nat)
  /-- `MATRIX_COMMAND_ACCEPT` (R261). -/
  | matrixCommandAccept (k : Nat)
  /-- `MATRIX_COMMAND_COMPLETE` (R262). -/
  | matrixCommandComplete (tile : Nat)
  /-- `MQRY_ANSWER` (R282). -/
  | mqryAnswer (k : Nat)
  /-- `CLEN_WRITE` (R215). -/
  | clenWrite (car : Nat) (v : BitVec 16)
  /-- `NCMT_WRITE` (R215). -/
  | ncmtWrite (car : Nat) (v : Byte)
  /-- `TABLE_COPY_COMPLETE` (R215). -/
  | tableCopyComplete (car : Nat)
  /-- `MASK_NOTIFICATION` (R220). -/
  | maskNotification (k : Nat)
  /-- `CPROM_AT_ARBITER` (R229). -/
  | cpromAtArbiter (k : Nat)
  /-- `ARBITER_TURN` (R221). -/
  | arbiterTurn (car : Nat)
  /-- `SLOT_ANNOUNCEMENT` (R223). -/
  | slotAnnouncement (tile : Nat)
  /-- `FRAME_READ` (R219). -/
  | frameRead (car : Nat)
  /-- `CAPTURE_COMPLETE` (R225). -/
  | captureComplete (tile buf : Nat)
  /-- `FENC_COMPLETE` (R316). -/
  | fencComplete (le set k : Nat)
  /-- `CONTEXT_START` (R165). -/
  | contextStart (req : LoadRequest)
  /-- `CALM_POINT_BROADCAST` (R357). -/
  | calmPointBroadcast (t : Nat)
  /-- `COOPERATIVE_SWITCH` (R359). -/
  | cooperativeSwitch
  /-- `FORCED_STOP` (R360). -/
  | forcedStop
  /-- `CONTEXT_RESUME` (R365): the saved context and the tiles of the partition it resumes on (R110, R364). -/
  | contextResume (ctx : BitVec 12) (narrow wide : List Nat)
  /-- `CONTEXT_HALT` (R367). -/
  | contextHalt
  /-- `PC_SAMPLE` (R372). -/
  | pcSample (le : Nat)
  /-- `LOSS_RECORD` (R373). -/
  | lossRecord (tile : Nat)
  /-- `ALLOTMENT_RETIRE` (R376). -/
  | allotmentRetire (le k : Nat)
  /-- `LAUNCH_COMPLETION` (R378). -/
  | launchCompletion (k : Nat)
  /-- `HOST_MEM_ACCESS` (R382). -/
  | hostMemAccess (acc : HostAccess)
  /-- `CXL_CACHE_REQUEST` (R148). -/
  | cxlCacheRequest (acc : HostAccess)
  /-- `MBCMD_WRITE` (R380). -/
  | mbcmdWrite (v : Word)
  /-- `SPDM_REQUEST` (R385). -/
  | spdmRequest (nonce : Word)
  /-- `GOVERNOR_INTERVAL` (R386). -/
  | governorInterval (chiplet temp : Nat)
  /-- `OVERCURRENT` (R387). -/
  | overcurrent (chiplet milliamps : Nat)
  /-- `SRAM_RAIL_WINDOW` (R388). -/
  | sramRailWindow (quad : Nat)
  /-- `POWER_GOOD` (R389). -/
  | powerGood
  /-- `REGISTER_WRITE` (R214). -/
  | registerWrite (off : Nat) (bytes : List Byte)
  /-- `MODULE_POWER_OFF` (R18). -/
  | modulePowerOff
  /-- `SOFT_ERROR` (R154). -/
  | softError (at_ : ErrorPlace) (fatal : Bool)
  /-- `MEMORY_OPERATION_COMPLETE` (R145). -/
  | memoryOperationComplete (le k : Nat)
  /-- `FETCH_LINE_FILL` (R133). -/
  | fetchLineFill (le set : Nat)
  /-- `CALM_POINT_CHANGE` (R366). -/
  | calmPointChange (change : CalmChange)
  /-- `MAILBOX_COMMAND_COMPLETE` (R380). -/
  | mailboxCommandComplete
  deriving DecidableEq, Repr

end Sys2Proof
end

