-- ==== Sys2Proof/WellFormed.lean ====
section
/-! DEFINITION. Which terms of `Instr` are instructions: the operand rules of R35 and R37 to R52 that the types of Syntax.lean
leave open, and for the steps of the other agents the ranges that the spec gives their operands. Every word the decoder
accepts is well-formed (Decode.lean). -/
namespace Sys2Proof

/-- A source may be any register or port but `po` (R35). -/
def Opnd.isSrc : Opnd → Bool
  | .port .po => false
  | _ => true

/-- A destination may be any register or port but `pi` (R35). -/
def Opnd.isDst : Opnd → Bool
  | .port .pi => false
  | _ => true

/-- The number of lanes of a lane type (R238). -/
def LaneType.lanes : LaneType → Nat
  | .f32 | .i32 | .n32 => 4
  | .bf16 | .f16 | .i16 | .n16 => 8
  | .i8 | .n8 => 16

/-- The floating lane types (R43). -/
def LaneType.isFloat : LaneType → Bool
  | .f32 | .bf16 | .f16 => true
  | _ => false

/-- The integer (`.i`) lane types (R43). -/
def LaneType.isInt : LaneType → Bool
  | .i32 | .i16 | .i8 => true
  | _ => false

/-- The integer types of `fcvt` (R42). -/
def CvtType.isInt : CvtType → Bool
  | .i64 | .n64 | .i32 | .n32 => true
  | _ => false

/-- The assigned CSR addresses (R50, R356). -/
def csrAssigned (c : BitVec 12) : Bool :=
  let n := c.toNat
  (1 ≤ n && n ≤ 5) || (0x10 ≤ n && n ≤ 0x13) || (0x20 ≤ n && n ≤ 0x24) ||
  (0x30 ≤ n && n ≤ 0x3B) || (0x40 ≤ n && n ≤ 0x4F) || (0x50 ≤ n && n ≤ 0x55)

/-- The CSR addresses with a writable field (R356). -/
def csrWritable (c : BitVec 12) : Bool :=
  let n := c.toNat
  (1 ≤ n && n ≤ 5) || n == 0x21 || n == 0x22 || n == 0x24

/-- The CSRs that only the supervisor trap handler writes (R344, R355). -/
def csrSupervisor (c : BitVec 12) : Bool :=
  let n := c.toNat
  n == 0x21 || n == 0x22 || n == 0x24

/-- The 14 NaN patterns that `fmovi` may not form (R52): 0x7F9 to 0x7FF and 0xFF9 to 0xFFF. -/
def fmoviNaN (i : BitVec 12) : Bool := 0x7F9 ≤ i.toNat % 0x800

/-- The port literals of `qwait` (R188). -/
def qwaitPort (p : BitVec 6) : Bool :=
  let n := p.toNat
  n == 0 || n == 32 || (34 ≤ n && n ≤ 37) || (40 ≤ n && n ≤ 43)

/-- A run of `n` registers from `a` ends at or below 31; with `n` 0 the field is zero (R47, R183). -/
def sendRun (a : RegNo) (n : BitVec 6) : Bool :=
  n.toNat ≤ 8 && (if n == 0 then a == 0 else a.toNat + n.toNat ≤ 32)

/-- A logical element number (R110). -/
def isLe (n : Nat) : Bool := n < 262144
/-- A tile number (R12). -/
def isTile (n : Nat) : Bool := n < 4096
/-- A quad number, 16 to a tile (R12). -/
def isQuad (n : Nat) : Bool := n < 65536

/-- A partition is 16n tiles, three in four narrow (R110). -/
def partitionWf (narrow wide : List Nat) : Bool :=
  wide.length % 4 == 0 && 0 < wide.length && narrow.length == 3 * wide.length && (narrow ++ wide).all isTile

/-- A range of global addresses (R127), or nothing. -/
def globalRange (base len : Nat) : Bool := len == 0 || (decide (0x10000000000 ≤ base) && decide (base + len ≤ 0x20000000000))

/-- The runtime takes an image at load (R391): `.text` and `.data` at 64 KiB boundaries of global memory (R27); with both labels of the trap entry
the conditions on them, and no image with only one. The literal pool, of whole words, lies in `.text` (R54). -/
def Image.wf (m : Image) : Bool :=
  m.text % 65536 == 0 && m.data % 65536 == 0 && globalRange m.data 1 && decide (m.text ≤ m.textEnd) && globalRange m.text (m.textEnd - m.text) &&
  m.pool.all (fun p => p % 8 == 0 && decide (m.text ≤ p) && decide (p + 8 ≤ m.textEnd)) &&
  (match m.trapentry, m.trapend with
   | none, none => true
   | some a, some b => a == m.text && decide (a < b) && (b - a) % 65536 == 0 && decide (b ≤ m.pool.getD m.textEnd)
   | _, _ => false)

/-- A load request names a partition (R110), at least one window (R105), at most eight tracked
regions of whole 64 KiB blocks and 256 MiB in all (R149), at most four trust windows with both
ranges in global memory (R152), carousels 0 to 3 (R104) and an image that the runtime takes (R391). The base of the task-type table is
taken as it stands, 64-aligned or not (R86; log entry 73). -/
def LoadRequest.wf (r : LoadRequest) : Bool :=
  partitionWf r.narrow r.wide && r.root % 16384 == 0 && !r.windows.isEmpty && r.windows.all (· < 64) &&
  r.tracked.length ≤ 8 && r.tracked.all (fun t => t.1 % 65536 == 0 && t.2 % 65536 == 0 && globalRange t.1 t.2) &&
  (r.tracked.map (·.2)).sum ≤ 2 ^ 28 && r.trust.length ≤ 4 &&
  r.trust.all (fun t => t.1 % 256 == 0 && t.2.1 % 256 == 0 && t.2.2 % 64 == 0 && t.2.1 < 2 ^ 32 && globalRange t.1 t.2.1 &&
    globalRange t.2.2 (t.2.1 / 4)) &&
  r.carousels.all (fun c => c.car < 4 && c.clen ≤ 4096) && r.image.wf

/-- The operand rules of every constructor. -/
def Instr.wellFormed : Instr → Bool
  | .add d a b | .sub d a b | .and d a b | .or d a b | .xor d a b | .nor d a b | .sll d a b | .srl d a b | .sra d a b
  | .rol d a b | .slt d a b | .sltn d a b | .min d a b | .max d a b | .minn d a b | .maxn d a b | .mul d a b
  | .mulh d a b | .mulhn d a b | .div d a b | .divn d a b | .rem d a b | .remn d a b | .bext d a b | .addw d a b
  | .subw d a b | .mulw d a b | .lea0 d a b | .lea1 d a b | .lea2 d a b | .lea3 d a b | .hmask d a b =>
    d.isDst && a.isSrc && b.isSrc
  | .clz d a | .ctz d a | .popc d a | .bswap d a | .alw d a => d.isDst && a.isSrc
  | .bins _ a b | .sel _ a b | .mcap _ a b => a.isSrc && b.isSrc
  | .addi d a _ | .andi d a _ | .ori d a _ | .xori d a _ | .slli d a _ | .srli d a _ | .srai d a _ | .slti d a _
  | .sltni d a _ | .addwi d a _ => d.isDst && a.isSrc
  | .ldhi d _ | .pcadd d _ | .jal d _ | .jalr d _ _ => d.isDst
  | .beq a b _ | .bne a b _ | .blt a b _ | .bge a b _ | .bltn a b _ | .bgen a b _ => a.isSrc && b.isSrc
  | .rpt _ _ _ _ _ => true
  | .callat d a _ c => d.isDst && a.isSrc && c.toNat ≤ 28
  | .bsiglt _ _ _ | .bsigge _ _ _ => true
  | .ldn8 d _ _ | .ldi8 d _ _ | .ldn16 d _ _ | .ldi16 d _ _ | .ldn32 d _ _ | .ldi32 d _ _ | .ld64 d _ _
  | .fld32 d _ _ | .fld64 d _ _ | .fldt32 d _ _ | .fldt64 d _ _ | .vld d _ _ | .vldt d _ _ => d.isDst
  | .st8 d _ _ | .st16 d _ _ | .st32 d _ _ | .st64 d _ _ | .fst32 d _ _ | .fst64 d _ _ | .fstt32 d _ _
  | .fstt64 d _ _ | .vst d _ _ | .vstt d _ _ => d.isSrc
  | .lda d _ _ _ => d.isDst
  | .stl d _ _ _ => d.isSrc
  | .ldv d _ b _ => d.isDst && b.isSrc
  | .stv d _ _ => d.isSrc
  | .vrst _ b => b.isSrc
  | .aadd d _ b _ _ | .aand d _ b _ _ | .aor d _ b _ _ | .axor d _ b _ _ | .amin d _ b _ _ | .amax d _ b _ _
  | .aminn d _ b _ _ | .amaxn d _ b _ _ | .aswp d _ b _ _ => d.isDst && b.isSrc
  | .acas _ _ b _ _ => b.isSrc
  | .fenc _ ksmp kst kld _ => ksmp || kst || kld
  | .fwait _ | .fence _ _ => true
  | .fadd _ d a b | .fsub _ d a b | .fmul _ d a b | .fdiv _ d a b | .fmin _ d a b | .fmax _ d a b | .fsgn _ d a b =>
    d.isDst && a.isSrc && b.isSrc
  | .fsqrt _ d a | .fabs _ d a | .fneg _ d a | .fclass _ d a | .frnd _ d a | .fmov _ d a => d.isDst && a.isSrc
  | .ffma _ d a b c | .vfmaF32 d a b c | .vfmaBf16 d a b c => d.isDst && a.isSrc && b.isSrc && c.isSrc
  | .fcmp _ _ d a b => d.isDst && a.isSrc && b.isSrc
  | .fcvt dst src _ d a => dst != src && !(dst.isInt && src.isInt) && d.isDst && a.isSrc
  | .fmovi d i => d.isDst && !fmoviNaN i
  | .ftc d _ v lane => d.isDst && (v || lane == 0)
  | .fstc _ a v lane => a.isSrc && (v || lane == 0)
  | .vadd _ d a b | .vsub _ d a b | .vmul _ d a b | .vmin _ d a b | .vmax _ d a b | .vperm _ d a b | .vdot _ d a b
  | .vcmp _ d a b => d.isDst && a.isSrc && b.isSrc
  | .vabs t d a | .vneg t d a => (t.isFloat || t.isInt) && d.isDst && a.isSrc
  | .vand t d a b | .vor t d a b | .vxor t d a b | .vshl t d a b | .vshr t d a b =>
    !t.isFloat && d.isDst && a.isSrc && b.isSrc
  | .vbc _ d a | .vred _ d a => d.isDst && a.isSrc
  | .vins t _ a l => a.isSrc && l.toNat < t.lanes
  | .vext t d a l => d.isDst && a.isSrc && l.toNat < t.lanes
  | .vsel _ _ a b => a.isSrc && b.isSrc
  | .vcvt dst src d a => dst != src && d.isDst && a.isSrc
  | .wadd _ _ | .wsub _ _ | .wmul _ _ | .wfma _ _ | .wmin _ _ | .wmax _ _ | .wcvt _ _ | .wred _ _ | .wexp _ _
  | .wrsq _ _ | .wcpy _ _ | .wtrn _ _ => true
  | .wact _ _ b | .wscl _ _ b => b.isSrc
  | .mld _ _ _ _ | .mswp _ _ | .mrfp4 _ _ _ _ | .mri8 _ _ _ _ | .mri48 _ _ _ _ | .mrbf _ _ _ _ | .mrhf _ _ _ _
  | .mre43 _ _ _ _ | .mre52 _ _ _ _ | .mre45 _ _ _ _ | .mdrn _ _ _ _ | .mzro _ _ | .mqry _ _ => true
  | .cpy _ _ _ c => c.isSrc
  | .cpym d _ _ c | .rbr d _ _ c => d.isDst && c.isSrc
  | .gath _ _ _ _ | .scat _ _ _ _ | .coll _ _ _ _ => true
  | .send _ a n _ | .gsend _ a n _ => sendRun a n
  | .sendm _ _ n _ => 1 ≤ n.toNat && n.toNat ≤ 8
  | .doneI => true
  | .mid d => d.isDst
  | .spawn _ a _ c => a.isSrc && c.toNat ≤ 28
  | .rdec _ _ => true
  | .qwait d p b => d.isDst && qwaitPort p && b.isSrc
  | .hset _ _ | .gbar _ _ => true
  | .gid d _ => d.isDst
  | .stg _ _ | .clone _ _ => true
  | .merge _ _ b => b.isSrc
  | .krd d _ _ => d.isDst
  | .xst _ _ b => b.isSrc
  | .csub d _ _ | .cskip d _ _ => d.isDst
  | .cprom _ _ _ => true
  | .cstat d _ s => d.isDst && s != 3
  | .boxt _ a _ _ | .trit _ a _ _ => a != 31
  | .spush a => a.isSrc
  | .spop d => d.isDst
  | .edg d _ _ => d.toNat ≤ 29
  | .cov _ a _ _ => a.toNat ≤ 29
  | .qmrg d a b _ => d.toNat ≤ 30 && a.toNat ≤ 30 && b.toNat ≤ 30
  | .dfx _ _ | .dfy _ _ => true
  | .smp d _ b | .txl d _ b => d.toNat ≤ 28 && b.toNat ≤ 30
  | .smpl d _ b _ => d.toNat ≤ 28 && b.toNat ≤ 30
  | .sys _ => true
  | .tret m => m != 3
  | .yld => true
  | .mark a _ => a.isSrc
  | .csrr d csr => d.isDst && csrAssigned csr
  | .csrw d a csr => d.isDst && a.isSrc && csrAssigned csr && csrWritable csr
  | .csrs d a csr | .csrc d a csr =>
    d.isDst && a.isSrc && csrAssigned csr && (csrWritable csr || a == .reg 0)
  | .launchWindowWrite w off bytes => w < 64 && off + bytes.length ≤ 128 && !bytes.isEmpty
  | .lstatRead w => w < 64
  | .launchDispatch w => w < 64
  | .launchShareRetry w c => w < 64 && c < 16
  | .messageArrival _ | .spawnAtTarget _ | .spawnReply _ | .rdecAtOwner _ | .stealRequest _ | .stealAnswer _
  | .collContribution _ | .gbarArrival _ | .matrixCommandAccept _ | .mqryAnswer _ | .maskNotification _
  | .cpromAtArbiter _ | .launchCompletion _ => true
  | .activationDispatch le | .pcSample le => isLe le
  | .tileIdle t | .matrixCommandComplete t | .slotAnnouncement t | .lossRecord t => isTile t
  | .budgetPeriodBoundary | .budgetShareWrite _ => true
  | .splitQueue le ch | .cloneInstall le ch | .mergeExportQueue le ch | .mergeImportQueue le ch =>
    isLe le && 5 ≤ ch && ch ≤ 29
  | .pageWalk t va => isTile t && va < 2 ^ 49
  | .shootdown va len => va < 2 ^ 49 && len ≤ 2 ^ 49
  | .ldvWake le _ | .remoteLocalAccess le _ | .memoryOperationComplete le _ | .allotmentRetire le _ => isLe le
  | .scrub pa => pa % 8 == 0
  | .portUnblock le set | .doneComplete le set | .qwaitExpiry le set | .fetchLineFill le set => isLe le && set < 4
  | .fencComplete le set _ => isLe le && set < 4
  | .copyCommandComplete t _ => isTile t
  | .wopExecute q | .wopQuantumEnd q | .sramRailWindow q => isQuad q
  | .clenWrite car _ | .ncmtWrite car _ => car < 4
  | .tableCopyComplete car | .arbiterTurn car | .frameRead car => car < 4
  | .captureComplete t b => isTile t && b < 3
  | .contextStart req => req.wf
  | .calmPointBroadcast _ | .cooperativeSwitch | .forcedStop | .contextHalt => true
  | .contextResume _ narrow wide => partitionWf narrow wide
  | .hostMemAccess _ | .cxlCacheRequest _ | .mbcmdWrite _ | .spdmRequest _ => true
  | .governorInterval c _ | .overcurrent c _ => c < 16
  | .powerGood | .modulePowerOff | .mailboxCommandComplete | .softError _ _ | .calmPointChange _ => true
  | .registerWrite off bytes => off + bytes.length ≤ 0x100000 && !bytes.isEmpty

end Sys2Proof
end

