-- ==== Sys2Proof/Decode.lean ====
section
/-! DEFINITION. The decoder of instruction words (R32 to R52, R55 row 1), which rejects every other pattern by name, and after it
the encoder, written from the same tables. -/
namespace Sys2Proof

/-- Why a pattern is no instruction (R55 row 1); every one raises cause 0x01. -/
inductive Illegal where
  /-- Major opcode 0x00, 0xFF or a dot of the opcode map (R36). -/
  | unassignedOpcode
  /-- An unlisted fn or c code, or a modifier code the tables call illegal. -/
  | unlistedCode
  /-- A nonzero must-be-zero or unused field (R33). -/
  | nonzeroUnused
  /-- Register number 38, 39 or 44 to 63 (R34). -/
  | noSuchRegister
  /-- A port where R35 forbids it. -/
  | portForbidden
  /-- A literal, register run or combination that R37 to R52 call illegal. -/
  | operand
  /-- Fewer than four bytes were given. -/
  | truncated
  deriving DecidableEq, Repr

/-- Bits 31 to 24: the major opcode (R32). -/
def fOp (w : Code) : BitVec 8 := w.extractLsb' 24 8
/-- Bits 23 to 18: field d of format A (R32). -/
def fD (w : Code) : BitVec 6 := w.extractLsb' 18 6
/-- Bits 17 to 12: field a of format A (R32). -/
def fA (w : Code) : BitVec 6 := w.extractLsb' 12 6
/-- Bits 11 to 6: field b of format A (R32). -/
def fB (w : Code) : BitVec 6 := w.extractLsb' 6 6
/-- Bits 5 to 0: field fn of format A or c of format Q (R32). -/
def fC (w : Code) : BitVec 6 := w.extractLsb' 0 6
/-- Bits 11 to 0: imm12 or off12 (R32). -/
def fImm12 (w : Code) : BitVec 12 := w.extractLsb' 0 12
/-- Bits 17 to 0: imm18 or off18 (R32). -/
def fImm18 (w : Code) : BitVec 18 := w.extractLsb' 0 18

/-- What a 6-bit data field names (R34). -/
def opndOf (x : BitVec 6) : Except Illegal Opnd :=
  if x.toNat < 32 then .ok (.reg (x.setWidth 5))
  else match x.toNat with
    | 32 => .ok (.port .pi)
    | 33 => .ok (.port .po)
    | 34 => .ok (.port (.q 0))
    | 35 => .ok (.port (.q 1))
    | 36 => .ok (.port (.q 2))
    | 37 => .ok (.port (.q 3))
    | 40 => .ok (.port .pn)
    | 41 => .ok (.port .pe)
    | 42 => .ok (.port .ps)
    | 43 => .ok (.port .pw)
    | _ => .error .noSuchRegister

/-- A field that may hold no port (R35). -/
def regOf (x : BitVec 6) : Except Illegal RegNo :=
  match opndOf x with
  | .ok (.reg n) => .ok n
  | .ok (.port _) => .error .portForbidden
  | .error e => .error e

/-- A must-be-zero field (R33). -/
def zeroOf {n : Nat} (x : BitVec n) : Except Illegal Unit :=
  if x = 0 then .ok () else .error .nonzeroUnused

/-- The scope codes (R41): 6 and 7 are illegal. -/
def scopeOf (x : BitVec 3) : Except Illegal Scope :=
  match x.toNat with
  | 0 => .ok .el
  | 1 => .ok .qd
  | 2 => .ok .tl
  | 3 => .ok .cp
  | 4 => .ok .dv
  | 5 => .ok .sy
  | _ => .error .unlistedCode

/-- The width codes of `lda` and `stl` (R41): 4 to 7 are illegal. -/
def widthOf (x : BitVec 3) : Except Illegal Width :=
  match x.toNat with
  | 0 => .ok .w8
  | 1 => .ok .w16
  | 2 => .ok .w32
  | 3 => .ok .w64
  | _ => .error .unlistedCode

/-- The mods field of `send` (R47): bit 0 `.rel`, bits 3 to 1 the scope, which is zero without `.rel`. -/
def modsOf (x : BitVec 6) : Except Illegal (Option Scope) :=
  if x.getLsbD 0 then
    match zeroOf (x.extractLsb' 4 2), scopeOf (x.extractLsb' 1 3) with
    | .ok (), .ok s => .ok (some s)
    | .error e, _ => .error e
    | _, .error e => .error e
  else if x = 0 then .ok none else .error .nonzeroUnused

/-- The scalar floating types by code (R42). -/
def ftypeOf (x : BitVec 2) : FType :=
  match x.toNat with
  | 0 => .f64
  | 1 => .f32
  | 2 => .f16
  | _ => .bf16

/-- The types of `fcvt` by code (R42). -/
def cvtTypeOf (x : BitVec 3) : CvtType :=
  match x.toNat with
  | 0 => .f64
  | 1 => .f32
  | 2 => .f16
  | 3 => .bf16
  | 4 => .i64
  | 5 => .n64
  | 6 => .i32
  | _ => .n32

/-- The lane types by code (R43): 9 to 15 are illegal. -/
def laneTypeOf (x : BitVec 4) : Except Illegal LaneType :=
  match x.toNat with
  | 0 => .ok .f32
  | 1 => .ok .bf16
  | 2 => .ok .f16
  | 3 => .ok .i32
  | 4 => .ok .i16
  | 5 => .ok .i8
  | 6 => .ok .n32
  | 7 => .ok .n16
  | 8 => .ok .n8
  | _ => .error .unlistedCode

/-- The mode field of `fcvt` (R42, R66): 7 and above are illegal. -/
def rmOf (x : BitVec 6) : Except Illegal RmField :=
  match x.toNat with
  | 0 => .ok (.mode .rne)
  | 1 => .ok (.mode .rna)
  | 2 => .ok (.mode .rtz)
  | 3 => .ok (.mode .rdn)
  | 4 => .ok (.mode .rup)
  | 5 => .ok (.mode .sr)
  | 6 => .ok .dyn
  | _ => .error .unlistedCode

/-- The conditions of `fcmp` (R42): 4 to 7 are illegal. -/
def condOf (x : BitVec 3) : Except Illegal FCond :=
  match x.toNat with
  | 0 => .ok .eq
  | 1 => .ok .lt
  | 2 => .ok .le
  | 3 => .ok .un
  | _ => .error .unlistedCode

/-- The orders of `fence` (R41). -/
def fenceOrderOf (x : BitVec 2) : FenceOrder :=
  match x.toNat with
  | 0 => .acq
  | 1 => .rel
  | 2 => .ar
  | _ => .sc

/-- The operations of `coll` (R46): 6 to 63 are illegal. -/
def collOpOf (x : BitVec 6) : Except Illegal CollOp :=
  match x.toNat with
  | 0 => .ok .addI64
  | 1 => .ok .addF32
  | 2 => .ok .minI64
  | 3 => .ok .maxI64
  | 4 => .ok .minnN64
  | 5 => .ok .maxnN64
  | _ => .error .unlistedCode

/-- A literal field that holds a value of `n` bits; a larger literal is illegal (R55 row 1). -/
def litOf {m : Nat} (n : Nat) (x : BitVec m) : Except Illegal (BitVec n) :=
  if x.toNat < 2 ^ n then .ok (x.setWidth n) else .error .operand

/-- Fields d, a and b as data operands. -/
def dab (k : Opnd → Opnd → Opnd → Instr) (w : Code) : Except Illegal Instr := do
  return k (← opndOf (fD w)) (← opndOf (fA w)) (← opndOf (fB w))

/-- Fields d and a as data operands, b unused. -/
def daz (k : Opnd → Opnd → Instr) (w : Code) : Except Illegal Instr := do
  zeroOf (fB w)
  return k (← opndOf (fD w)) (← opndOf (fA w))

/-- Field d a register that is read and written, a and b data operands. -/
def rab (k : RegNo → Opnd → Opnd → Instr) (w : Code) : Except Illegal Instr := do
  return k (← regOf (fD w)) (← opndOf (fA w)) (← opndOf (fB w))

/-- Fields d, a, b and c as data operands (format Q). -/
def dabc (k : Opnd → Opnd → Opnd → Opnd → Instr) (w : Code) : Except Illegal Instr := do
  return k (← opndOf (fD w)) (← opndOf (fA w)) (← opndOf (fB w)) (← opndOf (fC w))

/-- Fields d, a, b and c as registers (format Q). -/
def rrrr (k : RegNo → RegNo → RegNo → RegNo → Instr) (w : Code) : Except Illegal Instr := do
  return k (← regOf (fD w)) (← regOf (fA w)) (← regOf (fB w)) (← regOf (fC w))

/-- Fields d, a and b as registers, fn zero. -/
def rrrz (k : RegNo → RegNo → RegNo → Instr) (w : Code) : Except Illegal Instr := do
  zeroOf (fC w)
  return k (← regOf (fD w)) (← regOf (fA w)) (← regOf (fB w))

/-- Fields d and a as registers, b and fn zero. -/
def rrzz (k : RegNo → RegNo → Instr) (w : Code) : Except Illegal Instr := do
  zeroOf (fImm12 w)
  return k (← regOf (fD w)) (← regOf (fA w))

/-- Format I with data operands and imm12. -/
def dai (k : Opnd → Opnd → BitVec 12 → Instr) (w : Code) : Except Illegal Instr := do
  return k (← opndOf (fD w)) (← opndOf (fA w)) (fImm12 w)

/-- The immediate shifts: imm12 bits 11 to 6 are zero (R51). -/
def dash (k : Opnd → Opnd → BitVec 6 → Instr) (w : Code) : Except Illegal Instr := do
  zeroOf (fB w)
  return k (← opndOf (fD w)) (← opndOf (fA w)) (fC w)

/-- Format B: the registers stand in bits 23 to 18 and 17 to 12. -/
def abo (k : Opnd → Opnd → BitVec 12 → Instr) (w : Code) : Except Illegal Instr := do
  return k (← opndOf (fD w)) (← opndOf (fA w)) (fImm12 w)

/-- Format M: a data register, a base register and off12. -/
def mem (k : Opnd → RegNo → BitVec 12 → Instr) (w : Code) : Except Illegal Instr := do
  return k (← opndOf (fD w)) (← regOf (fA w)) (fImm12 w)

/-- The atomics: bit 5 `.ar`, bit 4 `.w64` (R41). -/
def atom (k : Opnd → RegNo → Opnd → Bool → Bool → Instr) (w : Code) : Except Illegal Instr := do
  return k (← opndOf (fD w)) (← regOf (fA w)) (← opndOf (fB w)) (w.getLsbD 4) (w.getLsbD 5)

/-- The equipped instructions with a register in fn bits 4 to 0 and fn bit 5 zero (R49). -/
def rrrx (k : RegNo → RegNo → RegNo → RegNo → Instr) (w : Code) : Except Illegal Instr := do
  zeroOf (w.extractLsb' 5 1)
  return k (← regOf (fD w)) (← regOf (fA w)) (← regOf (fB w)) (w.extractLsb' 0 5)

/-- Major opcode 0x01 by fn (R37). -/
def decInt (w : Code) : Except Illegal Instr :=
  match (fC w).toNat with
  | 0 => dab .add w
  | 1 => dab .sub w
  | 2 => dab .and w
  | 3 => dab .or w
  | 4 => dab .xor w
  | 5 => dab .nor w
  | 6 => dab .sll w
  | 7 => dab .srl w
  | 8 => dab .sra w
  | 9 => dab .rol w
  | 10 => dab .slt w
  | 11 => dab .sltn w
  | 12 => dab .min w
  | 13 => dab .max w
  | 14 => dab .minn w
  | 15 => dab .maxn w
  | 16 => dab .mul w
  | 17 => dab .mulh w
  | 18 => dab .mulhn w
  | 19 => dab .div w
  | 20 => dab .divn w
  | 21 => dab .rem w
  | 22 => dab .remn w
  | 23 => daz .clz w
  | 24 => daz .ctz w
  | 25 => daz .popc w
  | 26 => daz .bswap w
  | 27 => dab .bext w
  | 28 => rab .bins w
  | 29 => rab .sel w
  | 30 => dab .addw w
  | 31 => dab .subw w
  | 32 => dab .mulw w
  | 33 => dab .lea0 w
  | 34 => dab .lea1 w
  | 35 => dab .lea2 w
  | 36 => dab .lea3 w
  | _ => .error .unlistedCode

/-- Opcode 0x3C by fn bits 3 to 0 (R41). -/
def decAtomic (w : Code) : Except Illegal Instr :=
  match (w.extractLsb' 0 4 : BitVec 4).toNat with
  | 0 => atom .aadd w
  | 1 => atom .aand w
  | 2 => atom .aor w
  | 3 => atom .axor w
  | 4 => atom .amin w
  | 5 => atom .amax w
  | 6 => atom .aminn w
  | 7 => atom .amaxn w
  | 8 => atom .aswp w
  | 9 => do return .acas (← regOf (fD w)) (← regOf (fA w)) (← opndOf (fB w)) (w.getLsbD 4) (w.getLsbD 5)
  | _ => .error .unlistedCode

/-- Opcodes 0x40 to 0x43: the type in opcode bits 1 to 0, the operation in fn (R42). -/
def decFp (w : Code) : Except Illegal Instr :=
  let t := ftypeOf (w.extractLsb' 24 2)
  match (fC w).toNat with
  | 0 => dab (.fadd t) w
  | 1 => dab (.fsub t) w
  | 2 => dab (.fmul t) w
  | 3 => dab (.fdiv t) w
  | 4 => daz (.fsqrt t) w
  | 5 => dab (.fmin t) w
  | 6 => dab (.fmax t) w
  | 7 => daz (.fabs t) w
  | 8 => daz (.fneg t) w
  | 9 => dab (.fsgn t) w
  | 10 => daz (.fclass t) w
  | 11 => daz (.frnd t) w
  | 12 => daz (.fmov t) w
  | _ => .error .unlistedCode

/-- Opcodes 0x50 to 0x58: the lane type in opcode bits 3 to 0, the operation in fn (R43). -/
def decVec (w : Code) : Except Illegal Instr := do
  let t ← laneTypeOf (w.extractLsb' 24 4)
  match (fC w).toNat with
  | 0 => dab (.vadd t) w
  | 1 => dab (.vsub t) w
  | 2 => dab (.vmul t) w
  | 3 => dab (.vmin t) w
  | 4 => dab (.vmax t) w
  | 5 => daz (.vabs t) w
  | 6 => daz (.vneg t) w
  | 7 => dab (.vand t) w
  | 8 => dab (.vor t) w
  | 9 => dab (.vxor t) w
  | 10 => dab (.vshl t) w
  | 11 => dab (.vshr t) w
  | 12 => dab (.vperm t) w
  | 13 => daz (.vbc t) w
  | 14 => daz (.vred t) w
  | 15 => return .vins t (← regOf (fD w)) (← opndOf (fA w)) (fB w)
  | 16 => return .vext t (← opndOf (fD w)) (← opndOf (fA w)) (fB w)
  | 17 => dab (.vdot t) w
  | 18 => dab (.vcmp t) w
  | 19 => rab (.vsel t) w
  | _ => .error .unlistedCode

/-- Opcode 0x60 by field c; field b is zero but for `wact` and `wscl` (R44, R244). -/
def decWop (w : Code) : Except Illegal Instr := do
  let d ← regOf (fD w)
  let a ← regOf (fA w)
  match (fC w).toNat with
  | 0 => do zeroOf (fB w); return .wadd d a
  | 1 => do zeroOf (fB w); return .wsub d a
  | 2 => do zeroOf (fB w); return .wmul d a
  | 3 => do zeroOf (fB w); return .wfma d a
  | 4 => do zeroOf (fB w); return .wmin d a
  | 5 => do zeroOf (fB w); return .wmax d a
  | 6 => do zeroOf (fB w); return .wcvt d a
  | 7 => do zeroOf (fB w); return .wred d a
  | 8 => do zeroOf (fB w); return .wexp d a
  | 9 => do zeroOf (fB w); return .wrsq d a
  | 10 => return .wact d a (← opndOf (fB w))
  | 11 => return .wscl d a (← opndOf (fB w))
  | 12 => do zeroOf (fB w); return .wcpy d a
  | 13 => do zeroOf (fB w); return .wtrn d a
  | _ => .error .unlistedCode

/-- The fields of a word by its major opcode (R36), before the operand rules of WellFormed.lean. -/
def parse (w : Code) : Except Illegal Instr :=
  match (fOp w).toNat with
  | 0x01 => decInt w
  | 0x02 => dai .addi w
  | 0x03 => dai .andi w
  | 0x04 => dai .ori w
  | 0x05 => dai .xori w
  | 0x06 => dash .slli w
  | 0x07 => dash .srli w
  | 0x08 => dash .srai w
  | 0x09 => dai .slti w
  | 0x0A => dai .sltni w
  | 0x0B => dai .addwi w
  | 0x0C => do return .ldhi (← opndOf (fD w)) (fImm18 w)
  | 0x0D => do return .pcadd (← opndOf (fD w)) (fImm18 w)
  | 0x10 => abo .beq w
  | 0x11 => abo .bne w
  | 0x12 => abo .blt w
  | 0x13 => abo .bge w
  | 0x14 => abo .bltn w
  | 0x15 => abo .bgen w
  | 0x16 => do return .jal (← opndOf (fD w)) (fImm18 w)
  | 0x17 => do return .jalr (← opndOf (fD w)) (← regOf (fA w)) (fImm12 w)
  | 0x18 => do zeroOf (w.extractLsb' 0 8 : BitVec 8); return .rpt (fD w) (w.extractLsb' 14 4) (w.extractLsb' 12 2) (w.extractLsb' 10 2) (w.extractLsb' 8 2)
  | 0x19 => do return .callat (← opndOf (fD w)) (← opndOf (fA w)) (← regOf (fB w)) (← regOf (fC w))
  | 0x1A => do return .bsiglt (← regOf (fD w)) (fA w) (fImm12 w)
  | 0x1B => do return .bsigge (← regOf (fD w)) (fA w) (fImm12 w)
  | 0x20 => mem .ldn8 w
  | 0x21 => mem .ldi8 w
  | 0x22 => mem .ldn16 w
  | 0x23 => mem .ldi16 w
  | 0x24 => mem .ldn32 w
  | 0x25 => mem .ldi32 w
  | 0x26 => mem .ld64 w
  | 0x27 => mem .st8 w
  | 0x28 => mem .st16 w
  | 0x29 => mem .st32 w
  | 0x2A => mem .st64 w
  | 0x2B => mem .fld32 w
  | 0x2C => mem .fld64 w
  | 0x2D => mem .fst32 w
  | 0x2E => mem .fst64 w
  | 0x2F => mem .fldt32 w
  | 0x30 => mem .fldt64 w
  | 0x31 => mem .fstt32 w
  | 0x32 => mem .fstt64 w
  | 0x33 => mem .vld w
  | 0x34 => mem .vst w
  | 0x35 => mem .vldt w
  | 0x36 => mem .vstt w
  | 0x37 => do zeroOf (fB w); return .lda (← opndOf (fD w)) (← regOf (fA w)) (← scopeOf (w.extractLsb' 3 3)) (← widthOf (w.extractLsb' 0 3))
  | 0x38 => do zeroOf (fB w); return .stl (← opndOf (fD w)) (← regOf (fA w)) (← scopeOf (w.extractLsb' 3 3)) (← widthOf (w.extractLsb' 0 3))
  | 0x39 => do zeroOf (w.extractLsb' 3 3 : BitVec 3); return .ldv (← opndOf (fD w)) (← regOf (fA w)) (← opndOf (fB w)) (← scopeOf (w.extractLsb' 0 3))
  | 0x3A => do zeroOf (w.extractLsb' 3 9 : BitVec 9); return .stv (← opndOf (fD w)) (← regOf (fA w)) (← scopeOf (w.extractLsb' 0 3))
  | 0x3B => do zeroOf (fD w); zeroOf (fC w); return .vrst (← regOf (fA w)) (← opndOf (fB w))
  | 0x3C => decAtomic w
  | 0x3D => do zeroOf (w.extractLsb' 6 12 : BitVec 12); return .fenc (← regOf (fD w)) (w.getLsbD 5) (w.getLsbD 4) (w.getLsbD 3) (← scopeOf (w.extractLsb' 0 3))
  | 0x3E => do zeroOf (fD w); zeroOf (fImm12 w); return .fwait (← regOf (fA w))
  | 0x3F => do zeroOf (w.extractLsb' 5 19 : BitVec 19); return .fence (fenceOrderOf (w.extractLsb' 3 2)) (← scopeOf (w.extractLsb' 0 3))
  | 0x40 => decFp w
  | 0x41 => decFp w
  | 0x42 => decFp w
  | 0x43 => decFp w
  | 0x44 => dabc (.ffma false) w
  | 0x45 => dabc (.ffma true) w
  | 0x46 => do zeroOf (w.extractLsb' 5 1 : BitVec 1); return .fcmp (ftypeOf (w.extractLsb' 3 2)) (← condOf (w.extractLsb' 0 3)) (← opndOf (fD w)) (← opndOf (fA w)) (← opndOf (fB w))
  | 0x47 => do return .fcvt (cvtTypeOf (w.extractLsb' 0 3)) (cvtTypeOf (w.extractLsb' 3 3)) (← rmOf (fB w)) (← opndOf (fD w)) (← opndOf (fA w))
  | 0x48 => do zeroOf (fA w); return .fmovi (← opndOf (fD w)) (fImm12 w)
  | 0x49 => do zeroOf (fB w); zeroOf (w.extractLsb' 2 3 : BitVec 3); return .ftc (← opndOf (fD w)) (← regOf (fA w)) (w.getLsbD 5) (w.extractLsb' 0 2)
  | 0x4A => do zeroOf (fB w); zeroOf (w.extractLsb' 2 3 : BitVec 3); return .fstc (← regOf (fD w)) (← opndOf (fA w)) (w.getLsbD 5) (w.extractLsb' 0 2)
  | 0x50 => decVec w
  | 0x51 => decVec w
  | 0x52 => decVec w
  | 0x53 => decVec w
  | 0x54 => decVec w
  | 0x55 => decVec w
  | 0x56 => decVec w
  | 0x57 => decVec w
  | 0x58 => decVec w
  | 0x59 => dabc .vfmaF32 w
  | 0x5A => dabc .vfmaBf16 w
  | 0x5B => do zeroOf (w.extractLsb' 4 2 : BitVec 2); zeroOf (w.extractLsb' 10 2 : BitVec 2); return .vcvt (← laneTypeOf (w.extractLsb' 0 4)) (← laneTypeOf (w.extractLsb' 6 4)) (← opndOf (fD w)) (← opndOf (fA w))
  | 0x60 => decWop w
  | 0x68 => rrrr .mld w
  | 0x69 => rrzz .mswp w
  | 0x6A => rrrr .mrfp4 w
  | 0x6B => rrrr .mri8 w
  | 0x6C => rrrr .mri48 w
  | 0x6D => rrrr .mrbf w
  | 0x6E => rrrr .mrhf w
  | 0x6F => rrrr .mre43 w
  | 0x70 => rrrr .mre52 w
  | 0x71 => rrrr .mre45 w
  | 0x72 => rrrr .mdrn w
  | 0x73 => rrzz .mzro w
  | 0x74 => do zeroOf (fC w); rab .mcap w
  | 0x75 => rrzz .mqry w
  | 0x78 => do return .cpy (← regOf (fD w)) (← regOf (fA w)) (← regOf (fB w)) (← opndOf (fC w))
  | 0x79 => do return .cpym (← opndOf (fD w)) (← regOf (fA w)) (← regOf (fB w)) (← opndOf (fC w))
  | 0x7A => rrrr .gath w
  | 0x7B => rrrr .scat w
  | 0x7C => do return .rbr (← opndOf (fD w)) (← regOf (fA w)) (← regOf (fB w)) (← opndOf (fC w))
  | 0x7D => do return .coll (← regOf (fD w)) (← regOf (fA w)) (← regOf (fB w)) (← collOpOf (fC w))
  | 0x80 => do return .send (← regOf (fD w)) (← regOf (fA w)) (fB w) (← modsOf (fC w))
  | 0x81 => do return .sendm (← regOf (fD w)) (← regOf (fA w)) (fB w) (← modsOf (fC w))
  | 0x82 => do zeroOf (w.extractLsb' 0 24 : BitVec 24); return .doneI
  | 0x83 => do zeroOf (fImm18 w); return .mid (← opndOf (fD w))
  | 0x84 => do return .spawn (← regOf (fD w)) (← opndOf (fA w)) (← regOf (fB w)) (← regOf (fC w))
  | 0x85 => rrzz .rdec w
  | 0x86 => do zeroOf (fC w); daz .alw w
  | 0x87 => do zeroOf (fC w); return .qwait (← opndOf (fD w)) (fA w) (← opndOf (fB w))
  | 0x88 => do zeroOf (fD w); zeroOf (fC w); return .hset (← regOf (fA w)) (← regOf (fB w))
  | 0x89 => do zeroOf (fC w); dab .hmask w
  | 0x8C => rrzz .gbar w
  | 0x8D => do return .gsend (← regOf (fD w)) (← regOf (fA w)) (fB w) (← modsOf (fC w))
  | 0x8E => do zeroOf (fImm12 w); return .gid (← opndOf (fD w)) (← litOf 2 (fA w))
  | 0x90 => do zeroOf (fD w); zeroOf (fC w); return .stg (← regOf (fA w)) (← regOf (fB w))
  | 0x91 => rrzz .clone w
  | 0x92 => do zeroOf (fC w); return .merge (← regOf (fD w)) (← regOf (fA w)) (← opndOf (fB w))
  | 0x93 => do zeroOf (fC w); return .krd (← opndOf (fD w)) (← regOf (fA w)) (← litOf 3 (fB w))
  | 0x94 => do zeroOf (fC w); return .xst (← regOf (fD w)) (← regOf (fA w)) (← opndOf (fB w))
  | 0x98 => do zeroOf (fC w); return .csub (← opndOf (fD w)) (← regOf (fA w)) (← regOf (fB w))
  | 0x99 => do zeroOf (fC w); return .cskip (← opndOf (fD w)) (← regOf (fA w)) (← regOf (fB w))
  | 0x9A => rrrz .cprom w
  | 0x9B => do zeroOf (fC w); return .cstat (← opndOf (fD w)) (← regOf (fA w)) (← litOf 2 (fB w))
  | 0xA0 => rrrx .boxt w
  | 0xA1 => rrrx .trit w
  | 0xA2 => do zeroOf (fD w); zeroOf (fImm12 w); return .spush (← opndOf (fA w))
  | 0xA3 => do zeroOf (fImm18 w); return .spop (← opndOf (fD w))
  | 0xA4 => rrrz .edg w
  | 0xA5 => rrrx .cov w
  | 0xA6 => rrrx .qmrg w
  | 0xA7 => rrzz .dfx w
  | 0xA8 => rrzz .dfy w
  | 0xAC => rrrz .smp w
  | 0xAD => rrrx .smpl w
  | 0xAE => rrrz .txl w
  | 0xF0 => do zeroOf (fD w); zeroOf (fA w); return .sys (fImm12 w)
  | 0xF1 => do zeroOf (w.extractLsb' 2 22 : BitVec 22); return .tret (w.extractLsb' 0 2)
  | 0xF2 => do zeroOf (w.extractLsb' 0 24 : BitVec 24); return .yld
  | 0xF3 => do zeroOf (fD w); return .mark (← opndOf (fA w)) (fImm12 w)
  | 0xF4 => do zeroOf (fA w); return .csrr (← opndOf (fD w)) (fImm12 w)
  | 0xF5 => dai .csrw w
  | 0xF6 => dai .csrs w
  | 0xF7 => dai .csrc w
  | _ => .error .unassignedOpcode

/-- The instruction that a 32-bit pattern is, or why it is none (R55 row 1). -/
def decode (w : Code) : Except Illegal Instr :=
  match parse w with
  | .ok i => if i.wellFormed then .ok i else .error .operand
  | .error e => .error e

/-- The instruction in the first four bytes of a list, little-endian (R4, R5). -/
def decodeBytes : List Byte → Except Illegal Instr
  | b0 :: b1 :: b2 :: b3 :: _ => decode (b3 ++ b2 ++ b1 ++ b0 : BitVec (8 + 8 + 8 + 8))
  | _ => .error .truncated

/-- The instruction that `decodeBytes` reads from an instruction whose bits are `w`, laid out as the hardware stores it: every
instruction is four bytes, the byte at the lowest address holding bits 7 to 0 (R4, R5). -/
def decodeTableWord (nbits w : Nat) : Option Instr :=
  match decodeBytes (leBytes 4 (w % 2 ^ nbits)) with
  | .ok i => some i
  | .error _ => none

/-- The number of a port (R34). -/
def Port.code : Port → BitVec 6
  | .pi => 32
  | .po => 33
  | .q n => (0b1000#4 ++ n : BitVec (4 + 2)) + 2
  | .pn => 40
  | .pe => 41
  | .ps => 42
  | .pw => 43

/-- A register number as a 6-bit field (R34). -/
def regCode (n : RegNo) : BitVec 6 := n.setWidth 6

/-- A data operand as a 6-bit field (R34). -/
def Opnd.code : Opnd → BitVec 6
  | .reg n => regCode n
  | .port p => p.code

/-- The scope codes (R41). -/
def Scope.code : Scope → BitVec 3
  | .el => 0
  | .qd => 1
  | .tl => 2
  | .cp => 3
  | .dv => 4
  | .sy => 5

/-- The width codes (R41). -/
def Width.code : Width → BitVec 3
  | .w8 => 0
  | .w16 => 1
  | .w32 => 2
  | .w64 => 3

/-- The scalar type codes (R42). -/
def FType.code : FType → BitVec 2
  | .f64 => 0
  | .f32 => 1
  | .f16 => 2
  | .bf16 => 3

/-- The conversion type codes (R42). -/
def CvtType.code : CvtType → BitVec 3
  | .f64 => 0
  | .f32 => 1
  | .f16 => 2
  | .bf16 => 3
  | .i64 => 4
  | .n64 => 5
  | .i32 => 6
  | .n32 => 7

/-- The lane type codes (R43). -/
def LaneType.code : LaneType → BitVec 4
  | .f32 => 0
  | .bf16 => 1
  | .f16 => 2
  | .i32 => 3
  | .i16 => 4
  | .i8 => 5
  | .n32 => 6
  | .n16 => 7
  | .n8 => 8

/-- The rounding mode codes (R66). -/
def RMode.code : RMode → BitVec 3
  | .rne => 0
  | .rna => 1
  | .rtz => 2
  | .rdn => 3
  | .rup => 4
  | .sr => 5

/-- The mode field of `fcvt` (R42). -/
def RmField.code : RmField → BitVec 6
  | .mode m => m.code.setWidth 6
  | .dyn => 6

/-- The condition codes (R42). -/
def FCond.code : FCond → BitVec 3
  | .eq => 0
  | .lt => 1
  | .le => 2
  | .un => 3

/-- The order codes of `fence` (R41). -/
def FenceOrder.code : FenceOrder → BitVec 2
  | .acq => 0
  | .rel => 1
  | .ar => 2
  | .sc => 3

/-- The operation codes of `coll` (R46). -/
def CollOp.code : CollOp → BitVec 6
  | .addI64 => 0
  | .addF32 => 1
  | .minI64 => 2
  | .maxI64 => 3
  | .minnN64 => 4
  | .maxnN64 => 5

/-- The mods field of `send` (R47). -/
def modsCode : Option Scope → BitVec 6
  | none => 0
  | some s => (0#2 ++ s.code ++ 1#1 : BitVec (2 + 3 + 1))

/-- Formats A and Q (R32). -/
def packA (op : BitVec 8) (d a b fn : BitVec 6) : Code := (op ++ d ++ a ++ b ++ fn : BitVec (8 + 6 + 6 + 6 + 6))

/-- Formats I, M and B (R32). -/
def packI (op : BitVec 8) (d a : BitVec 6) (i : BitVec 12) : Code := (op ++ d ++ a ++ i : BitVec (8 + 6 + 6 + 12))

/-- Formats J and U (R32). -/
def packU (op : BitVec 8) (d : BitVec 6) (i : BitVec 18) : Code := (op ++ d ++ i : BitVec (8 + 6 + 18))

/-- Format P (R32). -/
def packP (op : BitVec 8) (c : BitVec 6) (n : BitVec 4) (kd ka kb : BitVec 2) : Code :=
  (op ++ c ++ n ++ kd ++ ka ++ kb ++ 0#8 : BitVec (8 + 6 + 4 + 2 + 2 + 2 + 8))

/-- The opcode of a scalar floating-point type (R42). -/
def fpOp (t : FType) : BitVec 8 := (0b010000#6 ++ t.code : BitVec (6 + 2))

/-- The opcode of a lane type (R43). -/
def vecOp (t : LaneType) : BitVec 8 := (0b0101#4 ++ t.code : BitVec (4 + 4))

/-- The fn field of an atomic (R41). -/
def atomFn (op : BitVec 4) (w64 ar : Bool) : BitVec 6 :=
  (BitVec.ofBool ar ++ BitVec.ofBool w64 ++ op : BitVec (1 + 1 + 4))

/-- The word of an instruction (R32 to R52); the steps of the other agents have none. -/
def encode : Instr → Option Code
  | .add d a b => some (packA 1 d.code a.code b.code 0)
  | .sub d a b => some (packA 1 d.code a.code b.code 1)
  | .and d a b => some (packA 1 d.code a.code b.code 2)
  | .or d a b => some (packA 1 d.code a.code b.code 3)
  | .xor d a b => some (packA 1 d.code a.code b.code 4)
  | .nor d a b => some (packA 1 d.code a.code b.code 5)
  | .sll d a b => some (packA 1 d.code a.code b.code 6)
  | .srl d a b => some (packA 1 d.code a.code b.code 7)
  | .sra d a b => some (packA 1 d.code a.code b.code 8)
  | .rol d a b => some (packA 1 d.code a.code b.code 9)
  | .slt d a b => some (packA 1 d.code a.code b.code 10)
  | .sltn d a b => some (packA 1 d.code a.code b.code 11)
  | .min d a b => some (packA 1 d.code a.code b.code 12)
  | .max d a b => some (packA 1 d.code a.code b.code 13)
  | .minn d a b => some (packA 1 d.code a.code b.code 14)
  | .maxn d a b => some (packA 1 d.code a.code b.code 15)
  | .mul d a b => some (packA 1 d.code a.code b.code 16)
  | .mulh d a b => some (packA 1 d.code a.code b.code 17)
  | .mulhn d a b => some (packA 1 d.code a.code b.code 18)
  | .div d a b => some (packA 1 d.code a.code b.code 19)
  | .divn d a b => some (packA 1 d.code a.code b.code 20)
  | .rem d a b => some (packA 1 d.code a.code b.code 21)
  | .remn d a b => some (packA 1 d.code a.code b.code 22)
  | .clz d a => some (packA 1 d.code a.code 0 23)
  | .ctz d a => some (packA 1 d.code a.code 0 24)
  | .popc d a => some (packA 1 d.code a.code 0 25)
  | .bswap d a => some (packA 1 d.code a.code 0 26)
  | .bext d a b => some (packA 1 d.code a.code b.code 27)
  | .bins d a b => some (packA 1 (regCode d) a.code b.code 28)
  | .sel d a b => some (packA 1 (regCode d) a.code b.code 29)
  | .addw d a b => some (packA 1 d.code a.code b.code 30)
  | .subw d a b => some (packA 1 d.code a.code b.code 31)
  | .mulw d a b => some (packA 1 d.code a.code b.code 32)
  | .lea0 d a b => some (packA 1 d.code a.code b.code 33)
  | .lea1 d a b => some (packA 1 d.code a.code b.code 34)
  | .lea2 d a b => some (packA 1 d.code a.code b.code 35)
  | .lea3 d a b => some (packA 1 d.code a.code b.code 36)
  | .addi d a i => some (packI 2 d.code a.code i)
  | .andi d a i => some (packI 3 d.code a.code i)
  | .ori d a i => some (packI 4 d.code a.code i)
  | .xori d a i => some (packI 5 d.code a.code i)
  | .slli d a i => some (packA 6 d.code a.code 0 i)
  | .srli d a i => some (packA 7 d.code a.code 0 i)
  | .srai d a i => some (packA 8 d.code a.code 0 i)
  | .slti d a i => some (packI 9 d.code a.code i)
  | .sltni d a i => some (packI 10 d.code a.code i)
  | .addwi d a i => some (packI 11 d.code a.code i)
  | .ldhi d i => some (packU 0x0C d.code i)
  | .pcadd d i => some (packU 0x0D d.code i)
  | .beq a b off => some (packI 0x10 a.code b.code off)
  | .bne a b off => some (packI 0x11 a.code b.code off)
  | .blt a b off => some (packI 0x12 a.code b.code off)
  | .bge a b off => some (packI 0x13 a.code b.code off)
  | .bltn a b off => some (packI 0x14 a.code b.code off)
  | .bgen a b off => some (packI 0x15 a.code b.code off)
  | .jal d off => some (packU 0x16 d.code off)
  | .jalr d a i => some (packI 0x17 d.code (regCode a) i)
  | .rpt c n kd ka kb => some (packP 0x18 c n kd ka kb)
  | .callat d a b c => some (packA 0x19 d.code a.code (regCode b) (regCode c))
  | .bsiglt a lit off => some (packI 0x1A (regCode a) lit off)
  | .bsigge a lit off => some (packI 0x1B (regCode a) lit off)
  | .ldn8 d a off => some (packI 0x20 d.code (regCode a) off)
  | .ldi8 d a off => some (packI 0x21 d.code (regCode a) off)
  | .ldn16 d a off => some (packI 0x22 d.code (regCode a) off)
  | .ldi16 d a off => some (packI 0x23 d.code (regCode a) off)
  | .ldn32 d a off => some (packI 0x24 d.code (regCode a) off)
  | .ldi32 d a off => some (packI 0x25 d.code (regCode a) off)
  | .ld64 d a off => some (packI 0x26 d.code (regCode a) off)
  | .st8 d a off => some (packI 0x27 d.code (regCode a) off)
  | .st16 d a off => some (packI 0x28 d.code (regCode a) off)
  | .st32 d a off => some (packI 0x29 d.code (regCode a) off)
  | .st64 d a off => some (packI 0x2A d.code (regCode a) off)
  | .fld32 d a off => some (packI 0x2B d.code (regCode a) off)
  | .fld64 d a off => some (packI 0x2C d.code (regCode a) off)
  | .fst32 d a off => some (packI 0x2D d.code (regCode a) off)
  | .fst64 d a off => some (packI 0x2E d.code (regCode a) off)
  | .fldt32 d a off => some (packI 0x2F d.code (regCode a) off)
  | .fldt64 d a off => some (packI 0x30 d.code (regCode a) off)
  | .fstt32 d a off => some (packI 0x31 d.code (regCode a) off)
  | .fstt64 d a off => some (packI 0x32 d.code (regCode a) off)
  | .vld d a off => some (packI 0x33 d.code (regCode a) off)
  | .vst d a off => some (packI 0x34 d.code (regCode a) off)
  | .vldt d a off => some (packI 0x35 d.code (regCode a) off)
  | .vstt d a off => some (packI 0x36 d.code (regCode a) off)
  | .lda d a sc w => some (packA 0x37 d.code (regCode a) 0 (sc.code ++ w.code : BitVec (3 + 3)))
  | .stl d a sc w => some (packA 0x38 d.code (regCode a) 0 (sc.code ++ w.code : BitVec (3 + 3)))
  | .ldv d a b sc => some (packA 0x39 d.code (regCode a) b.code (0#3 ++ sc.code : BitVec (3 + 3)))
  | .stv d a sc => some (packA 0x3A d.code (regCode a) 0 (0#3 ++ sc.code : BitVec (3 + 3)))
  | .vrst a b => some (packA 0x3B 0 (regCode a) b.code 0)
  | .aadd d a b w64 ar => some (packA 0x3C d.code (regCode a) b.code (atomFn 0 w64 ar))
  | .aand d a b w64 ar => some (packA 0x3C d.code (regCode a) b.code (atomFn 1 w64 ar))
  | .aor d a b w64 ar => some (packA 0x3C d.code (regCode a) b.code (atomFn 2 w64 ar))
  | .axor d a b w64 ar => some (packA 0x3C d.code (regCode a) b.code (atomFn 3 w64 ar))
  | .amin d a b w64 ar => some (packA 0x3C d.code (regCode a) b.code (atomFn 4 w64 ar))
  | .amax d a b w64 ar => some (packA 0x3C d.code (regCode a) b.code (atomFn 5 w64 ar))
  | .aminn d a b w64 ar => some (packA 0x3C d.code (regCode a) b.code (atomFn 6 w64 ar))
  | .amaxn d a b w64 ar => some (packA 0x3C d.code (regCode a) b.code (atomFn 7 w64 ar))
  | .aswp d a b w64 ar => some (packA 0x3C d.code (regCode a) b.code (atomFn 8 w64 ar))
  | .acas d a b w64 ar => some (packA 0x3C (regCode d) (regCode a) b.code (atomFn 9 w64 ar))
  | .fenc d ksmp kst kld sc => some (packA 0x3D (regCode d) 0 0 (BitVec.ofBool ksmp ++ BitVec.ofBool kst ++ BitVec.ofBool kld ++ sc.code : BitVec (1 + 1 + 1 + 3)))
  | .fwait a => some (packA 0x3E 0 (regCode a) 0 0)
  | .fence o sc => some (packA 0x3F 0 0 0 (0#1 ++ o.code ++ sc.code : BitVec (1 + 2 + 3)))
  | .fadd t d a b => some (packA (fpOp t) d.code a.code b.code 0)
  | .fsub t d a b => some (packA (fpOp t) d.code a.code b.code 1)
  | .fmul t d a b => some (packA (fpOp t) d.code a.code b.code 2)
  | .fdiv t d a b => some (packA (fpOp t) d.code a.code b.code 3)
  | .fsqrt t d a => some (packA (fpOp t) d.code a.code 0 4)
  | .fmin t d a b => some (packA (fpOp t) d.code a.code b.code 5)
  | .fmax t d a b => some (packA (fpOp t) d.code a.code b.code 6)
  | .fabs t d a => some (packA (fpOp t) d.code a.code 0 7)
  | .fneg t d a => some (packA (fpOp t) d.code a.code 0 8)
  | .fsgn t d a b => some (packA (fpOp t) d.code a.code b.code 9)
  | .fclass t d a => some (packA (fpOp t) d.code a.code 0 10)
  | .frnd t d a => some (packA (fpOp t) d.code a.code 0 11)
  | .fmov t d a => some (packA (fpOp t) d.code a.code 0 12)
  | .ffma dbl d a b c => some (packA (if dbl then 0x45 else 0x44) d.code a.code b.code c.code)
  | .fcmp t cond d a b => some (packA 0x46 d.code a.code b.code (0#1 ++ t.code ++ cond.code : BitVec (1 + 2 + 3)))
  | .fcvt dst src rm d a => some (packA 0x47 d.code a.code rm.code (src.code ++ dst.code : BitVec (3 + 3)))
  | .fmovi d i => some (packI 0x48 d.code 0 i)
  | .ftc d a v lane => some (packA 0x49 d.code (regCode a) 0 (BitVec.ofBool v ++ 0#3 ++ lane : BitVec (1 + 3 + 2)))
  | .fstc d a v lane => some (packA 0x4A (regCode d) a.code 0 (BitVec.ofBool v ++ 0#3 ++ lane : BitVec (1 + 3 + 2)))
  | .vadd t d a b => some (packA (vecOp t) d.code a.code b.code 0)
  | .vsub t d a b => some (packA (vecOp t) d.code a.code b.code 1)
  | .vmul t d a b => some (packA (vecOp t) d.code a.code b.code 2)
  | .vmin t d a b => some (packA (vecOp t) d.code a.code b.code 3)
  | .vmax t d a b => some (packA (vecOp t) d.code a.code b.code 4)
  | .vabs t d a => some (packA (vecOp t) d.code a.code 0 5)
  | .vneg t d a => some (packA (vecOp t) d.code a.code 0 6)
  | .vand t d a b => some (packA (vecOp t) d.code a.code b.code 7)
  | .vor t d a b => some (packA (vecOp t) d.code a.code b.code 8)
  | .vxor t d a b => some (packA (vecOp t) d.code a.code b.code 9)
  | .vshl t d a b => some (packA (vecOp t) d.code a.code b.code 10)
  | .vshr t d a b => some (packA (vecOp t) d.code a.code b.code 11)
  | .vperm t d a b => some (packA (vecOp t) d.code a.code b.code 12)
  | .vbc t d a => some (packA (vecOp t) d.code a.code 0 13)
  | .vred t d a => some (packA (vecOp t) d.code a.code 0 14)
  | .vins t d a l => some (packA (vecOp t) (regCode d) a.code l 15)
  | .vext t d a l => some (packA (vecOp t) d.code a.code l 16)
  | .vdot t d a b => some (packA (vecOp t) d.code a.code b.code 17)
  | .vcmp t d a b => some (packA (vecOp t) d.code a.code b.code 18)
  | .vsel t d a b => some (packA (vecOp t) (regCode d) a.code b.code 19)
  | .vfmaF32 d a b c => some (packA 0x59 d.code a.code b.code c.code)
  | .vfmaBf16 d a b c => some (packA 0x5A d.code a.code b.code c.code)
  | .vcvt dst src d a => some (packA 0x5B d.code a.code (0#2 ++ src.code : BitVec (2 + 4)) (0#2 ++ dst.code : BitVec (2 + 4)))
  | .wadd d a => some (packA 0x60 (regCode d) (regCode a) 0 0)
  | .wsub d a => some (packA 0x60 (regCode d) (regCode a) 0 1)
  | .wmul d a => some (packA 0x60 (regCode d) (regCode a) 0 2)
  | .wfma d a => some (packA 0x60 (regCode d) (regCode a) 0 3)
  | .wmin d a => some (packA 0x60 (regCode d) (regCode a) 0 4)
  | .wmax d a => some (packA 0x60 (regCode d) (regCode a) 0 5)
  | .wcvt d a => some (packA 0x60 (regCode d) (regCode a) 0 6)
  | .wred d a => some (packA 0x60 (regCode d) (regCode a) 0 7)
  | .wexp d a => some (packA 0x60 (regCode d) (regCode a) 0 8)
  | .wrsq d a => some (packA 0x60 (regCode d) (regCode a) 0 9)
  | .wact d a b => some (packA 0x60 (regCode d) (regCode a) b.code 10)
  | .wscl d a b => some (packA 0x60 (regCode d) (regCode a) b.code 11)
  | .wcpy d a => some (packA 0x60 (regCode d) (regCode a) 0 12)
  | .wtrn d a => some (packA 0x60 (regCode d) (regCode a) 0 13)
  | .mld d a b c => some (packA 0x68 (regCode d) (regCode a) (regCode b) (regCode c))
  | .mswp d a => some (packA 0x69 (regCode d) (regCode a) 0 0)
  | .mrfp4 d a b c => some (packA 0x6A (regCode d) (regCode a) (regCode b) (regCode c))
  | .mri8 d a b c => some (packA 0x6B (regCode d) (regCode a) (regCode b) (regCode c))
  | .mri48 d a b c => some (packA 0x6C (regCode d) (regCode a) (regCode b) (regCode c))
  | .mrbf d a b c => some (packA 0x6D (regCode d) (regCode a) (regCode b) (regCode c))
  | .mrhf d a b c => some (packA 0x6E (regCode d) (regCode a) (regCode b) (regCode c))
  | .mre43 d a b c => some (packA 0x6F (regCode d) (regCode a) (regCode b) (regCode c))
  | .mre52 d a b c => some (packA 0x70 (regCode d) (regCode a) (regCode b) (regCode c))
  | .mre45 d a b c => some (packA 0x71 (regCode d) (regCode a) (regCode b) (regCode c))
  | .mdrn d a b c => some (packA 0x72 (regCode d) (regCode a) (regCode b) (regCode c))
  | .mzro d a => some (packA 0x73 (regCode d) (regCode a) 0 0)
  | .mcap d a b => some (packA 0x74 (regCode d) a.code b.code 0)
  | .mqry d a => some (packA 0x75 (regCode d) (regCode a) 0 0)
  | .cpy d a b c => some (packA 0x78 (regCode d) (regCode a) (regCode b) c.code)
  | .cpym d a b c => some (packA 0x79 d.code (regCode a) (regCode b) c.code)
  | .gath d a b c => some (packA 0x7A (regCode d) (regCode a) (regCode b) (regCode c))
  | .scat d a b c => some (packA 0x7B (regCode d) (regCode a) (regCode b) (regCode c))
  | .rbr d a b c => some (packA 0x7C d.code (regCode a) (regCode b) c.code)
  | .coll d a b op => some (packA 0x7D (regCode d) (regCode a) (regCode b) op.code)
  | .send d a n rel => some (packA 0x80 (regCode d) (regCode a) n (modsCode rel))
  | .sendm d a n rel => some (packA 0x81 (regCode d) (regCode a) n (modsCode rel))
  | .doneI => some (packA 0x82 0 0 0 0)
  | .mid d => some (packA 0x83 d.code 0 0 0)
  | .spawn d a b c => some (packA 0x84 (regCode d) a.code (regCode b) (regCode c))
  | .rdec d a => some (packA 0x85 (regCode d) (regCode a) 0 0)
  | .alw d a => some (packA 0x86 d.code a.code 0 0)
  | .qwait d p b => some (packA 0x87 d.code p b.code 0)
  | .hset a b => some (packA 0x88 0 (regCode a) (regCode b) 0)
  | .hmask d a b => some (packA 0x89 d.code a.code b.code 0)
  | .gbar d a => some (packA 0x8C (regCode d) (regCode a) 0 0)
  | .gsend d a n rel => some (packA 0x8D (regCode d) (regCode a) n (modsCode rel))
  | .gid d i => some (packA 0x8E d.code (i.setWidth 6) 0 0)
  | .stg a b => some (packA 0x90 0 (regCode a) (regCode b) 0)
  | .clone d a => some (packA 0x91 (regCode d) (regCode a) 0 0)
  | .merge d a b => some (packA 0x92 (regCode d) (regCode a) b.code 0)
  | .krd d a i => some (packA 0x93 d.code (regCode a) (i.setWidth 6) 0)
  | .xst d a b => some (packA 0x94 (regCode d) (regCode a) b.code 0)
  | .csub d a b => some (packA 0x98 d.code (regCode a) (regCode b) 0)
  | .cskip d a b => some (packA 0x99 d.code (regCode a) (regCode b) 0)
  | .cprom d a b => some (packA 0x9A (regCode d) (regCode a) (regCode b) 0)
  | .cstat d a s => some (packA 0x9B d.code (regCode a) (s.setWidth 6) 0)
  | .boxt d a b x => some (packA 0xA0 (regCode d) (regCode a) (regCode b) (regCode x))
  | .trit d a b x => some (packA 0xA1 (regCode d) (regCode a) (regCode b) (regCode x))
  | .spush a => some (packA 0xA2 0 a.code 0 0)
  | .spop d => some (packA 0xA3 d.code 0 0 0)
  | .edg d a b => some (packA 0xA4 (regCode d) (regCode a) (regCode b) 0)
  | .cov d a b x => some (packA 0xA5 (regCode d) (regCode a) (regCode b) (regCode x))
  | .qmrg d a b x => some (packA 0xA6 (regCode d) (regCode a) (regCode b) (regCode x))
  | .dfx d a => some (packA 0xA7 (regCode d) (regCode a) 0 0)
  | .dfy d a => some (packA 0xA8 (regCode d) (regCode a) 0 0)
  | .smp d a b => some (packA 0xAC (regCode d) (regCode a) (regCode b) 0)
  | .smpl d a b x => some (packA 0xAD (regCode d) (regCode a) (regCode b) (regCode x))
  | .txl d a b => some (packA 0xAE (regCode d) (regCode a) (regCode b) 0)
  | .sys i => some (packI 0xF0 0 0 i)
  | .tret m => some (packA 0xF1 0 0 0 (m.setWidth 6))
  | .yld => some (packA 0xF2 0 0 0 0)
  | .mark a i => some (packI 0xF3 0 a.code i)
  | .csrr d csr => some (packI 0xF4 d.code 0 csr)
  | .csrw d a csr => some (packI 0xF5 d.code a.code csr)
  | .csrs d a csr => some (packI 0xF6 d.code a.code csr)
  | .csrc d a csr => some (packI 0xF7 d.code a.code csr)
  | .launchWindowWrite _ _ _ | .lstatRead _ | .launchDispatch _ | .launchShareRetry _ _ | .messageArrival _
  | .activationDispatch _ | .spawnAtTarget _ | .spawnReply _ | .rdecAtOwner _ | .tileIdle _ | .stealRequest _
  | .stealAnswer _ | .budgetPeriodBoundary | .budgetShareWrite _ | .splitQueue _ _ | .cloneInstall _ _
  | .mergeExportQueue _ _ | .mergeImportQueue _ _ | .pageWalk _ _ | .shootdown _ _ | .ldvWake _ _ | .scrub _
  | .portUnblock _ _ | .doneComplete _ _ | .qwaitExpiry _ _ | .copyCommandComplete _ _ | .remoteLocalAccess _ _
  | .wopExecute _ | .wopQuantumEnd _ | .collContribution _ | .gbarArrival _ | .matrixCommandAccept _
  | .matrixCommandComplete _ | .mqryAnswer _ | .clenWrite _ _ | .ncmtWrite _ _ | .tableCopyComplete _
  | .maskNotification _ | .cpromAtArbiter _ | .arbiterTurn _ | .slotAnnouncement _ | .frameRead _ | .captureComplete _ _
  | .fencComplete _ _ _ | .contextStart _ | .calmPointBroadcast _ | .cooperativeSwitch | .forcedStop | .contextResume _ _ _
  | .contextHalt | .pcSample _ | .lossRecord _ | .allotmentRetire _ _ | .launchCompletion _ | .hostMemAccess _
  | .cxlCacheRequest _ | .mbcmdWrite _ | .spdmRequest _ | .governorInterval _ _ | .overcurrent _ _ | .sramRailWindow _
  | .powerGood | .registerWrite _ _ | .modulePowerOff | .softError _ _ | .memoryOperationComplete _ _
  | .fetchLineFill _ _ | .calmPointChange _ | .mailboxCommandComplete => none

end Sys2Proof
end

