-- ==== Sys2Proof/Config.lean ====
section
/-! DEFINITION. What one AMB-LX8 fixes: the sizes the spec gives, and the FREE VALUES, which are opaque constants with no body.
A free value is applied to the operands it depends on or to State's counter `free` (log entry 4). -/
namespace Sys2Proof.Config

/-- Local memory of an element in bytes (R12, R127). -/
def localBytes : Nat := 0xC000
/-- Places of an inbound queue by priority (R94). -/
def inboundPlaces (pri : Bool) : Nat := if pri then 8 else 32
/-- Messages a send buffer holds (R164). -/
def sendBufPlaces : Nat := 16
/-- Words a queue register holds (R180). -/
def queueWords : Nat := 8
/-- Words one direction of a link holds (R181). -/
def linkWords : Nat := 4
/-- Outstanding memory operations of an element (R145). -/
def elementOps : Nat := 32
/-- Outstanding memory operations of a tile (R145). -/
def tileOps : Nat := 512
/-- Outstanding fences of a thread set (R316). -/
def fencesOut : Nat := 4
/-- Places of a tile's copy engine queue (R252). -/
def copyPlaces : Nat := 32
/-- Commands of a copy engine that run at once (R252). -/
def copyRunning : Nat := 8
/-- Places of a quad's w-op queue (R248). -/
def wopPlaces : Nat := 4
/-- Places of a matrix unit's queue (R259). -/
def matrixPlaces : Nat := 16
/-- Entries of a tile's edge TLB (R143). -/
def tlbEntries : Nat := 1536
/-- Lines of a tile's instruction cache: 64 KiB of 64-byte lines (R133). -/
def icacheLines : Nat := 1024
/-- Lines of a tile's sampler cache: 64 KiB (R153), held here in 64-byte lines. -/
def samplerLines : Nat := 1024
/-- Entries of the L1 dirty FIFO (R137). -/
def fifoEntries : Nat := 256
/-- Entries of a ready ring (R120). -/
def ringPlaces : Nat := 64
/-- GDDR 7 bytes that device physical addresses name: 186 GiB (R381). -/
def gddrBytes : Nat := 186 * 2 ^ 30
/-- Bytes of the device's control space (R380). -/
def controlBytes : Nat := 0x100000
/-- The empty promotion FIFO's places (R229). -/
def promoPlaces : Nat := 4
/-- Events the mailbox log holds (R380). -/
def eventLogPlaces : Nat := 30
/-- Operands of a stage: at most four stateful channels an element (R99). -/
def stagesPerElement : Nat := 4

/-- FREE VALUE. A byte the spec leaves undefined: a load from an unpinned window buffer (R132), an overlapped or half-copied
destination byte (R249, R253), the data of an upset word (R154). Applied to State's counter and a byte index. -/
opaque freeByte : Nat → Nat → Byte
/-- FREE VALUE. A bit of a choice the spec leaves open, applied to State's counter. -/
opaque freeBit : Nat → Bool
/-- FREE VALUE. The keyed check of a capability's bits 35 to 0 under the key drawn at a reset, which is never readable (R265).
The first argument counts the resets. -/
opaque keyedCheck : Nat → BitVec 36 → BitVec 28
/-- FREE VALUE. A byte of what a rendering instruction gives where an infinite operand leaves its result open (R234, R291 to R297), by the
operands as a list, since the same inputs give the same results on every run (R85), and by an index. -/
opaque renderByte : List Nat → Nat → Byte
/-- FREE VALUE. Whether `wexp` returns the greater of the two values of D's type around the exact one (R246: within 1 ulp, the same
bits on every device). Applied to the type codes of D and X and the source bits. -/
opaque expUpper : Nat → Nat → Nat → Bool
/-- FREE VALUE. The same for `wrsq` (R246). -/
opaque rsqUpper : Nat → Nat → Nat → Bool
/-- FREE VALUE. The result a management mailbox command leaves in `mbsts` bits 15 to 0 (R380), by command word. -/
opaque mailboxResult : Nat → Word → BitVec 16
/-- FREE VALUE. A byte of the mailbox's event log at an offset of its area, by the events held: the spec gives the events no layout (R380). -/
opaque eventLogByte : List (Word × Word × Word) → Nat → Byte
/-- FREE VALUE. The SHAKE256 digest of 64 bytes (R384), whose definition the spec takes from outside. -/
opaque shake256 : List Byte → List Byte
/-- FREE VALUE. Whether an Ed448 signature verifies: key, message, signature (R384). -/
opaque ed448Verify : List Byte → List Byte → List Byte → Bool
/-- FREE VALUE. The Ed448 signature of a message by a private key (R385). -/
opaque ed448Sign : List Byte → List Byte → List Byte
/-- FREE VALUE. The body of the firmware image that the boot ROM finds, by reset (R384). -/
opaque firmwareBody : Nat → List Byte
/-- FREE VALUE. The vendor public key that comes with that image (R384). -/
opaque firmwareKey : Nat → List Byte
/-- FREE VALUE. The signature that that image carries (R384). -/
opaque firmwareSignature : Nat → List Byte
/-- FREE VALUE. The security version of that image (R384). -/
opaque firmwareVersion : Nat → Nat
/-- FREE VALUE. The fused digest of the vendor public key (R384). -/
opaque fusedKeyDigest : List Byte
/-- FREE VALUE. The fused rollback counter (R384), by reset: fuses are blown outside the model. -/
opaque rollbackCounter : Nat → Nat
/-- FREE VALUE. The boot ROM (R385). -/
opaque bootRom : List Byte
/-- FREE VALUE. The fuse configuration (R385), by reset. -/
opaque fuseConfig : Nat → List Byte
/-- FREE VALUE. The private half of the device identity key, held in fuses (R385). -/
opaque identityKey : List Byte
/-- FREE VALUE. The digest that a measurement takes (R385). -/
opaque measure : List Byte → List Byte
/-- FREE VALUE. The message of an SPDM response before its signature, by the request's nonce and the measurements (R385): SPDM 1.2 and 1.3 lay
it out, outside the spec. -/
opaque spdmMessage : Nat → Word → List (List Byte) → List Byte
/-- FREE VALUE. Whether slot 0 of a physical quad is fused off (R55 row 5). -/
opaque slot0Fused : Nat → Bool
/-- FREE VALUE. The quad, modulo 16, whose SRAM domain holds a set of a tile's L1, by tile and set (R154, R388). -/
opaque l1Domain : Nat → Nat → Nat
/-- FREE VALUE. The image version of a unit, by the kind of image and the physical quad or tile (R364). -/
opaque imageVersion : Nat → Nat → Byte
/-- FREE VALUE. The bytes of an image after its header, by its kind and State's counter (R364). -/
opaque imageSize : Nat → Nat → Nat
/-- FREE VALUE. The row-disable map of a physical tile's matrix array (R364, R389). -/
opaque rowDisableMap : Nat → BitVec 64
/-- FREE VALUE. The fused floor of a quad's SRAM rail in 5 mV steps below nominal (R388). -/
opaque railFloor : Nat → Nat
/-- FREE VALUE. The board controller's set limit of the input current, in milliamperes (R387). -/
opaque currentLimit : Nat → Nat

end Sys2Proof.Config
end

