-- ==== Sys2Proof/Machine/Maps.lean ====
section
/-! DEFINITION. Sparse tables by natural number: a list of key and value pairs in ascending key order with a default for the
keys it does not list. They hold the per-element, per-tile and per-quad parts of the state. -/
namespace Sys2Proof.Machine

/-- A table from natural numbers to `α`, ascending by key. -/
abbrev Map (α : Type) := List (Nat × α)

/-- The value listed at `k`. -/
def Map.find {α : Type} (k : Nat) : Map α → Option α
  | [] => none
  | (j, v) :: m => if j = k then some v else Map.find k m

/-- The value at `k`, `d` where none is listed. -/
def Map.get {α : Type} (d : α) (m : Map α) (k : Nat) : α := (Map.find k m).getD d

/-- The table with `v` at `k`. -/
def Map.set {α : Type} (k : Nat) (v : α) : Map α → Map α
  | [] => [(k, v)]
  | (j, u) :: m => if k < j then (k, v) :: (j, u) :: m else if k = j then (k, v) :: m else (j, u) :: Map.set k v m

/-- The table without an entry at `k`. -/
def Map.drop {α : Type} (k : Nat) (m : Map α) : Map α := m.filter (fun e => e.1 != k)

/-- Entry `k` of a vector, numbers taken modulo its length. -/
def vget {α : Type} {n : Nat} (v : Vector α (n + 1)) (k : Nat) : α := v[k % (n + 1)]'(Nat.mod_lt _ (Nat.succ_pos _))

/-- The vector with `x` at entry `k`. -/
def vset {α : Type} {n : Nat} (v : Vector α (n + 1)) (k : Nat) (x : α) : Vector α (n + 1) :=
  v.set (k % (n + 1)) x (Nat.mod_lt _ (Nat.succ_pos _))

/-- The register that field `n` names. -/
def rget {α : Type} (v : Vector α 32) (n : RegNo) : α := v[n.toNat]'n.isLt

/-- The register file with `x` in register `n`. -/
def rset {α : Type} (v : Vector α 32) (n : RegNo) (x : α) : Vector α 32 := v.set n.toNat x n.isLt

theorem Map.find_set_same {α : Type} (k : Nat) (v : α) (m : Map α) : Map.find k (Map.set k v m) = some v := by
  induction m with
  | nil => simp [Map.set, Map.find]
  | cons e m ih =>
    obtain ⟨j, u⟩ := e
    unfold Map.set
    split
    · simp [Map.find]
    · split
      · simp [Map.find]
      · rename_i h1 h2
        simp [Map.find, ih, Ne.symm h2]

theorem Map.find_set_other {α : Type} {k i : Nat} (h : i ≠ k) (v : α) (m : Map α) :
    Map.find i (Map.set k v m) = Map.find i m := by
  induction m with
  | nil => simp [Map.set, Map.find, Ne.symm h]
  | cons e m ih =>
    obtain ⟨j, u⟩ := e
    unfold Map.set
    split
    · simp [Map.find, Ne.symm h]
    · split
      · rename_i h1 h2
        subst h2
        simp [Map.find, Ne.symm h]
      · simp [Map.find, ih]

@[simp] theorem Map.get_set_same {α : Type} (d : α) (k : Nat) (v : α) (m : Map α) :
    Map.get d (Map.set k v m) k = v := by
  simp [Map.get, Map.find_set_same]

theorem Map.get_set_other {α : Type} (d : α) {k i : Nat} (h : i ≠ k) (v : α) (m : Map α) :
    Map.get d (Map.set k v m) i = Map.get d m i := by
  simp [Map.get, Map.find_set_other h]

end Sys2Proof.Machine
end

