-- ==== Sys2Proof/Machine/State.lean ====
section
/-! DEFINITION. The state of one AMB-LX8 as plain data: thread sets, elements, quads, tiles, carousels, launch windows, the running
context and the saved ones, memory, the host's registers and the module's. INVENTORY.md lists every field with its rule. -/
namespace Sys2Proof.Machine

/-! ### Registers -/

/-- A register of one of the three classes, g0 to g31, f0 to f31 or v0 to v31 (R34, R164). -/
inductive RegKey where
  | g (n : RegNo)
  | f (n : RegNo)
  | v (n : RegNo)
  deriving DecidableEq, Repr

/-- An `f` register: 64 bits and a trust count (R74, R164). -/
structure FReg where
  bits : Word
  tc : Nat
  deriving DecidableEq, Repr

/-- A `v` register: 128 bits and one trust count for each 32-bit slot (R74, R164). -/
structure VReg where
  bits : Quad128
  tc : Vector Nat 4
  deriving DecidableEq, Repr

/-- One write that a retiring instruction makes: a register, or words pushed at a port. -/
inductive RegWrite where
  | g (n : RegNo) (x : Word)
  | f (n : RegNo) (x : FReg)
  | v (n : RegNo) (x : VReg)
  | port (p : Port) (ws : List Word)
  deriving DecidableEq, Repr

/-- The result that a doldrums trap holds (R84, R212): the writes, the flags they raise with them, and the words the
instruction pops from each port when it retires. -/
structure HeldResult where
  writes : List RegWrite
  flags : BitVec 5
  pops : List (Port × Nat)
  deriving DecidableEq, Repr

/-! ### Messages -/

/-- What a message is for, beyond its header and payload (R92, R112, R117, R325, R330, R331). -/
inductive MsgKind where
  /-- A message built by `send`, `sendm` or `gsend`, a completion, a pass or a return: its words are its payload. -/
  | data
  /-- A launch activation (R112, R114): the arguments and `tag`, the element's index, and the allotment. -/
  | launch (ttype : Nat) (args : List Word) (index : Nat) (tag : Word) (allot : Nat)
  /-- A call activation (R117, R31). -/
  | call (ttype : Nat) (pc : Word) (args : List Word) (caller : Nat) (id : Word)
  /-- A split activation on channel 30 (R325). -/
  | split (ch : Nat) (low high mid donor : Nat)
  /-- An export (`out`) or import activation on channel 31 (R331, R332). -/
  | merge (out : Bool) (ch : Nat) (low high partner : Nat)
  /-- A merge-out marker of one priority (R330); it is not queued. -/
  | marker (ch : Nat)
  deriving DecidableEq, Repr

/-- A message: its header word (R174), its payload of up to 8 words and its kind. -/
structure Msg where
  header : Word
  payload : List Word
  kind : MsgKind
  deriving DecidableEq, Repr

/-- An entry of a send buffer (R175): one destination, or a group for `gsend` (R341). -/
inductive OutMsg where
  | one (dst : Nat) (m : Msg)
  | group (g : Nat) (m : Msg)
  deriving DecidableEq, Repr

/-- A message in an inbound queue (R167): its arrival stamp, whether an activation has taken it, whether it waits for a supervisor
activation to end after an abort (R345), and whether it stands in the hold sub-queue of a merge (R330). -/
structure QMsg where
  stamp : Nat
  msg : Msg
  taken : Bool
  returned : Bool
  held : Bool
  deriving DecidableEq, Repr

/-! ### Thread sets -/

/-- Why an activation or thread runs (R92, R116). -/
inductive ActKind where
  | launch | spawn | call | ring | message | split | exportState | importState
  deriving DecidableEq, Repr

/-- The activation or spawned thread that a set runs (R163): its allotment (0 for none), its channel, the message or ring entry it
took by arrival stamp, the header that `mid` reads, the payload of `pi`, and the counts of R178 and R339. `codelet` is the address
that a ring entry carries; `partner`, `stageCh` and `xst` (0 none, 1 pending, 2 done) belong to split, export and import activations
(R325, R331, R338). -/
structure Act where
  kind : ActKind
  allot : Nat
  ttype : Nat
  chan : Nat
  pri : Bool
  stamp : Nat
  header : Word
  payload : List Word
  read : Nat
  gbars : Nat
  codelet : Nat
  partner : Nat
  stageCh : Nat
  xst : Nat
  passPin : Option Nat
  subPins : List Nat
  deriving DecidableEq, Repr

/-- A repeat frame (R195, R196): the address of the `rpt`, the captured patterns, the count, the three steps, and the replay and
position of the next instruction. -/
structure Frame where
  start : Word
  words : List Code
  count : Nat
  kd : Nat
  ka : Nat
  kb : Nat
  i : Nat
  j : Nat
  deriving DecidableEq, Repr

/-- A fault of an operation that a suspended handler has outstanding, which strikes when the handler goes on (R155; log entry 70): the
operation's number and pc, the cause and the address. -/
structure LateFault where
  id : Nat
  pc : Word
  cause : Nat
  addr : Nat
  deriving DecidableEq, Repr

/-- What a resumable trap keeps of the suspended handler (R346): its frame, send buffer, pending payload, the cause, for a
doldrums trap the held result (R84), the address of the trapping instruction, and the fault that waits for the handler. -/
structure Suspended where
  frame : Option Frame
  sendBuf : List OutMsg
  pend : List Word
  cause : Nat
  held : Option HeldResult
  pc : Word
  late : Option LateFault
  deriving DecidableEq, Repr

/-- An outstanding split fence (R316): its number, the kinds it names and its scope, and the memory operations and engine commands
it covers, by number. -/
structure FenceRec where
  id : Nat
  smp : Bool
  st : Bool
  ld : Bool
  scope : Scope
  ops : List Nat
  cmds : List Nat
  deriving DecidableEq, Repr

/-- Where a set stands (R163, R185, R345, R358). -/
inductive Run where
  /-- Free: no activation. -/
  | free
  /-- Running an activation or a spawned thread. -/
  | user
  /-- Running the supervisor trap handler. -/
  | sup
  deriving DecidableEq, Repr

/-- A thread set (R164). `pending` is the scoreboard: the registers that wait for an operation, each with its g bank (true for the
supervisor's) and the operation's number; `oplog` and `badRegs` name registers in the same way (R352). `ending` is the step that `done` has reached (R185), `yielded` marks a set suspended at a
`yld` (R358), `waiting` a `qwait`'s start tick, port and limit, `waited` the entries at the tick that ended its wait (R188), `blocked` the ports at which an instruction waits with the
words it pops and pushes there (R180), `barTok` the `gbar` tokens not read yet, each with its bank (R340), `migrated` a guest on slot 0 (R233), `bubble` the cycle after a taken branch (R173). -/
structure ThreadSet where
  g : Vector Word 32
  sg : Vector Word 32
  f : Vector FReg 32
  v : Vector VReg 32
  fcsr : Word
  sigctl : Word
  scnt : BitVec 16
  scap : BitVec 16
  sbase : BitVec 16
  stack : List Word
  tcause : Word
  tepc : Word
  tval : Word
  tmsg : Word
  tstat : Word
  pc : Word
  callctr : BitVec 32
  sndctr : BitVec 24
  sendBuf : List OutMsg
  pend : List Word
  run : Run
  act : Option Act
  susp : Option Suspended
  frame : Option Frame
  pending : List (Bool × RegKey × Nat)
  barTok : List (Bool × RegNo)
  fences : List FenceRec
  ending : Option Nat
  yielded : Bool
  waiting : Option (Nat × Nat × Nat)
  waited : Option Nat
  blocked : List (Port × Nat × Nat)
  migrated : Bool
  bubble : Bool
  oplog : List (Bool × RegKey)
  badRegs : List (Bool × RegKey)
  deriving DecidableEq, Repr

/-! ### Elements -/

/-- Who waits at a queue or link (R180, R249): a thread set, or the engine that runs a command. -/
inductive Waiter where
  | set (le k : Nat)
  | engine (id : Nat)
  deriving DecidableEq, Repr

/-- A queue register or one inbound direction of a link (R180, R181): its words, the words written and read since context start, and the
readers and writers that wait, each in the order in which they came. -/
structure Fifo where
  words : List Word
  written : Nat
  readCount : Nat
  readers : List Waiter
  writers : List Waiter
  deriving DecidableEq, Repr

/-- An installed handler entry (R91, R93). `masked` is its masked-at-start bit (R95, R393), `owner` the number of the allotment that
owns the channel, none for an entry that `hset` bound without an owner (R97). -/
structure Handler where
  hpc : Word
  spc : Word
  mpc : Word
  rid : Nat
  prio : Bool
  stateful : Bool
  key : Nat
  hiw : Nat
  low : Nat
  masked : Bool
  owner : Option Nat
  deriving DecidableEq, Repr

/-- What holds an element's resources (R112): a task type's layout at `base`, its sets, its channels, its launch, and for a twin
allotment (R324) the home. `entry` and `scratch` are the `hpc` and the region offset of entry 0 (R92, R114). `fresh` until its first
activation (R122), `launched` once its launch activation is dispatched (R376 row 7). -/
structure Allot where
  id : Nat
  ttype : Nat
  base : Nat
  size : Nat
  regions : List Nat
  firstSet : Nat
  nsets : Nat
  chans : List Nat
  aclass : Nat
  fclass : Nat
  launch : Option Nat
  twinOf : Option Nat
  entry : Word
  scratch : Nat
  fresh : Bool
  launched : Bool
  deriving DecidableEq, Repr

/-- One entry of a key-range table (R321): low bound, owner, and 0 settled, 1 split pending, 2 merging (R337). -/
structure KrtEntry where
  lo : Nat
  own : Nat
  kst : Nat
  deriving DecidableEq, Repr

/-- A clone or merge in progress at a stage's home (R325, R330): the other element, the bounds, the token to write, and how far it
has come. -/
structure StageOp where
  isClone : Bool
  partner : Nat
  low : Nat
  high : Nat
  mid : Nat
  token : Option (Nat × Nat)
  queued : Bool
  shipped : Bool
  ready : Bool
  deriving DecidableEq, Repr

/-- A stage as its home holds it (R321, R323), or as a twin does: `twinHome` names the home, `lowCount` counts boundaries at or
below `low` (R329), `markers` holds the arrival stamps of the merge-out markers that have come, by priority (R331), `deferred` is the
`xst` that an ended split or export still waits for. -/
structure Stage where
  krt : List KrtEntry
  overloads : Nat
  op : Option StageOp
  twinHome : Option Nat
  lowCount : Nat
  markers : List (Bool × Nat)
  deferred : Option Nat
  deriving DecidableEq, Repr

/-- The operation of an atomic (R315). -/
inductive AtomOp where
  | add | and | or | xor | min | max | minn | maxn | swp | cas
  deriving DecidableEq, Repr

/-- How loaded bytes become a register's value (R157). -/
inductive LoadForm where
  | zx | sx | f32 | f64 | v128
  deriving DecidableEq, Repr

/-- What an outstanding memory operation does when it completes (R145). -/
inductive OpKind where
  | load (d : RegKey) (form : LoadForm)
  | store (bytes : List Byte)
  | lda (d : RegKey) (sc : Scope)
  | stl (bytes : List Byte) (sc : Scope)
  | ldv (d : RegKey) (x : Byte) (sc : Scope)
  | stv (x : Word) (sc : Scope)
  | vrst (words : List Nat)
  | atom (op : AtomOp) (d : Option RegKey) (b : Word) (cmp : Word) (ar : Bool)
  deriving DecidableEq, Repr

/-- Where an access lands (R127, R129, R132, R140, R381): local memory of an element, a window buffer of a tile, physical memory
(GDDR 7 or host, by its place in `State.mem`) through a page, or the control space. -/
inductive Place where
  | loc (le off : Nat)
  | win (tile off : Nat)
  | phys (pa : Nat)
  | ctl (off : Nat)
  deriving DecidableEq, Repr

/-- What a checked access may touch: where it lands, whether its page may be written and is a supervisor page. -/
structure Target where
  place : Place
  wr : Bool
  supPage : Bool
  deriving DecidableEq, Repr

/-- What an access has performed so far of its parts, with the bytes that a load read: the lower half of its data, or all of it, the upper half of
a 16-byte access (R304), and the plane bytes of a tagged one (R79). -/
structure Parts where
  lo : Option (List Byte)
  hi : Option (List Byte)
  planes : Option (List (Option Byte))
  deriving DecidableEq, Repr

/-- Nothing performed yet. -/
def Parts.none : Parts := ⟨.none, .none, .none⟩

/-- An outstanding memory operation of an element (R145): who issued it, from which pc, at which address, where it lands, what the
page allows (for a fill), and the plane bytes of a tagged access (R158), each with its address and what its own page allows. `counted` says that
it leaves the quad, and so counts against the limits. `mute` marks one whose handler has ended: a fault of it strikes
nothing (R144). `parts` is what an access of several parts has performed (R79, R304). -/
structure MemOp where
  id : Nat
  set : Nat
  inSup : Bool
  pc : Word
  ea : Nat
  n : Nat
  place : Place
  wr : Bool
  supPage : Bool
  planes : List (Option (Nat × Target))
  kind : OpKind
  mute : Bool
  parts : Parts
  counted : Bool
  deriving DecidableEq, Repr

/-- An instruction line: its address, whether its page is `sup`, and its 64 bytes (R133). -/
structure CodeLine where
  asid : BitVec 12
  va : Nat
  sup : Bool
  bytes : List Byte
  deriving DecidableEq, Repr

/-- An element (R12, R164): four thread sets and what they share. `inb` holds both inbound queues in arrival order (R94, R167);
`entered` and `gone` count the messages that have entered and been dispatched from the priority-0 queue (R188). `ptr0` and `ptr1`
are the selection pointers (R168), `last0` the class-0 set that issued last and `won3`, `won0` the contested cycles of the budget
period (R172); `rotor` is the class-1 candidate that issued last, among T3 and the guests. `links` are the inbound halves from
north, east, south and west (R181), `subOwners` the allotments that set the element's bit of a carousel's segment (R376 row 4).
The model's own: `trailing` names, for activations that have ended with stores into the element's local memory outstanding, their
channel, their set and the number below which those stores are theirs (R333; log entry 1), and `sampledAt` is the tick of the newest PC
sample (R372; log entry 10). -/
structure Element where
  sets : Vector ThreadSet 4
  queues : Vector Fifo 4
  links : Vector Fifo 4
  srseed : Word
  mask : BitVec 32
  handlers : Map Handler
  inb : List QMsg
  arrivals : Nat
  entered : Nat
  gone : Nat
  ptr0 : Nat
  ptr1 : Nat
  last0 : Nat
  won3 : Nat
  won0 : Nat
  ringBase : BitVec 16
  ringEn : Bool
  ringHead : Nat
  ringRsv : Nat
  ringStamps : List Nat
  allots : List Allot
  stages : Map Stage
  subOwners : List (Nat × Nat × Nat)
  ops : List MemOp
  fetchBuf : List CodeLine
  rotor : Nat
  trailing : List (Nat × Nat × Nat)
  sampledAt : Option Nat
  deriving DecidableEq, Repr

/-! ### Quads and tiles -/

/-- The sub-operations of a w-op (R246). -/
inductive WSub where
  | add | sub | mul | fma | min | max | cvt | red | exp | rsq | act | scl | cpy | trn
  deriving DecidableEq, Repr

/-- Who issued an engine command, and its number (R151): the element, the set, the activity's allotment, and `holder`, the allotment whose set it
was, 0 for T3 (R376). -/
structure Issuer where
  id : Nat
  le : Nat
  set : Nat
  allot : Nat
  holder : Nat
  ttype : Nat
  inSup : Bool
  ownDst : Bool
  deriving DecidableEq, Repr

/-- A shape record (R100). -/
structure Shape where
  base : Nat
  dims : List Nat
  strides : List Int
  type : Nat
  flags : Nat
  lblk : Nat
  zeros : Nat
  scale : Nat
  deriving DecidableEq, Repr

/-- A scale record (R268). -/
structure ScaleRec where
  scva : Nat
  sper : Nat
  slines : Nat
  sstr : Nat
  deriving DecidableEq, Repr

/-- An element as an engine reads it: its bits, its count, and for a block-scaled one its scale byte. -/
structure Elem where
  bits : Nat
  t : Nat
  sc : Option Nat
  deriving DecidableEq, Repr

/-- A w-op with its records as the engine read them when it began. -/
structure WJob where
  d : Shape
  x : Shape
  y : Shape
  sx : Option ScaleRec
  sy : Option ScaleRec
  deriving DecidableEq, Repr

/-- A matrix command with its record, scales and control word as the unit read them when it began. -/
structure MxJob where
  shape : Shape
  scales : Option ScaleRec
  cw : Nat
  deriving DecidableEq, Repr

/-- A queued w-op (R244): its block, the scalar read at issue, the rounding mode, the generator state from which its reserved draws
come (R73), how far a command blocked at a port has come: the elements done, their flags, and the words popped for the next one (R249);
what it leaves unguarded (R250): the f register of the scalar, none for a port, the records as they stood at issue; by address and for each
byte the values that stood for it, of the records at issue and of the sources in memory as the engines of its quad have left them, and whether
any of these has changed since (log entry 71); and its job once it has begun. -/
structure WCmd where
  who : Issuer
  sub : WSub
  block : Nat
  scalar : FReg
  rm : Nat
  seed : Word
  doneCount : Nat
  flags : BitVec 5
  got : List Word
  sreg : Option RegNo
  recs : List Shape
  recSnap : List (Nat × List (List Byte))
  snap : List (Nat × List (List Byte))
  broken : Bool
  job : Option WJob
  deriving DecidableEq, Repr

/-- A quad's shared parts: the vector unit's queue and the elements that may issue a v-instruction before the next quantum (R248),
the operating point and request in MHz (R386), the SRAM rail in 5 mV steps below nominal and its corrections (R388). -/
structure Quad where
  wops : List WCmd
  grants : List Nat
  mhz : Nat
  rail : Nat
  corrections : Nat
  deriving DecidableEq, Repr

/-- What a copy engine command does (R252 to R257, R338). -/
inductive CopyKind where
  | cpy (dst src n : Word)
  | cpym (dst src n issue : Word)
  | rbr (dst src n issue : Word)
  | gath (idx dst src : Word)
  | scat (idx dst src : Word)
  | xst (a n : Word) (partner ch : Nat) (out : Bool)
  | coll (group : Nat) (block : Word) (op : CollOp)
  deriving DecidableEq, Repr

/-- A command of a tile's copy engine (R252). -/
structure CopyCmd where
  who : Issuer
  kind : CopyKind
  deriving DecidableEq, Repr

/-- A matrix command's opcode (R276 to R281). -/
inductive MxOp where
  | mld | mswp | mrfp4 | mri8 | mri48 | mrbf | mrhf | mre43 | mre52 | mre45 | mdrn | mzro
  deriving DecidableEq, Repr

/-- A matrix command (R260): operands as read at issue, for `mdrn` the generator state of its reserved draws, and how far a command
blocked at a port has come (R269): its job once it has passed its checks (R262), the rows or values done, the words popped for the next
row, and its flags NV, OF, UF, NX, SAT. -/
structure MxCmd where
  who : Issuer
  op : MxOp
  cap : Word
  block : Word
  first : Word
  scale : FReg
  rm : Nat
  sigctl : Word
  seed : Word
  doneRows : Nat
  got : List Word
  flags : BitVec 5
  sreg : Option RegNo
  job : Option MxJob
  deriving DecidableEq, Repr

/-- A plane of weights (R259): its kind code, the weights by 64·row + column, and the scale bytes by 2·column + block that are not
127. -/
structure Plane where
  kind : Nat
  weights : Map (BitVec 16)
  scales : Map Byte
  deriving DecidableEq, Repr

/-- An accumulator cell (R259): 32 bits, its count, and the residue partial of an i32 cell as the exact sum its three channels
carry (R65). -/
structure AccCell where
  bits : BitVec 32
  tc : Nat
  part : Int
  deriving DecidableEq, Repr

/-- What a matrix unit's status shows of the commands completed (R282): K-steps in the partials, the kinds of the active plane, the shadow
plane and the accumulators, whether the global scale is fixed, and the flags. -/
structure MxShown where
  kcnt : Nat
  apk : Nat
  spk : Nat
  akind : Nat
  gsv : Bool
  flags : BitVec 5
  deriving DecidableEq, Repr

/-- A matrix unit (R259); `cells` by 64·row + column, where an unlisted cell is +0 with count 24. `lost` marks an image that was not
taken up (R284); `shown` is what the status showed when the last command completed (R282). -/
structure Matrix where
  shadow : Plane
  active : Plane
  cells : Map AccCell
  akind : Nat
  gscale : FReg
  gsv : Bool
  kcnt : Nat
  sticky : BitVec 5
  queue : List MxCmd
  cadence : Nat
  lost : Bool
  shown : MxShown
  deriving DecidableEq, Repr

/-- A 64-byte line of an L1 superblock (R135): valid, its bytes, the bytes stored since its fill, and the poisoned bytes (R154). -/
structure Line where
  valid : Bool
  data : BitVec 512
  stored : BitVec 64
  poison : BitVec 64
  deriving DecidableEq, Repr

/-- A superblock of the L1 (R135, R136): tag, kept physical block, what the page allows, and its four lines. -/
structure Superblock where
  tag : Nat
  asid : BitVec 12
  pa : Nat
  way : Nat
  rd : Bool
  wr : Bool
  sup : Bool
  lines : Vector Line 4
  deriving DecidableEq, Repr

/-- A translation held in an edge TLB (R143): page base and size, physical base, and the leaf's bits. -/
structure TlbEntry where
  asid : BitVec 12
  va : Nat
  size : Nat
  pa : Nat
  kind : Nat
  sup : Bool
  ex : Bool
  wr : Bool
  rd : Bool
  deriving DecidableEq, Repr

/-- A capture in progress (R223): the carousel, segment, frame count and slot number, whether every frame is written, and the first
failed frame with its cause (R225). -/
structure Capture where
  car : Nat
  seg : Nat
  frames : Nat
  number : Word
  full : Bool
  failed : Option (Nat × Nat)
  deriving DecidableEq, Repr

/-- A window buffer of a tile (R223, R226): the segment that is resident by carousel and number, the capture in progress, and the pins:
of passes by element and arrival stamp (of a pass on its way by `passKey` of its number), and of `csub` by element and set, 4 added for the
supervisor's activation. -/
structure WinBuf where
  resident : Option (Nat × Nat)
  capture : Option Capture
  passPins : List (Nat × Nat)
  subPins : List (Nat × Nat)
  deriving DecidableEq, Repr

/-- A Slipstream record (R372) as its four dwords. -/
structure SlipRec where
  w0 : Word
  w1 : Word
  w2 : Word
  w3 : Word
  deriving DecidableEq, Repr

/-- A tile's own parts (R12): L1 with its dirty-line FIFO (R135, R137), edge TLB (R143), instruction cache (R133), sampler cache
(R153), window buffers and the announcement that waits to be taken (R223), the carousel counters (R224, R230), the copy engine
(R252), the matrix unit (R258), the Slipstream buffer and losses (R373), and the donation counter (R121). -/
structure Tile where
  l1 : List Superblock
  dirty : List Nat
  tlb : List TlbEntry
  icache : List CodeLine
  sampler : Map (List Byte)
  bufs : Vector WinBuf 3
  heard : List (Nat × Nat × Nat × Nat)
  misses : Vector (BitVec 32) 4
  lastSlot : Vector Word 4
  copies : List CopyCmd
  mx : Matrix
  slip : List SlipRec
  lost : Nat
  idleFrom : Nat
  lastVictim : Nat
  deriving DecidableEq, Repr

/-! ### Carousels -/

/-- What the arbiter keeps of a descriptor (R215): none where it is invalid. -/
structure Desc where
  sva : Nat
  frames : Nat
  kind : Nat
  deriving DecidableEq, Repr

/-- A slot that is open (R218, R219): its segment, frame count and number, the next frame, and the first failure. -/
structure Slot where
  seg : Nat
  frames : Nat
  number : Word
  next : Nat
  failed : Option (Nat × Nat)
  deriving DecidableEq, Repr

/-- A carousel: its control block (R214), and its arbiter and sequencer (R215, R220, R221). `copying` is the copy of a
committed table in progress: its `ntab`, its length and its descriptors. `counts` holds the tiles whose last notification of a segment was
nonzero, by segment. -/
structure Carousel where
  ctab : Word
  clen : Nat
  cbind : BitVec 16
  cgap : Nat
  ntab : Word
  nlen : Nat
  ncmt : Bool
  cslots : Word
  table : Map Desc
  copying : Option (Word × Nat × Map Desc)
  copied : Bool
  counts : Map (List Nat)
  fifo : List Nat
  ptr : Nat
  idle : Bool
  wakeAt : Nat
  lastPromoted : Option Bool
  lastOpen : Option Nat
  slot : Option Slot
  deriving DecidableEq, Repr

/-! ### Launch -/

/-- A launch window (R105, R108, R113): its bound context, the record being written and which bytes of 56 to 63 are, the queue,
`lstat` with the records accepted since the start of the context that it is or was last bound to, the records accepted since theirs for other
contexts that it was bound to, by `ctxid`, and the head record's progress: the launch number and the shares not allotted yet, each by its chiplet
with its elements and their indices, as they stood when the record was accepted (R112). -/
structure Window where
  bound : Option (BitVec 12)
  record : List Byte
  seen : BitVec 8
  queue : List (List Byte)
  err : Bool
  code : Byte
  acc : BitVec 32
  past : Map (BitVec 32)
  head : Option (Nat × List (Nat × List (Nat × Nat)))
  deriving DecidableEq, Repr

/-- A launch in progress (R378): the elements that have not retired, the completion word and the tag, and the memory operations that its sets had
outstanding as their allotments retired, by number. -/
structure Launch where
  id : Nat
  elems : List Nat
  cva : Nat
  tag : Word
  ops : List Nat
  deriving DecidableEq, Repr

/-! ### Requests on the mesh -/

/-- What travels on the mesh or waits at an engine (R116, R119, R122, R176, R220, R229, R257, R260, R282, R339). -/
inductive Flight where
  | msg (src dst : Nat) (m : Msg)
  | spawnReq (who : Issuer) (target : Nat) (pc : Word) (args : List Word)
  | spawnReply (who : Issuer) (value : Word)
  | rdec (who : Issuer) (owner off : Nat)
  | matrix (cmd : MxCmd) (tile : Nat)
  | query (who : Issuer) (cap : Word) (tile : Nat)
  | bar (who : Issuer) (group : Nat) (spawned : Bool) (stamp index : Nat)
  | notify (car seg tile : Nat) (nonzero : Bool)
  | cprom (who : Issuer) (car seg : Nat)
  | stealReq (thief victim : Nat)
  | stealAns (thief victim : Nat) (les : List Nat)
  deriving DecidableEq, Repr

/-! ### Contexts -/

/-- What a group's engine has counted of a member (R339): the rounds, and the round of each arrival of an activation by its stamp and index. -/
structure Counted where
  rounds : Nat
  seen : List ((Nat × Nat) × Nat)
  deriving DecidableEq, Repr

/-- The engine of a group (R339, R257): the `gbar` round now filling, the issuers that wait with the round of each, what it has counted of
each member, the members that have contributed to the `coll` round, and the rounds of `coll`
completed. -/
structure GroupEngine where
  round : Nat
  waiting : List (Issuer × Nat)
  counted : Map Counted
  collIn : List Nat
  collDone : Nat
  deriving DecidableEq, Repr

/-- A context and its partition: everything that a gang switch keeps (R110, R127, R140, R149, R152, R165, R265, R339, R357,
R362). `ownEntry` says that traps go to the runtime's own entry (R391), `halting` names the sets that stand at a double trap, whose context halts
at its next calm point (R348, R357, R367), `released` the chiplets on which an allotment has been released and the dispatcher's retry is still due (R113,
R377), and `unspec` says that its program has broken an obligation for which the spec states no consequence, so
that every value which it can see is unspecified (R10; log entry 71). -/
structure Ctx where
  present : Bool
  ctxid : BitVec 12
  asid : BitVec 12
  root : Nat
  ttab : Nat
  gtab : Nat
  groupsBad : Bool
  trapEntry : Word
  ownEntry : Bool
  maint : Bool
  jobseed : Word
  ringBase : BitVec 16
  epoch : Byte
  tracked : Vector (Nat × Nat) 8
  trust : Vector (Nat × Nat × Nat) 4
  tiles : List Nat
  narrow : Nat
  moved : Map Nat
  elems : Map Element
  masks : Map (BitVec 64)
  groups : Map GroupEngine
  launches : List Launch
  flights : List (Nat × Flight)
  shares : Vector ClassShare 6
  nextShares : Option (Vector ClassShare 6)
  borrowed : BitVec 6
  calm : Option Nat
  stopped : Bool
  halted : Bool
  halting : List (Nat × Nat)
  released : List Nat
  unspec : Bool
  deriving DecidableEq, Repr

/-- A tile's window buffers as a save keeps them (R216, R223, R230). -/
structure SavedBufs where
  bufs : Vector WinBuf 3
  misses : Vector (BitVec 32) 4
  lastSlot : Vector Word 4
  deriving DecidableEq, Repr

/-- A saved context (R362 to R365): the context, its local memory and window buffers (at the places of its logical tiles) with their poison, its quads'
queues, its matrix images, the copy commands that wait, its carousels' arbiter state by
number, and the messages diverted since. Quads and tiles go by their number in the partition. A quad's queue and a matrix image stand
after the 32-byte header of their image (R364). -/
structure Saved where
  ctx : Ctx
  lmem : List Host.Cell
  lpoison : List Nat
  wops : Map (List Byte × List WCmd)
  mx : Map (List Byte × Matrix)
  copies : Map (List CopyCmd)
  bufs : Map SavedBufs
  cars : List (Nat × Carousel)
  diverted : List (Nat × Flight)
  deriving DecidableEq, Repr

/-! ### The device -/

/-- A Slipstream control block (R371). -/
structure Slip where
  base : Word
  size : Nat
  pcn : Nat
  head : Word
  tail : Word
  bsel : Vector (BitVec 32) 4
  en : BitVec 4
  deriving DecidableEq, Repr

/-- A chiplet's governor (R386, R387): when rank 1 or rank 2 last acted, the temperature and current it last heard, the number of the last interval of
10 µs that it decided, and the tick of its last step by rank 1. -/
structure Governor where
  lastLimit : Option Nat
  temp : Nat
  current : Nat
  interval : Nat
  stepped : Option Nat
  deriving DecidableEq, Repr

/-- The management mailbox (R380): the command word, busy, ready, the last result, the argument bytes and the event log (newest
last): what happened, as three words. -/
structure Mailbox where
  cmd : Word
  busy : Bool
  ready : Bool
  result : BitVec 16
  args : Map Byte
  log : List (Word × Word × Word)
  deriving DecidableEq, Repr

/-- One entry of the agenda: which agent moves next (log entry 1). -/
inductive Agenda where
  /-- The element takes one arithmetic cycle (R172). -/
  | cycle (le : Nat)
  /-- Another agent takes one of the steps of spec/opcode_table.json. -/
  | event (i : Instr)
  /-- The timebase advances (R7, R11). -/
  | advance (ticks : Nat)
  deriving DecidableEq, Repr

/-- The whole machine. `mem` holds every byte of memory by place: GDDR 7 from 0, host memory from 2^46, local memory of logical
element n from 2^48 + 2^16·n, window buffers of tile t from 2^50 + 2^18·t. `poison` lists the poisoned 8-byte words by place over 8, `latent`
those of GDDR 7 and L2 with a single-bit error not corrected yet, and `corrected` counts the corrected errors (R154, R155);
`vers` holds the versions of tracked words by place over 8 (R150). `period` numbers the last budget period begun (R124). `planeLast` is the carousel
granted the plane last, `tick` the ticks since power good, whose low 64 bits are the timebase (R6), `planeUntil` the tick at which its slot's frames have passed (R217). `agenda`,
`cur`, `free` and `choices` are the model's own: who moves next, the thread set whose instruction `exec` runs, the counter of free values, and which
of the orders that R305 leaves open the next accesses take (log entry 1). -/
structure State where
  power : Bool
  resets : Nat
  period : Nat
  bringUp : Nat
  fwOk : Bool
  tick : Nat
  mem : List Host.Cell
  vers : Map Byte
  poison : List Nat
  latent : List Nat
  corrected : Nat
  ctx : Ctx
  saved : List Saved
  tiles : Map Tile
  quads : Map Quad
  cars : Vector Carousel 4
  planeLast : Nat
  planeUntil : Nat
  windows : Map Window
  slips : Map Slip
  govs : Map Governor
  mailbox : Mailbox
  spdm : List (List Byte)
  hostLog : List (List Byte)
  nextId : Nat
  agenda : List Agenda
  cur : Nat × Nat
  free : Nat
  choices : List Nat
  deriving DecidableEq, Repr

/-- Why the machine stops. -/
inductive Fault where
  /-- Raised by `step` while module power is off: no part of the device runs (R18). Safe: the device does nothing then. -/
  | poweredOff
  deriving DecidableEq, Repr

/-- Why an instruction is refused. -/
inductive Refusal where
  /-- Raised by an arm of `exec` that has no meaning yet. Safe: no claim can be proved of it. -/
  | notModelled (mnemonic : String)
  deriving DecidableEq, Repr

/-! ### Values at reset and at context start -/

/-- `f` registers at context start: zero with count 53 (R165). -/
def FReg.start : FReg := ⟨0, 53⟩
/-- `v` registers at context start: zero with slot counts 24 (R165). -/
def VReg.start : VReg := ⟨0, Vector.replicate 4 24⟩

/-- A thread set at context start (R165). -/
def ThreadSet.start : ThreadSet where
  g := Vector.replicate 32 0
  sg := Vector.replicate 32 0
  f := Vector.replicate 32 FReg.start
  v := Vector.replicate 32 VReg.start
  fcsr := 0
  sigctl := 0
  scnt := 0
  scap := 0
  sbase := 0
  stack := []
  tcause := 0
  tepc := 0
  tval := 0
  tmsg := 0
  tstat := 0
  pc := 0
  callctr := 1
  sndctr := 1
  sendBuf := []
  pend := []
  run := .free
  act := none
  susp := none
  frame := none
  pending := []
  barTok := []
  fences := []
  ending := none
  yielded := false
  waiting := none
  waited := none
  blocked := []
  migrated := false
  bubble := false
  oplog := []
  badRegs := []

/-- An empty queue (R165). -/
def Fifo.start : Fifo := ⟨[], 0, 0, [], []⟩

/-- The generator's start state: (`jobseed` xor LE · 0x9E37_79B9_7F4A_7C15 modulo 2^64) or 1 (R72). -/
def startSeed (jobseed : Word) (le : Nat) : Word := (jobseed ^^^ (BitVec.ofNat 64 le * 0x9E3779B97F4A7C15)) ||| 1

/-- Logical element `le` at context start (R165, R168, R172, R120). -/
def Element.start (jobseed : Word) (ringBase : BitVec 16) (le : Nat) : Element where
  sets := Vector.replicate 4 ThreadSet.start
  queues := Vector.replicate 4 Fifo.start
  links := Vector.replicate 4 Fifo.start
  srseed := startSeed jobseed le
  mask := 0
  handlers := []
  inb := []
  arrivals := 0
  entered := 0
  gone := 0
  ptr0 := 31
  ptr1 := 31
  last0 := 2
  won3 := 0
  won0 := 0
  ringBase := ringBase
  ringEn := true
  ringHead := 0
  ringRsv := 0
  ringStamps := []
  allots := []
  stages := []
  subOwners := []
  ops := []
  fetchBuf := []
  rotor := 0
  trailing := []
  sampledAt := none

/-- A quad at reset (R386, R388). -/
def Quad.start : Quad := ⟨[], [], 600, 0, 0⟩

/-- An empty plane (R259). -/
def Plane.empty : Plane := ⟨0, [], []⟩

/-- A cell after `mzro` (R281). -/
def AccCell.start : AccCell := ⟨0, 24, 0⟩

/-- A matrix unit at reset (R259, R283). -/
def Matrix.start : Matrix := ⟨Plane.empty, Plane.empty, [], 0, ⟨0, 24⟩, false, 0, 0, [], 0, false, ⟨0, 0, 0, 0, false, 0⟩⟩

/-- An invalid line. -/
def Line.empty : Line := ⟨false, 0, 0, 0⟩

/-- A free window buffer. -/
def WinBuf.start : WinBuf := ⟨none, none, [], []⟩

/-- A tile at reset. -/
def Tile.start : Tile where
  l1 := []
  dirty := []
  tlb := []
  icache := []
  sampler := []
  bufs := Vector.replicate 3 WinBuf.start
  heard := []
  misses := Vector.replicate 4 0
  lastSlot := Vector.replicate 4 0
  copies := []
  mx := Matrix.start
  slip := []
  lost := 0
  idleFrom := 0
  lastVictim := 0

/-- A carousel at reset. -/
def Carousel.start : Carousel := ⟨0, 0, 0, 0, 0, 0, false, 0, [], none, false, [], [], 0, true, 0, none, none, none⟩

/-- A launch window at reset (R105). -/
def Window.start : Window := ⟨none, List.replicate 64 0, 0, [], false, 0, 0, [], none⟩

/-- A group's engine at context start (R339). -/
def GroupEngine.start : GroupEngine := ⟨1, [], [], [], 0⟩

/-- A class without shares. -/
def noShare : ClassShare := ⟨0, 0, 0, 0, 0⟩

/-- No context. -/
def Ctx.none : Ctx where
  present := false
  ctxid := 0
  asid := 0
  root := 0
  ttab := 0
  gtab := 0
  groupsBad := false
  trapEntry := 0
  ownEntry := false
  maint := false
  jobseed := 0
  ringBase := 0
  epoch := 0
  tracked := Vector.replicate 8 (0, 0)
  trust := Vector.replicate 4 (0, 0, 0)
  tiles := []
  narrow := 0
  moved := []
  elems := []
  masks := []
  groups := []
  launches := []
  flights := []
  shares := Vector.replicate 6 noShare
  nextShares := Option.none
  borrowed := 0
  calm := Option.none
  stopped := false
  halted := false
  halting := []
  released := []
  unspec := false

/-- A Slipstream control block at reset. -/
def Slip.start : Slip := ⟨0, 0, 0, 0, 0, Vector.replicate 4 0xFFFFFFFF, 0⟩

/-- A governor at reset. -/
def Governor.start : Governor := ⟨none, 0, 0, 0, none⟩

/-- The mailbox at reset (R389). -/
def Mailbox.start : Mailbox := ⟨0, false, false, 0, [], []⟩

/-- The machine right after reset is released, at step 1 of bring-up (R389): the timebase at 0, no context, no window bound, the
last plane grant to carousel 3 (R217), memory with nothing listed. -/
def State.reset : State where
  power := true
  resets := 0
  period := 0
  bringUp := 1
  fwOk := false
  tick := 0
  mem := []
  vers := []
  poison := []
  latent := []
  corrected := 0
  ctx := Ctx.none
  saved := []
  tiles := []
  quads := []
  cars := Vector.replicate 4 Carousel.start
  planeLast := 3
  planeUntil := 0
  windows := []
  slips := []
  govs := []
  mailbox := Mailbox.start
  spdm := []
  hostLog := []
  nextId := 1
  agenda := []
  cur := (0, 0)
  free := 0
  choices := []

end Sys2Proof.Machine
end

