-- ==== Sys2Proof/Machine/Memory.lean ====
section
/-! DEFINITION. Memory as one list of cells in canonical form, ascending by place and without the value that an unlisted place reads as,
and the places of GDDR 7, host memory, local memories and window buffers in it; the tiles, quads, routers and home slices that the
part's numbering gives (R12 to R14, R110, R147, R400). -/
namespace Sys2Proof

/-- The code of a scope (R41). -/
def Scope.rank : Scope → Nat
  | .el => 0
  | .qd => 1
  | .tl => 2
  | .cp => 3
  | .dv => 4
  | .sy => 5

/-- The number of a port (R34). -/
def Port.number : Port → Nat
  | .pi => 32
  | .po => 33
  | .q n => 34 + n.toNat
  | .pn => 40
  | .pe => 41
  | .ps => 42
  | .pw => 43

/-- The direction of a link port: 0 north, 1 east, 2 south, 3 west (R181). -/
def Port.dir : Port → Option Nat
  | .pn => some 0
  | .pe => some 1
  | .ps => some 2
  | .pw => some 3
  | _ => none

end Sys2Proof

namespace Sys2Proof.Machine

/-- What an unlisted place reads as: zero (R389 for GDDR 7; log entry 3 for the rest). -/
def unlisted : Byte := 0

/-- The byte at place `a`. -/
def Mem.read (a : Nat) : List Host.Cell → Byte
  | [] => unlisted
  | (k, b) :: m => if k = a then b else Mem.read a m

/-- The cells with byte `b` at place `a`, in canonical form. -/
def Mem.write (a : Nat) (b : Byte) : List Host.Cell → List Host.Cell
  | [] => if b = unlisted then [] else [(a, b)]
  | (k, c) :: m =>
    if a < k then (if b = unlisted then (k, c) :: m else (a, b) :: (k, c) :: m)
    else if a = k then (if b = unlisted then m else (a, b) :: m)
    else (k, c) :: Mem.write a b m

/-- The canonical form above place `lo`: ascending places, no unlisted value. -/
def Mem.wfFrom (lo : Nat) : List Host.Cell → Bool
  | [] => true
  | (k, b) :: m => decide (lo ≤ k) && decide (b ≠ unlisted) && Mem.wfFrom (k + 1) m

/-- The canonical form of memory. -/
def Mem.wf (m : List Host.Cell) : Bool := Mem.wfFrom 0 m

/-- The `n` bytes from place `a` up. -/
def Mem.readN (m : List Host.Cell) (a : Nat) : Nat → List Byte
  | 0 => []
  | n + 1 => Mem.read a m :: Mem.readN m (a + 1) n

/-- The cells with `bs` from place `a` up. -/
def Mem.writeN (a : Nat) : List Byte → List Host.Cell → List Host.Cell
  | [], m => m
  | b :: bs, m => Mem.writeN (a + 1) bs (Mem.write a b m)

/-- The place of byte `pa` of host memory (R148, R381). -/
def hostPlace (pa : Nat) : Nat := 2 ^ 46 + pa
/-- The place of byte `off` of the local memory of logical element `le` (R127). -/
def locPlace (le off : Nat) : Nat := 2 ^ 48 + le * 65536 + off
/-- The place of byte `off` of the window buffers of tile `tile`, buffer b from b · 2^16 (R127, R132). -/
def winPlace (tile off : Nat) : Nat := 2 ^ 50 + tile * 262144 + off

/-- The place in `mem` that `p` names; the control space has none. -/
def Place.key : Place → Nat
  | .loc le off => locPlace le off
  | .win t off => winPlace t off
  | .phys pa => pa
  | .ctl off => 2 ^ 52 + off

/-- `p` moved up by `k` bytes. -/
def Place.plus (p : Place) (k : Nat) : Place :=
  match p with
  | .loc le off => .loc le (off + k)
  | .win t off => .win t (off + k)
  | .phys pa => .phys (pa + k)
  | .ctl off => .ctl (off + k)

/-- The words of `poison` that lie wholly in the `n` bytes from `a` are clean afterwards (R155). -/
def cleanPoison (a n : Nat) (ps : List Nat) : List Nat :=
  ps.filter (fun w => !(decide (a ≤ 8 * w) && decide (8 * w + 8 ≤ a + n)))

/-- The first poisoned byte among the `n` from place `a`, if any (R155). -/
def firstPoison (ps : List Nat) (a : Nat) : Nat → Option Nat
  | 0 => none
  | n + 1 => if ps.contains (a / 8) then some a else firstPoison ps (a + 1) n

/-- The bytes stored from place `a` up: the cells change, and wholly overwritten words lose their errors (R155). -/
def State.poke (a : Nat) (bs : List Byte) (s : State) : State :=
  { s with
    mem := Mem.writeN a bs s.mem, poison := cleanPoison a bs.length s.poison, latent := cleanPoison a bs.length s.latent }

/-- The `n` bytes from place `a` up. -/
def State.peek (s : State) (a n : Nat) : List Byte := Mem.readN s.mem a n

/-- The version of the tracked word at place `a` (R150). -/
def State.version (s : State) (a : Nat) : Byte := Map.get 0 s.vers (a / 8)

/-- The state with version `x` at the word of place `a`; a version of 0 is not listed. -/
def State.setVersion (a : Nat) (x : Byte) (s : State) : State :=
  { s with vers := if x = 0 then Map.drop (a / 8) s.vers else Map.set (a / 8) x s.vers }

/-- One bump of the version at place `a`, modulo 256 (R150, R161). -/
def State.bump (a : Nat) (s : State) : State := s.setVersion a (s.version a + 1)

/-! ### Numbering -/

/-- The router of a physical tile as column and row (R400). -/
def routerAt (tile : Nat) : Nat × Nat :=
  let c := tile / 256
  let k := tile % 256 / 4
  (8 * (c % 4) + k % 8, 8 * (c / 4) + k / 8)

/-- The router number of a tile, which is also the number of the L2 slice there (R400). -/
def routerOf (tile : Nat) : Nat := (routerAt tile).2 * 32 + (routerAt tile).1

/-- Hops between the routers of two tiles (R400). -/
def hops (t u : Nat) : Nat :=
  let a := routerAt t
  let b := routerAt u
  (a.1 - b.1) + (b.1 - a.1) + ((a.2 - b.2) + (b.2 - a.2))

/-- The home slice of the 4 KiB block of a physical address (R147). -/
def homeSlice (pa : Nat) : Nat := ((pa / 4096) % 1024) ^^^ ((pa / 4194304) % 1024)

/-- A wide tile (R400, R12). -/
def wideTile (tile : Nat) : Bool := tile % 4 == 3

/-- Array column and row of a physical element within its tile (R13). -/
def arrayAt (p : Nat) : Nat × Nat :=
  let q := p / 4 % 16
  ((q % 4) * 2 + p % 2, (q / 4) * 2 + p % 4 / 2)

/-- The physical element of tile `t` at array column `x` and row `y` (R12, R13). -/
def elementAt (t x y : Nat) : Nat := t * 64 + ((y / 2) * 4 + x / 2) * 4 + (y % 2) * 2 + x % 2

/-- The number of logical elements of the partition (R110). -/
def State.nLe (s : State) : Nat := 64 * s.ctx.tiles.length

/-- The physical element of a logical one (R110, R122). -/
def State.physOf (s : State) (le : Nat) : Nat :=
  (Map.find le s.ctx.moved).getD (s.ctx.tiles.getD (le / 64) 0 * 64 + le % 64)

/-- The physical tile of a logical element. -/
def State.tileOf (s : State) (le : Nat) : Nat := s.physOf le / 64

/-- The chiplet of an element (R12). -/
def State.chipletOf (s : State) (le : Nat) : Nat := s.tileOf le / 256

/-- The physical quad of a logical element. -/
def State.quadOf (s : State) (le : Nat) : Nat := s.physOf le / 4

/-- The logical element that sits at a physical one (R110, R122). -/
def State.leAt (s : State) (p : Nat) : Option Nat :=
  match s.ctx.moved.find? (fun e => e.2 == p) with
  | some e => some e.1
  | none =>
    match s.ctx.tiles.findIdx? (fun t => t == p / 64) with
    | some j => if (Map.find (64 * j + p % 64) s.ctx.moved).isNone then some (64 * j + p % 64) else none
    | none => none

/-- The neighbour of a logical element through a link: 0 north, 1 east, 2 south, 3 west (R181). -/
def State.neighbour (s : State) (le dir : Nat) : Option Nat :=
  let p := s.physOf le
  let x := (arrayAt p).1
  let y := (arrayAt p).2
  match dir with
  | 0 => if y = 0 then none else s.leAt (elementAt (p / 64) x (y - 1))
  | 1 => if x = 7 then none else s.leAt (elementAt (p / 64) (x + 1) y)
  | 2 => if y = 7 then none else s.leAt (elementAt (p / 64) x (y + 1))
  | _ => if x = 0 then none else s.leAt (elementAt (p / 64) (x - 1) y)

/-- Whether the link exists: not `pn` at row 0, `ps` at row 7, `pw` at column 0 or `pe` at column 7 (R181). -/
def State.hasLink (s : State) (le dir : Nat) : Bool :=
  let x := (arrayAt (s.physOf le)).1
  let y := (arrayAt (s.physOf le)).2
  match dir with
  | 0 => y != 0
  | 1 => x != 7
  | 2 => y != 7
  | _ => x != 0

end Sys2Proof.Machine
end

