-- ==== Sys2Proof/Machine/L1.lean ====
section
/-! DEFINITION. The L1 data caches, the L2 homes they fill from and write back to, the releases and acquires that a tile carries out on
them (R135 to R139, R147, R306, R312), and the edge TLB with its walkers (R140 to R143). -/
namespace Sys2Proof.Machine

/-- A tile's own parts. -/
def State.tile (s : State) (t : Nat) : Tile := Map.get Tile.start s.tiles t

/-- The state with tile `t` replaced. -/
def State.setTile (t : Nat) (x : Tile) (s : State) : State := { s with tiles := Map.set t x s.tiles }

/-- The state with tile `t` changed by `f`. -/
def State.updTile (t : Nat) (f : Tile → Tile) (s : State) : State := s.setTile t (f (s.tile t))

/-- Whether the carousel windows are on: the running context has a carousel bound (R214, R135). -/
def State.windowsOn (s : State) : Bool :=
  s.ctx.present && s.cars.toList.any (fun c => c.cbind.getLsbD 15 && c.cbind.setWidth 12 == s.ctx.ctxid)

/-- Byte `k` of a line. -/
def Line.byte (l : Line) (k : Nat) : Byte := l.data.extractLsb' (8 * k) 8

/-- The line with byte `k` stored: it is dirty there, and a wholly overwritten poisoned word is clean (R137, R155). -/
def Line.put (k : Nat) (b : Byte) (l : Line) : Line :=
  { l with
    data := (l.data &&& ~~~((0xFF : BitVec 512) <<< (8 * k))) ||| (b.setWidth 512 <<< (8 * k))
    stored := l.stored ||| ((1 : BitVec 64) <<< k) }

/-- The line with `bs` stored from byte `k` up. -/
def Line.putN (k : Nat) : List Byte → Line → Line
  | [], l => l
  | b :: bs, l => Line.putN (k + 1) bs (Line.put k b l)

/-- The poison bits of the words that `n` bytes from `k` cover wholly, cleared (R155). -/
def Line.cleanse (k n : Nat) (l : Line) : Line :=
  { l with poison := BitVec.ofNat 64 ((List.range 8).foldl (fun acc w =>
      if k ≤ 8 * w && 8 * w + 8 ≤ k + n then acc
      else acc + (l.poison.extractLsb' (8 * w) 8 : BitVec 8).toNat * 2 ^ (8 * w)) 0) }

/-- A line that holds bytes stored since its fill is dirty (R135, R137). -/
def Line.dirty (l : Line) : Bool := l.valid && l.stored != 0

/-- Word `w` of a line written back to its home at place `pa`: a word that the tile stored whole as one, which cleans it (R155), else the
bytes that it stored (R312), and the poison of a stored byte with them (R154). -/
def writeWord (pa : Nat) (l : Line) (w : Nat) (s : State) : State :=
  let ks := (List.range 8).map (8 * w + ·) |>.filter (fun k => l.stored.getLsbD k)
  let s := if ks.length = 8 then s.poke (pa + 8 * w) (ks.map l.byte) else ks.foldl (fun s k => s.poke (pa + k) [l.byte k]) s
  if ks.any (fun k => l.poison.getLsbD k) then { s with poison := (pa / 8 + w) :: s.poison } else s

/-- The write-back of a dirty line to its home at place `pa`, word by word. -/
def writeBack (pa : Nat) (l : Line) (s : State) : State :=
  if l.dirty then (List.range 8).foldl (fun s w => writeWord pa l w s) s else s

/-- The superblock with line `i` replaced. -/
def Superblock.setLine (i : Nat) (l : Line) (b : Superblock) : Superblock := { b with lines := vset b.lines i l }

/-- The superblock of tile `t` that holds the physical line of place `pa`, under whatever virtual tag: at most one does (R138). -/
def State.holder (s : State) (t pa : Nat) : Option Superblock :=
  (s.tile t).l1.find? (fun b => b.pa / 256 == pa / 256 && (vget b.lines (pa / 64 % 4)).valid)

/-- Line `i` of the superblock with the tag and ASID of `b` becomes `l` in tile `t`, and leaves the dirty FIFO, where it holds no place from then
on (log entry 76). -/
def State.putLine (t : Nat) (b : Superblock) (i : Nat) (l : Line) (s : State) : State :=
  s.updTile t (fun tl => { tl with
    l1 := tl.l1.map (fun c => if c.tag == b.tag && c.asid == b.asid then c.setLine i l else c)
    dirty := tl.dirty.filter (· != b.pa / 64 + i) })

/-- Tile `t` writes back and invalidates line `i` of its superblock `b`, whatever the other tiles hold. -/
def State.purge (t : Nat) (b : Superblock) (i : Nat) (s : State) : State :=
  (writeBack (b.pa + 64 * i) (vget b.lines i) s).putLine t b i Line.empty

/-- The four tiles of the router that holds slice `r` (R400). -/
def tilesOfRouter (r : Nat) : List Nat :=
  let x := r % 32
  let y := r / 32
  let base := (x / 8 + 4 * (y / 8)) * 256 + 4 * ((y % 8) * 8 + x % 8)
  [base, base + 1, base + 2, base + 3]

/-- Before the line of place `pa` is written at its home, the copies that the tiles of the home's router hold go, written back where
dirty: the slice's reverse map names them (R138, R147, R312). Tile `skip` is left out. -/
def State.clearCopies (skip : Option Nat) (pa : Nat) (s : State) : State :=
  ((tilesOfRouter (homeSlice (pa % 2 ^ 46))).filter (fun t => some t != skip)).foldl (fun s t =>
    match s.holder t pa with
    | some b => s.purge t b (pa / 64 % 4)
    | none => s) s

/-- Tile `t` writes back and invalidates line `i` of its superblock `b`; a dirty line's write at its home clears the other copies there
(R138, R312). -/
def State.flushIn (t : Nat) (b : Superblock) (i : Nat) (s : State) : State :=
  (if (vget b.lines i).dirty then s.clearCopies (some t) (b.pa + 64 * i) else s).purge t b i

/-- Tile `t` writes back and invalidates its copy of the physical line of place `pa` (R138). -/
def State.flushLine (t pa : Nat) (s : State) : State :=
  match s.holder t pa with
  | some b => s.flushIn t b (pa / 64 % 4)
  | none => s

/-- The places of the lines that `n` bytes from `pa` meet. -/
def linesOf (pa n : Nat) : List Nat :=
  if n = 0 then [] else (List.range ((pa + n - 1) / 64 + 1 - pa / 64)).map (fun k => 64 * (pa / 64 + k))

/-- A write of `bs` performed at its home, after the copies of every line it meets are cleared (R138, R147, R312). -/
def State.homeWrite (pa : Nat) (bs : List Byte) (s : State) : State :=
  ((linesOf pa bs.length).foldl (fun s p => s.clearCopies none p) s).poke pa bs

/-- A read at the home of the line of place `pa` corrects and counts the single-bit errors that it meets (R154). -/
def State.correctLine (pa : Nat) (s : State) : State :=
  let ws := s.latent.filter (fun w => w / 8 == pa / 64)
  if ws.isEmpty then s else { s with latent := s.latent.filter (fun w => w / 8 != pa / 64), corrected := s.corrected + ws.length }

/-- A read at the homes of `n` bytes from place `pa` (R154). -/
def State.correctRange (pa n : Nat) (s : State) : State :=
  if s.latent.isEmpty then s else (linesOf pa n).foldl (fun s p => s.correctLine p) s

/-- The line at place `pa` as its home holds it. -/
def State.homeLine (s : State) (pa : Nat) : Line :=
  let base := pa / 64 * 64
  ⟨true, BitVec.ofNat 512 (leNat (s.peek base 64)), 0,
   BitVec.ofNat 64 ((List.range 8).foldl (fun acc w =>
     if s.poison.contains (base / 8 + w) then acc + 255 * 2 ^ (8 * w) else acc) 0)⟩

/-- Tile `t` writes back the dirty line of place `pa`, which stays valid and clean (R137). Where the home is the tile's own slice the line
then holds what its home holds, since another tile's bytes may have been written back there with it (R312). -/
def State.cleanLine (t pa : Nat) (s : State) : State :=
  match s.holder t pa with
  | none => s
  | some b =>
    let i := pa / 64 % 4
    let l := vget b.lines i
    if l.dirty then
      let s := writeBack (b.pa + 64 * i) l (s.clearCopies (some t) pa)
      if homeSlice (pa % 2 ^ 46) == routerOf t then
        let s := s.correctLine pa
        s.putLine t b i (s.homeLine pa)
      else s.putLine t b i { l with stored := 0 }
    else s.putLine t b i l

/-- The dirty FIFO of tile `t` drained in its order: what a release at `.cp` or wider waits for (R312). -/
def State.drain (t : Nat) (s : State) : State :=
  (s.tile t).dirty.foldl (fun s ln => s.cleanLine t (64 * ln)) s

/-- The acquire at `.cp` or wider: every line whose home is not the slice of the tile's own router is written back and invalidated
(R312). -/
def State.dropForeign (t : Nat) (s : State) : State :=
  (s.tile t).l1.foldl (fun s b =>
    if homeSlice (b.pa % 2 ^ 46) == routerOf t then s
    else (List.range 4).foldl (fun s i => if (vget b.lines i).valid then s.flushIn t b i else s) s) s

/-- Superblock `b` leaves tile `t`: its dirty lines go to their homes and its FIFO entries are skipped (R137). -/
def State.evict (t : Nat) (b : Superblock) (s : State) : State :=
  let s := (List.range 4).foldl (fun s i => if (vget b.lines i).valid then s.flushIn t b i else s) s
  s.updTile t (fun tl => { tl with l1 := tl.l1.filter (fun c => !(c.tag == b.tag && c.asid == b.asid)) })

/-- The superblocks in ways 4 to 9 of tile `t` are written back and invalidated before the windows turn on (R135). -/
def State.trimWays (t : Nat) (s : State) : State :=
  if s.windowsOn then ((s.tile t).l1.filter (fun b => decide (4 ≤ b.way))).foldl (fun s b => s.evict t b) s else s

/-- The superblock of a virtual address in tile `t`, if present (R135). -/
def State.superblock (s : State) (t : Nat) (asid : BitVec 12) (va : Nat) : Option Superblock :=
  (s.tile t).l1.find? (fun b => b.tag == va / 256 && b.asid == asid)

/-- The superblock moves to the front of the use order of tile `t` (R135; the order is the model's, log entry 12). -/
def State.touch (t : Nat) (b : Superblock) (s : State) : State :=
  s.updTile t (fun tl => { tl with l1 := b :: tl.l1.filter (fun c => !(c.tag == b.tag && c.asid == b.asid)) })

/-- A superblock for `va` allocated in tile `t`, one that an older mapping filled leaving first and the least recently used of a full set leaving first; ways 4 to 9 do not cache while
the windows are on (R135). -/
def State.allocate (t : Nat) (asid : BitVec 12) (va pa : Nat) (wr sup : Bool) (s : State) : State :=
  let s := match s.superblock t asid va with
    | some b => if b.pa = pa / 256 * 256 then s else s.evict t b
    | none => s
  match s.superblock t asid va with
  | some b => s.touch t { b with wr := wr, sup := sup }
  | none =>
    let ways := if s.windowsOn then 4 else 10
    let inSet := (s.tile t).l1.filter (fun c => c.tag % 128 == va / 256 % 128)
    let s := if inSet.length < ways then s else
      match inSet.getLast? with
      | some v => s.evict t v
      | none => s
    let used := (((s.tile t).l1.filter (fun c => c.tag % 128 == va / 256 % 128)).map (·.way))
    let way := ((List.range ways).find? (fun w => !used.contains w)).getD 0
    s.touch t ⟨va / 256, asid, pa / 256 * 256, way, true, wr, sup, Vector.replicate 4 Line.empty⟩

/-- The line of `va` filled in tile `t` from its home, the copy under another virtual tag going first (R136 to R138). -/
def State.fill (t : Nat) (asid : BitVec 12) (va pa : Nat) (wr sup : Bool) (s : State) : State :=
  let s := match s.holder t pa with
    | some b => if b.tag == va / 256 && b.asid == asid then s else s.flushLine t pa
    | none => s
  let s := s.allocate t asid va pa wr sup
  match s.superblock t asid va with
  | some b =>
    if (vget b.lines (va / 64 % 4)).valid then s
    else
      let s := s.correctLine pa
      s.touch t (b.setLine (va / 64 % 4) (s.homeLine pa))
  | none => s

/-- The line of `va` in tile `t` when it is present and the thread may use it without a translation (R136). -/
def State.hit (s : State) (t : Nat) (asid : BitVec 12) (va : Nat) (store inSup : Bool) : Option (Superblock × Line) :=
  match s.superblock t asid va with
  | some b =>
    let l := vget b.lines (va / 64 % 4)
    if l.valid && (!store || b.wr) && (!b.sup || inSup) then some (b, l) else none
  | none => none

/-- The `n` bytes of a valid line from `va` up. -/
def Line.bytes (l : Line) (va n : Nat) : List Byte := (List.range n).map (fun k => l.byte (va % 64 + k))

/-- The first poisoned byte of a line among `n` from `va`. -/
def Line.bad (l : Line) (va n : Nat) : Option Nat :=
  ((List.range n).find? (fun k => l.poison.getLsbD (va % 64 + k))).map (fun k => va + k)

/-- `bs` stored into the line of `va`, which tile `t` holds: the line enters the dirty FIFO, whose oldest line goes home when it is
full (R137). -/
def State.storeLine (t : Nat) (asid : BitVec 12) (va : Nat) (bs : List Byte) (s : State) : State :=
  match s.superblock t asid va with
  | none => s
  | some b =>
    let i := va / 64 % 4
    let l := ((vget b.lines i).putN (va % 64) bs).cleanse (va % 64) bs.length
    let ln := b.pa / 64 + i
    let s := s.touch t (b.setLine i l)
    if (s.tile t).dirty.contains ln then s
    else
      let s := s.updTile t (fun tl => { tl with dirty := tl.dirty ++ [ln] })
      if (s.tile t).dirty.length ≤ Config.fifoEntries then s
      else match (s.tile t).dirty with
        | old :: _ => s.cleanLine t (64 * old)
        | [] => s

/-! ### Translation -/

/-- A page-table entry, malformed where R141 says so. `level` is 1, 2 or 3. -/
def pteMalformed (level : Nat) (e : Word) : Bool :=
  let n := e.toNat
  let tbl := e.getLsbD 1
  let psz := bitsOf n 6 5
  let mk := bitsOf n 9 8
  if tbl then bitsOf n 63 46 != 0 || bitsOf n 13 2 != 0 || level == 3
  else
    bitsOf n 63 46 != 0 || bitsOf n 15 10 != 0 || mk == 3 || psz == 3 || level == 1 ||
    (level == 2 && psz != 2) || (level == 3 && psz == 2) || (e.getLsbD 3 && !e.getLsbD 2) ||
    (mk == 2 && (0x100000 ≤ bitsOf n 45 16 * 65536 || psz != 0 || e.getLsbD 4))

/-- The page-table entry at physical address `pa`, as its home holds it (R143). -/
def State.pte (s : State) (pa : Nat) : Word := BitVec.ofNat 64 (leNat (s.peek pa 8))

/-- The leaf entry of `va` as a translation; its physical base is aligned down to the page (R142). -/
def leafOf (asid : BitVec 12) (va : Nat) (e : Word) : TlbEntry :=
  let size := match bitsOf e.toNat 6 5 with
    | 0 => 0x10000
    | 1 => 0x200000
    | _ => 0x40000000
  let mk := bitsOf e.toNat 9 8
  let pa := bitsOf e.toNat 45 16 * 65536 / size * size
  ⟨asid, va / size * size, size, pa, mk, e.getLsbD 7, e.getLsbD 4, e.getLsbD 3, e.getLsbD 2⟩

/-- The three-level walk from the level-1 table at `root` (R140 to R142); none where it meets an entry that is not valid or is
malformed. A poisoned entry is used as its bytes stand (log entry 73). -/
def State.walk (s : State) (asid : BitVec 12) (root va : Nat) : Option TlbEntry :=
  let e1 := s.pte (root + 8 * bitsOf va 48 38)
  if !e1.getLsbD 0 || pteMalformed 1 e1 then none
  else
    let e2 := s.pte (bitsOf e1.toNat 45 14 * 16384 + 8 * bitsOf va 37 27)
    if !e2.getLsbD 0 || pteMalformed 2 e2 then none
    else if !e2.getLsbD 1 then some (leafOf asid va e2)
    else
      let e3 := s.pte (bitsOf e2.toNat 45 14 * 16384 + 8 * bitsOf va 26 16)
      if !e3.getLsbD 0 || pteMalformed 3 e3 then none else some (leafOf asid va e3)

/-- The places of the entries that a walk for `va` may read. -/
def State.walkPlaces (s : State) (root va : Nat) : List Nat :=
  let a1 := root + 8 * bitsOf va 48 38
  let a2 := bitsOf (s.pte a1).toNat 45 14 * 16384 + 8 * bitsOf va 37 27
  [a1, a2, bitsOf (s.pte a2).toNat 45 14 * 16384 + 8 * bitsOf va 26 16]

/-- How many of them it reads: it stops at an entry that is not valid or malformed, and at a leaf (R140, R141). -/
def State.walkDepth (s : State) (root va : Nat) : Nat :=
  match (s.walkPlaces root va).map s.pte with
  | [e1, e2, _] =>
    if !e1.getLsbD 0 || pteMalformed 1 e1 then 1 else if !e2.getLsbD 0 || pteMalformed 2 e2 || !e2.getLsbD 1 then 2 else 3
  | _ => 0

/-- The entries that a walk for `va` reads at their homes are corrected (R143, R154). -/
def State.walkSeen (root va : Nat) (s : State) : State :=
  if s.latent.isEmpty then s
  else ((s.walkPlaces root va).take (s.walkDepth root va)).foldl (fun s p => s.correctLine p) s

/-- The translation of `va` in tile `t`: the edge TLB, else a walk that fills it (R143; the oldest entry leaves a full TLB, log
entry 12). -/
def State.translate (t va : Nat) (s : State) : Option TlbEntry × State :=
  match (s.tile t).tlb.find? (fun e => e.asid == s.ctx.asid && decide (e.va ≤ va) && decide (va < e.va + e.size)) with
  | some e => (some e, s)
  | none =>
    let s := s.walkSeen s.ctx.root va
    match s.walk s.ctx.asid s.ctx.root va with
    | some e => (some e, s.updTile t (fun tl => { tl with tlb := (e :: tl.tlb).take Config.tlbEntries }))
    | none => (none, s)

/-- The place of `va` through translation `e` (R142, R381); none for a GDDR 7 address at or above 186 GiB. -/
def TlbEntry.place (e : TlbEntry) (va : Nat) : Option Place :=
  let pa := e.pa + (va - e.va)
  match e.kind with
  | 0 => if pa < Config.gddrBytes then some (.phys pa) else none
  | 1 => some (.phys (hostPlace pa))
  | _ => some (.ctl pa)

end Sys2Proof.Machine
end

