-- ==== Sys2Proof/Machine/Ops.lean ====
section
/-! DEFINITION. The named operations over the state: elements, sets and registers, tokens, messages, allotments, and taking an exception
(R345 to R348) with the return from one (R354) beside it. -/
namespace Sys2Proof.Machine

/-- `n` single-bit errors corrected in the SRAM of quad `q` (R154, R388). -/
def State.countFixes (q n : Nat) (s : State) : State :=
  if n = 0 then s
  else
    let x := Map.get Quad.start s.quads q
    { s with corrected := s.corrected + n, quads := Map.set q { x with corrections := x.corrections + n } s.quads }

/-! ### Elements, sets and registers -/

/-- Logical element `le`; one that nothing has changed stands as at context start (R165). -/
def State.el (s : State) (le : Nat) : Element :=
  (Map.find le s.ctx.elems).getD (Element.start s.ctx.jobseed s.ctx.ringBase le)

/-- The state with element `le` replaced. -/
def State.setEl (le : Nat) (e : Element) (s : State) : State :=
  { s with ctx := { s.ctx with elems := Map.set le e s.ctx.elems } }

/-- The state with element `le` changed by `f`. -/
def State.updEl (le : Nat) (f : Element → Element) (s : State) : State := s.setEl le (f (s.el le))

/-- Thread set `k` of element `le`. -/
def State.thOf (s : State) (le k : Nat) : ThreadSet := vget (s.el le).sets k

/-- The state with thread set `k` of element `le` changed by `f`. -/
def State.updThOf (le k : Nat) (f : ThreadSet → ThreadSet) (s : State) : State :=
  s.updEl le (fun e => { e with sets := vset e.sets k (f (vget e.sets k)) })

/-- The issuing thread set. -/
def State.th (s : State) : ThreadSet := s.thOf s.cur.1 s.cur.2

/-- The state with the issuing thread set changed by `f`. -/
def State.updTh (f : ThreadSet → ThreadSet) (s : State) : State := s.updThOf s.cur.1 s.cur.2 f

/-- The set runs the supervisor trap handler (R347). -/
def ThreadSet.inSup (t : ThreadSet) : Bool := t.run == .sup

/-- The bank in use: the second one in the supervisor trap handler (R347). -/
def ThreadSet.bank (t : ThreadSet) : Vector Word 32 := if t.inSup then t.sg else t.g

/-- `g[n]`: `g0` reads as zero (R34). -/
def ThreadSet.rg (t : ThreadSet) (n : RegNo) : Word := if n = 0 then 0 else rget t.bank n

/-- A register with its bank: only the g class has two (R347). -/
def RegKey.inBank (sup : Bool) : RegKey → Bool × RegKey
  | .g n => (sup, .g n)
  | k => (false, k)

/-- A write of a register recorded: it enters the operand log of the last 8 writes and mends the register's parity (R352). -/
def ThreadSet.logWrite (key : Bool × RegKey) (t : ThreadSet) : ThreadSet :=
  { t with oplog := (key :: t.oplog).take 8, badRegs := t.badRegs.filter (· != key) }

/-- `g[n] ← x` in the bank that `sup` names; `g0` discards (R34). -/
def ThreadSet.wgIn (sup : Bool) (n : RegNo) (x : Word) (t : ThreadSet) : ThreadSet :=
  if n = 0 then t
  else if sup then { t with sg := rset t.sg n x }.logWrite (true, .g n)
  else { t with g := rset t.g n x }.logWrite (false, .g n)

/-- `g[n] ← x` in the bank in use. -/
def ThreadSet.wg (n : RegNo) (x : Word) (t : ThreadSet) : ThreadSet := t.wgIn t.inSup n x

/-- `f[n] ← x` with its count. -/
def ThreadSet.wf (n : RegNo) (x : FReg) (t : ThreadSet) : ThreadSet := { t with f := rset t.f n x }.logWrite (false, .f n)

/-- `v[n] ← x` with its counts. -/
def ThreadSet.wv (n : RegNo) (x : VReg) (t : ThreadSet) : ThreadSet := { t with v := rset t.v n x }.logWrite (false, .v n)

/-- `g[n]` of the issuing set. -/
def State.rg (s : State) (n : RegNo) : Word := s.th.rg n

/-- `f[n]` of the issuing set. -/
def State.rf (s : State) (n : RegNo) : FReg := rget s.th.f n

/-- `v[n]` of the issuing set. -/
def State.rv (s : State) (n : RegNo) : VReg := rget s.th.v n

/-- `g[n] ← x` of the issuing set. -/
def State.wg (n : RegNo) (x : Word) (s : State) : State := s.updTh (·.wg n x)

/-- The activation of the issuing set; an unused one where it runs none. -/
def State.act (s : State) : Option Act := s.th.act

/-- An activation of nothing, for a set that runs none. -/
def Act.idle : Act := ⟨.message, 0, 0, 0, false, 0, 0, [], 0, 0, 0, 0, 0, 0, none, []⟩

/-- Set `k` is one of the allotment's. -/
def Allot.holds (a : Allot) (k : Nat) : Bool := decide (a.firstSet ≤ k) && decide (k < a.firstSet + a.nsets)

/-- The issuing set as the issuer of an engine command of number `id` (R151). -/
def State.issuer (s : State) (id : Nat) : Issuer :=
  let a := s.act.getD Act.idle
  ⟨id, s.cur.1, s.cur.2, a.allot, (((s.el s.cur.1).allots.find? (fun x => x.holds s.cur.2)).map (·.id)).getD 0, a.ttype, s.th.inSup, false⟩

/-- A fresh number. -/
def State.newId (s : State) : Nat × State := (s.nextId, { s with nextId := s.nextId + 1 })

/-- A fresh argument for a free value (log entry 4). -/
def State.freshFree (s : State) : Nat × State := (s.free, { s with free := s.free + 1 })

/-- The allotment that activity `a` of element `le` belongs to, if it still stands. -/
def State.allotOf (s : State) (le id : Nat) : Option Allot := (s.el le).allots.find? (fun a => a.id == id)

/-! ### The scoreboard and tokens (R145, R151) -/

/-- Register `key` of the issuing set is marked pending on operation `id`; `g0` is never pending (R34). -/
def State.mark (key : RegKey) (id : Nat) (s : State) : State :=
  if key = .g 0 then s
  else s.updTh (fun t => { t with pending := t.pending ++ [((key.inBank t.inSup).1, key, id)] })

/-- Operation `id` of set `k` of element `le` ends with `w` for its pending register: the write happens if the register still waits
for that operation, and is discarded if it was detached (R151). -/
def State.finish (le k id : Nat) (value : Word) (s : State) : State :=
  match (s.thOf le k).pending.find? (fun p => p.2.2 == id) with
  | some (sup, .g n, _) => s.updThOf le k (fun t =>
      { t with pending := t.pending.filter (fun p => p.2.2 != id) }.wgIn sup n value)
  | some _ => s.updThOf le k (fun t => { t with pending := t.pending.filter (fun p => p.2.2 != id) })
  | none => s

/-- The same for a load into an f register. -/
def State.finishF (le k id : Nat) (x : FReg) (s : State) : State :=
  match (s.thOf le k).pending.find? (fun p => p.2.2 == id) with
  | some (_, .f n, _) => s.updThOf le k (fun t => { t with pending := t.pending.filter (fun p => p.2.2 != id) }.wf n x)
  | _ => s

/-- The same for a load into a v register. -/
def State.finishV (le k id : Nat) (x : VReg) (s : State) : State :=
  match (s.thOf le k).pending.find? (fun p => p.2.2 == id) with
  | some (_, .v n, _) => s.updThOf le k (fun t => { t with pending := t.pending.filter (fun p => p.2.2 != id) }.wv n x)
  | _ => s

/-- A token's error value (R151). -/
def tokErr (code : Nat) : Word := BitVec.ofNat 64 (2 ^ 63 + code)

/-- The token of command `who` is written (R151). -/
def State.token (who : Issuer) (value : Word) (s : State) : State := s.finish who.le who.set who.id value

/-- The pending tokens of a set are detached (R151); the destinations of its outstanding loads stay pending. -/
def detach (e : Element) (t : ThreadSet) : ThreadSet :=
  { t with
    pending := t.pending.filter (fun p => e.ops.any (fun o => o.id == p.2.2))
    barTok := []
    fences := t.fences }

/-! ### Messages (R174 to R177) -/

/-- A header word (R174). -/
def mkHeader (seq : Nat) (cnt : Nat) (dev : Bool) (rel : Option Scope) (le chan : Nat) (pri : Bool) : Word :=
  BitVec.ofNat 64 ((seq % 2 ^ 24) * 2 ^ 40 + (cnt % 16) * 2 ^ 36 + dev.toNat * 2 ^ 35 +
    (match rel with
     | some sc => 2 ^ 34 + sc.rank * 2 ^ 31
     | none => 0) + (le % 2 ^ 18) * 64 + (chan % 32) * 2 + pri.toNat)

/-- Field `chan` of a header (R174). -/
def hdrChan (h : Word) : Nat := bitsOf h.toNat 5 1
/-- Field `pri` of a header (R174). -/
def hdrPri (h : Word) : Bool := h.getLsbD 0
/-- Field `rel` of a header (R174). -/
def hdrRel (h : Word) : Bool := h.getLsbD 34
/-- Field `scope` of a header (R174). -/
def hdrScope (h : Word) : Nat := bitsOf h.toNat 33 31
/-- Field `cnt` of a header (R174). -/
def hdrCnt (h : Word) : Nat := bitsOf h.toNat 39 36

/-- A request enters the mesh. -/
def State.launchFlight (f : Flight) (s : State) : State :=
  { s with nextId := s.nextId + 1, ctx := { s.ctx with flights := s.ctx.flights ++ [(s.nextId, f)] } }

/-- The request `k` leaves the mesh. -/
def State.dropFlight (k : Nat) (s : State) : State :=
  { s with ctx := { s.ctx with flights := s.ctx.flights.filter (fun e => e.1 != k) } }

/-- The place of a global virtual address that the partition's own units read with the rights of an ordinary thread (R219): the
page must have `rd` and must not have `sup`. The error is the cause (R144). -/
def State.unitPlace (s : State) (va : Nat) : Except Nat Place :=
  if va < 0x10000000000 || 0x20000000000 ≤ va then .error 0x07
  else match s.walk s.ctx.asid s.ctx.root va with
    | none => .error 0x05
    | some e =>
      if !e.rd || e.sup then .error 0x07
      else match e.place va with
        | some p => .ok p
        | none => .error 0x07

/-- The `n` bytes at a global virtual address as the partition's own units read them, at their homes; the error is the cause. -/
def State.unitRead (s : State) (va n : Nat) : Except Nat (List Byte) :=
  if n = 0 then .ok []
  else if va / 65536 = (va + n - 1) / 65536 then
    match s.unitPlace va with
    | .ok (.phys pa) => if (firstPoison s.poison pa n).isSome then .error 0x0F else .ok (s.peek pa n)
    | .ok _ => .error 0x07
    | .error c => .error c
  else (List.range n).foldl (fun acc k =>
    match acc with
    | .error c => .error c
    | .ok bs =>
      match s.unitPlace (va + k) with
      | .ok (.phys pa) => if (firstPoison s.poison pa 1).isSome then .error 0x0F else .ok (bs ++ s.peek pa 1)
      | .ok _ => .error 0x07
      | .error c => .error c) (.ok [])

/-- What such a read meets at the homes is corrected: the entries of its walks and its lines (R154). -/
def State.unitSeen (va n : Nat) (s : State) : State :=
  if s.latent.isEmpty then s
  else (linesOf va n).foldl (fun s a =>
    let s := s.walkSeen s.ctx.root a
    match s.unitPlace a with
    | .ok (.phys pa) => s.correctLine pa
    | _ => s) s

/-- Splits a list of bytes into little-endian numbers of `n` bytes. -/
def leWords (n : Nat) : Nat → List Byte → List Nat
  | 0, _ => []
  | k + 1, bs => leNat (bs.take n) :: leWords n k (bs.drop n)

/-- The member list of group `g` (R103); empty where the table gives none or cannot be read. -/
def State.members (s : State) (g : Nat) : List Nat :=
  match s.unitRead (s.ctx.gtab + 16 * g) 16 with
  | .ok bs =>
    let va := leNat (bs.take 8)
    let n := leNat ((bs.drop 8).take 4)
    match s.unitRead va (4 * n) with
    | .ok ms => leWords 4 n ms
    | .error _ => []
  | .error _ => []

/-- The group's entry and member list have been read at their homes (R154). -/
def State.membersSeen (g : Nat) (s : State) : State :=
  let s := s.unitSeen (s.ctx.gtab + 16 * g) 16
  match s.unitRead (s.ctx.gtab + 16 * g) 16 with
  | .ok bs => s.unitSeen (leNat (bs.take 8)) (4 * leNat ((bs.drop 8).take 4))
  | .error _ => s

/-- A message leaves element `src` (R176): one copy, or one to each member of its group in list order (R341). -/
def State.depart (src : Nat) (o : OutMsg) (s : State) : State :=
  match o with
  | .one dst m => s.launchFlight (.msg src dst m)
  | .group g m => (s.members g).foldl (fun s dst => s.launchFlight (.msg src dst m)) (s.membersSeen g)

/-- The release of a set at scope `sc` (R308, R312): at `.cp` or wider its tile's dirty lines go home. -/
def State.release (le : Nat) (sc : Scope) (s : State) : State :=
  if 3 ≤ sc.rank then s.drain (s.tileOf le) else s

/-- The acquire of a set at scope `sc` (R309, R312): at `.cp` or wider its tile drops the lines of other homes. -/
def State.acquire (le : Nat) (sc : Scope) (s : State) : State :=
  if 3 ≤ sc.rank then s.dropForeign (s.tileOf le) else s

/-- The scope of an outgoing message sent with `.rel`. -/
def OutMsg.relScope (o : OutMsg) : Option Nat :=
  let h := match o with
    | .one _ m => m.header
    | .group _ m => m.header
  if hdrRel h then some (hdrScope h) else none

/-- A message leaves with its release, if it carries one (R183, R341). -/
def State.departRel (src : Nat) (o : OutMsg) (s : State) : State :=
  let s := match o.relScope with
    | some sc => if 3 ≤ sc then s.drain (s.tileOf src) else s
    | none => s
  s.depart src o

/-- The set sends as each instruction retires: a spawned thread or the supervisor trap handler (R175, R347). -/
def ThreadSet.unbuffered (t : ThreadSet) : Bool :=
  t.inSup || (match t.act with | some a => a.kind == .spawn | none => false)

/-- A message appended to the send buffer of the issuing set, or sent at once (R175); either way `sndctr` counts it. -/
def State.append (o : OutMsg) (s : State) : State :=
  let s := s.updTh (fun t => { t with sndctr := t.sndctr + 1, pend := [] })
  if s.th.unbuffered then s.departRel s.cur.1 o
  else s.updTh (fun t => { t with sendBuf := t.sendBuf ++ [o] })

/-! ### The ready ring (R120) -/

/-- Entries held. -/
def Element.ringCnt (e : Element) : Nat := e.ringStamps.length

/-- The place of ring entry `i` of element `le`. -/
def ringPlace (e : Element) (le i : Nat) : Nat := locPlace le (e.ringBase.toNat + 8 * (i % 64))

/-- The idle count of the tile of element `le` starts again (R121). -/
def State.noteBusy (le : Nat) (s : State) : State := s.updTile (s.tileOf le) (fun tl => { tl with idleFrom := s.tick })

/-- An address pushed onto the ring of element `le` with a stamp; none where the ring refuses (R120). -/
def State.ringPush (le : Nat) (addr : Word) (s : State) : Option State :=
  let e := s.el le
  if e.ringEn && e.ringCnt + e.ringRsv < Config.ringPlaces then
    let s := (s.noteBusy le).poke (ringPlace e le (e.ringHead + e.ringCnt)) (leBytes 8 addr.toNat)
    some (s.updEl le (fun e => { e with ringStamps := e.ringStamps ++ [e.arrivals], arrivals := e.arrivals + 1 }))
  else none

/-! ### Pins (R226) -/

/-- The `csub` pins of a set are released. -/
def State.dropSubPins (le k : Nat) (s : State) : State :=
  s.updTile (s.tileOf le) (fun tl => { tl with
    bufs := tl.bufs.map (fun b => { b with subPins := b.subPins.filter (· != (le, k)) }) })

/-- The pass pin of the message with stamp `st` is released. -/
def State.dropPassPin (le st : Nat) (s : State) : State :=
  s.updTile (s.tileOf le) (fun tl => { tl with
    bufs := tl.bufs.map (fun b => { b with passPins := b.passPins.filter (· != (le, st)) }) })

/-- How a pass that is on its way stands among the pins: by the number of its request. -/
def passKey (k : Nat) : Nat := 2 ^ 62 + k

/-- The pass with request number `k` has been stamped `st` at element `le`: its pin goes by the stamp. -/
def State.repin (le k st : Nat) (s : State) : State :=
  s.updTile (s.tileOf le) (fun tl => { tl with
    bufs := tl.bufs.map (fun b => { b with passPins := b.passPins.map (fun p => if p = (le, passKey k) then (le, st) else p) }) })

/-! ### Selection (R166) -/

/-- The allotment of the issuing task type on a target element (R116, R129): the first, where it holds two (log entry 73). -/
def State.allotOfType (s : State) (le ttype : Nat) : Option Allot := (s.el le).allots.find? (fun a => a.ttype == ttype)

/-- The lowest free set of an allotment (R163), for a spawned thread too (R116 names none; log entry 77). -/
def State.freeSetOf (s : State) (le : Nat) (a : Allot) : Option Nat :=
  ((List.range a.nsets).map (a.firstSet + ·)).find? (fun k => (s.thOf le k).run == .free)

/-- The allotment whose sets run an activation of a task type: of all its allotments on the element, the one with the type's lowest free set (R163,
R167); the first where the type has none free. -/
def State.allotToRun (s : State) (le ttype : Nat) : Option Allot :=
  match (List.range 4).findSome? (fun k => if (s.thOf le k).run == .free then
      (s.el le).allots.find? (fun a => a.ttype == ttype && a.holds k) else none) with
  | some a => some a
  | none => s.allotOfType le ttype

/-- The allotment whose set runs a message of channel 0: any of its task type with a free one (R167); a launch message takes a set of its own where one
is free (log entry 74). -/
def State.allotFor (s : State) (le : Nat) (m : Msg) : Option Allot :=
  match m.kind with
  | .launch t _ _ _ id =>
    match s.allotOf le id with
    | some a => if (s.freeSetOf le a).isSome then some a else s.allotToRun le t
    | none => none
  | .call t _ _ _ _ => s.allotToRun le t
  | _ => none

/-- The task type of a message of channel 0. -/
def Msg.ttype (m : Msg) : Nat :=
  match m.kind with
  | .launch t _ _ _ _ => t
  | .call t _ _ _ _ => t
  | _ => 0

/-- The oldest message of channel 0 that a free set can run, among messages in order of arrival; those of a task type whose oldest finds none
wait behind it, and no others (R167). `held` holds such task types. -/
def State.oldestReady (s : State) (le : Nat) : List Nat → List QMsg → Option (Nat × Option QMsg)
  | _, [] => none
  | held, q :: qs =>
    if q.taken || hdrChan q.msg.header != 0 || held.contains q.msg.ttype then s.oldestReady le held qs
    else match (s.allotFor le q.msg).bind (s.freeSetOf le) with
      | some k => some (k, some q)
      | none => s.oldestReady le (q.msg.ttype :: held) qs

/-- The owner of a channel on an element. -/
def State.ownerOf (s : State) (le ch : Nat) : Option Allot :=
  ((Map.find ch (s.el le).handlers).bind (·.owner)).bind (s.allotOf le)

/-- A record that arrived after the merge-out marker of its priority is not dispatched (R331). -/
def Stage.pastMarker (st : Stage) (q : QMsg) : Bool :=
  st.markers.any (fun m => m.1 == hdrPri q.msg.header && decide (m.2 ≤ q.stamp))

/-- The operation stores into local memory of element `le`, through whatever window (R130). -/
def MemOp.storesIn (o : MemOp) (le : Nat) : Bool :=
  let here := fun (p : Place) => match p with
    | .loc m _ => m == le
    | _ => false
  (match o.kind with
    | .store _ | .stl _ _ | .stv _ _ | .vrst _ | .atom _ _ _ _ _ => true
    | _ => false) &&
  (here o.place || o.planes.any (fun q => match q with
    | some (_, t) => here t.place
    | none => false))

/-- A store of set `k`, or a decrement of a counter, into the local memory of its element `le` is outstanding, of those numbered below `id`. -/
def State.storesLeft (s : State) (le k id : Nat) : Bool :=
  (s.el le).ops.any (fun o => o.set == k && decide (o.id < id) && o.storesIn le) ||
  s.ctx.flights.any (fun f => match f.2 with
    | .rdec w owner _ => w.le == le && owner == le && w.set == k && decide (w.id < id)
    | _ => false)

/-- An ended activation of channel `ch` has a store into the element's local memory outstanding: the next activation of a stateful channel, and a
split or merge of it, starts after it, for it sees the state that the first left (R333). -/
def State.trails (s : State) (le ch : Nat) : Bool :=
  (s.el le).trailing.any (fun x => x.1 == ch && s.storesLeft le x.2.1 x.2.2)

/-- The record may not be dispatched: it came after the merge-out marker of its own priority (R331). -/
def pastMarkers (st : Option Stage) (q : QMsg) : Bool :=
  match st with
  | some st => st.pastMarker q
  | none => false

/-- The set and message that channel `ch` would be dispatched with in class `cls` (true for class 1), if it is runnable (R166, R167,
R325, R330, R331, R333); no message for the ready ring. -/
def State.candidate (s : State) (le : Nat) (cls : Bool) (ch : Nat) : Option (Nat × Option QMsg) :=
  let e := s.el le
  if e.mask.getLsbD ch then none
  else if ch = 0 then
    if cls then none
    else s.oldestReady le [] e.inb
  else
    let here := fun (q : QMsg) => hdrChan q.msg.header == ch
    let busy := ch != 1 && e.inb.any (fun q => here q && q.taken)
    let next := e.inb.find? (fun q => here q && !q.taken && !q.held && (decide (30 ≤ ch) || !pastMarkers (Map.find ch e.stages) q))
    if busy then none
    else if 30 ≤ ch then
      if cls then none
      else match next with
        | some q =>
          let c := match q.msg.kind with
            | .split c _ _ _ _ => c
            | .merge _ c _ _ _ => c
            | _ => 0
          if s.trails le c then none else ((s.ownerOf le c).bind (s.freeSetOf le)).map (fun k => (k, some q))
        | none => none
    else match Map.find ch e.handlers with
      | none => none
      | some h =>
        if h.hpc = 0 || h.prio != cls then none
        else
          let set := if cls then (if (s.thOf le 3).run == .free then some 3 else none) else (s.ownerOf le ch).bind (s.freeSetOf le)
          if ch = 1 then
            if 0 < e.ringCnt then set.map (fun k => (k, none)) else none
          else
            let st := Map.find ch e.stages
            let hold := match st with
              | some st => (match st.op with
                | some o => o.isClone
                | none => false)
              | none => false
            if hold || (h.stateful && s.trails le ch) then none else next.bind (fun q => set.map (fun k => (k, some q)))

/-- The element has a runnable channel (R166). -/
def State.runnable (s : State) (le : Nat) : Bool :=
  (List.range 32).any (fun ch => (s.candidate le false ch).isSome || (s.candidate le true ch).isSome)

/-- A channel of element `le` that is runnable now, or its ready ring that holds an entry, restarts the tile's idle count where it may be so no
longer (R121). -/
def State.noteRunnable (le : Nat) (s : State) : State := if s.runnable le || decide (0 < (s.el le).ringCnt) then s.noteBusy le else s

/-! ### Allotments and stages -/

/-- The handler entry of channel `ch` removed, with its mask bit (R93, R95). -/
def Element.unbind (ch : Nat) (e : Element) : Element :=
  { e with handlers := Map.drop ch e.handlers, mask := e.mask &&& ~~~((1 : BitVec 32) <<< ch) }

/-- Channel `ch` has an entry that allotment `id` owns. -/
def Element.owns (id ch : Nat) (e : Element) : Bool := (Map.find ch e.handlers).any (fun h => h.owner == some id)

/-- The dispatcher of the chiplet of element `le` has a retry due (R113, R377). -/
def State.noteReleased (le : Nat) (s : State) : State :=
  if s.ctx.released.contains (s.chipletOf le) then s else { s with ctx := { s.ctx with released := s.ctx.released ++ [s.chipletOf le] } }

/-- Allotment `id` of element `le` released: its memory and sets are free and its entries removed, and the dispatcher of its chiplet tries again what
waits there (R113, R377; `State.atOnce`). A channel of it that was runnable till then restarts the tile's idle count (R121). -/
def State.releaseAllot (le id : Nat) (s : State) : State :=
  match s.allotOf le id with
  | none => s
  | some a =>
    let s := (s.noteRunnable le).noteReleased le
    s.updEl le (fun e =>
      let e := a.chans.foldl (fun e ch => if e.owns id ch then { e.unbind ch with stages := Map.drop ch e.stages } else e) e
      { e with
        allots := e.allots.filter (fun x => x.id != id)
        subOwners := e.subOwners.filter (fun o => o.2.2 != id) })

/-- The twin allotment of the stage on channel `ch` of home `home` that element `le` holds. -/
def State.twinAllot (s : State) (le home ch : Nat) : Option Allot :=
  (s.el le).allots.find? (fun a => a.twinOf == some home && a.chans.contains ch)

/-- The home's clone in progress on `ch` is abandoned: the table is as before, the donor's reservation is released, and the token
ends with error 0x3C (R326). -/
def State.abandonClone (le ch : Nat) (s : State) : State :=
  match Map.find ch (s.el le).stages with
  | some st =>
    match st.op with
    | some o =>
      if o.isClone then
        let s := match s.twinAllot o.partner le ch with
          | some a => s.releaseAllot o.partner a.id
          | none => s
        let s := s.updEl le (fun e => { e with
          stages := Map.set ch { st with op := none, krt := st.krt.map (fun k => { k with kst := if k.kst = 1 then 0 else k.kst }) } e.stages })
        match o.token with
        | some (k, id) => s.finish le k id (tokErr 0x3C)
        | none => s
      else s
    | none => s
  | none => s

/-- The 64-bit timebase (R6, R15): the ticks counted since power good, modulo 2^64. -/
def State.timebase (s : State) : Word := BitVec.ofNat 64 s.tick

/-! ### The event log and halts (R367, R380) -/

/-- An event enters the mailbox log, which keeps the newest 30 (R380). -/
def State.logEvent (a b c : Word) (s : State) : State :=
  { s with mailbox := { s.mailbox with
      log := (s.mailbox.log ++ [(a, b, c)]).drop (s.mailbox.log.length + 1 - Config.eventLogPlaces) } }

/-- The context is halted: its partition stops with no resume scheduled, and the event log says so (R367). -/
def State.halt (a b c : Word) (s : State) : State :=
  { s with ctx := { s.ctx with halted := true, stopped := true, calm := none } }.logEvent a b c

/-- The partition stops; a context with a double trap is halted there, which the event log says (R357, R367, R380). -/
def State.stopAll (s : State) : State :=
  if s.ctx.halting.isEmpty || s.ctx.halted then { s with ctx := { s.ctx with stopped := true, calm := none } }
  else s.halt (s.ctx.ctxid.setWidth 64) 0 0

/-- A double trap (R348): the event log names its cause, `tepc` and `tval`, and the context is to be halted at its next calm point (R357, R367), or at once where
the partition stands stopped, which is at one; the set issues nothing more. -/
def State.doubleTrap (le k : Nat) (cause pc tval : Word) (s : State) : State :=
  let t := { s with ctx := { s.ctx with halting := s.ctx.halting ++ [(le, k)] } }.logEvent cause pc tval
  if s.ctx.stopped && !s.ctx.halted then t.halt (s.ctx.ctxid.setWidth 64) 0 0 else t

/-! ### Ending an activation -/

/-- The queue without a waiter. -/
def Fifo.without (w : Waiter) (q : Fifo) : Fifo :=
  { q with readers := q.readers.filter (· != w), writers := q.writers.filter (· != w) }

/-- A waiter gives up its places at the queues of element `le` and at both ends of its links (R180, R181). -/
def State.leaveQueues (le : Nat) (w : Waiter) (s : State) : State :=
  let s := s.updEl le (fun e => { e with queues := e.queues.map (·.without w), links := e.links.map (·.without w) })
  (List.range 4).foldl (fun s d => match s.neighbour le d with
    | some m =>
      if (s.el m).links.toList.any (fun q => q.writers.contains w) then s.updEl m (fun e => { e with links := e.links.map (·.without w) })
      else s
    | none => s) s

/-- The triggering message of an activation leaves its queue; a ring entry leaves its reserved place (R167, R120). -/
def State.consume (le : Nat) (a : Act) (s : State) : State :=
  match a.kind with
  | .spawn => s
  | .ring => s.updEl le (fun e => { e with ringRsv := e.ringRsv - 1 })
  | _ => s.updEl le (fun e => { e with inb := e.inb.filter (fun q => q.stamp != a.stamp) })

/-- The triggering message or ring entry of an aborted activation becomes eligible again at the head of its queue or ring (R167,
R120, R354). -/
def State.giveBack (le : Nat) (a : Act) (s : State) : State :=
  match a.kind with
  | .spawn | .split => s
  | .ring =>
    let e := s.el le
    let h := (e.ringHead + 63) % 64
    let s := s.poke (ringPlace e le h) (leBytes 8 a.codelet)
    s.updEl le (fun e => { e with ringHead := h, ringRsv := e.ringRsv - 1, ringStamps := a.stamp :: e.ringStamps })
  | _ => s.updEl le (fun e => { e with
      inb := e.inb.map (fun q => if q.stamp = a.stamp then { q with taken := false, returned := false } else q) })

/-- The outstanding operations of set `k` that its handler, or the supervisor's where `sup`, issued strike nothing more (R144). -/
def State.muteOps (le k : Nat) (sup : Bool) (s : State) : State :=
  s.updEl le (fun e => { e with ops := e.ops.map (fun o => if o.set == k && o.inSup == sup then { o with mute := true } else o) })

/-- The channel whose state an activation of a message works on: of a split, export or import that of its stage (R325, R331). -/
def Act.stateCh (a : Act) : Nat := if 30 ≤ a.chan then a.stageCh else a.chan

/-- The stores into local memory that the activation of set `k` leaves outstanding as it ends are noted with its channel (R333), and notes of stores that
have been performed since are dropped. -/
def State.noteTrailing (le k : Nat) (s : State) : State :=
  match (s.thOf le k).act with
  | some a =>
    if s.storesLeft le k s.nextId then s.updEl le (fun e => { e with
      trailing := e.trailing.filter (fun x => s.storesLeft le x.2.1 x.2.2) ++ [(a.stateCh, k, s.nextId)] })
    else s
  | none => s

/-- The set is free, and a guest state with it (R169, R349). -/
def State.freeSet (le k : Nat) (s : State) : State :=
  (((s.noteTrailing le k).muteOps le k false).muteOps le k true).updThOf le k (fun t => { t with
    run := .free, act := none, susp := none, frame := none, ending := none, yielded := false, waiting := none, blocked := [],
    sendBuf := [], pend := [], migrated := false })

/-- Steps 2 to 4 of R345 for a set's handler: send buffer and pending payload discarded, the message returned to the head of its
queue where it waits for the supervisor's end, `csub` pins released, tokens detached. A split's message is discarded and its clone
abandoned (R334). -/
def State.abortHandler (le k : Nat) (s : State) : State :=
  let e := s.el le
  let s := (s.muteOps le k false).updThOf le k (fun t => { detach e t with
    sendBuf := [], pend := [], susp := none, frame := none, waiting := none, blocked := [] })
  let s := (s.leaveQueues le (.set le k)).dropSubPins le k
  match (s.thOf le k).act with
  | some a =>
    match a.kind with
    | .split => (s.consume le a).abandonClone le a.stageCh
    | .spawn | .ring => s
    | _ => s.updEl le (fun e => { e with
        inb := e.inb.map (fun q => if q.stamp = a.stamp then { q with returned := true } else q) })
  | none => s

/-! ### Taking an exception and returning from it -/

/-- The resumable causes (R343). -/
def resumable (cause : Nat) : Bool := cause == 0x09 || cause == 0x0C || cause == 0x10

/-- Step 1 of R345: `tcause`, `tepc`, `tval`, `tmsg` and `tstat`; entering the supervisor clears `drop` (R344). -/
def ThreadSet.saveTrap (cause : Nat) (tval : Word) (t : ThreadSet) : ThreadSet :=
  { t with
    tcause := BitVec.ofNat 64 (cause + (resumable cause).toNat * 256 + t.frame.isSome.toNat * 512)
    tepc := t.pc &&& 0x0001FFFFFFFFFFFC
    tval := tval
    tmsg := (t.act.getD Act.idle).header
    tstat := match t.frame with
      | some fr => BitVec.ofNat 64 (fr.i % 64 * 4096 + fr.j % 16 * 256)
      | none => 0 }

/-- The supervisor trap handler starts on the same set at the context's trap entry (R347). -/
def State.startSup (le k : Nat) (s : State) : State :=
  s.updThOf le k (fun t => { t with
    run := .sup, pc := s.ctx.trapEntry, frame := none, sendBuf := [], pend := [], ending := none, waiting := none, blocked := [] })

/-- The pins of both of a set's activations are released (R226): the handler's and the supervisor's. -/
def State.dropAllPins (le k : Nat) (s : State) : State := (s.dropSubPins le k).dropSubPins le (k + 4)

/-- The end of the supervisor activation (R354): after a fault, or after an abort of the suspended handler, a returned message or ring
entry is removed if `tstat.drop` is set, else it becomes eligible again; the set is free. -/
def State.endSup (le k : Nat) (s : State) : State :=
  let t := s.thOf le k
  let s := match t.act with
    | some a =>
      if t.tstat.getLsbD 19 then
        match a.passPin with
        | some _ => (s.consume le a).dropPassPin le a.stamp
        | none => s.consume le a
      else s.giveBack le a
    | none => s
  let e := s.el le
  ((s.updThOf le k (detach e)).dropAllPins le k).freeSet le k

/-- What the runtime's own trap entry does (R391): it sets `tstat.drop` and ends the trap with `tret 2` (R354). -/
def State.ownReturn (le k : Nat) (s : State) : State :=
  let s := s.updThOf le k (fun t => { t with tstat := t.tstat ||| 0x80000 })
  (if (s.thOf le k).susp.isSome then s.abortHandler le k else s).endSup le k

/-- The supervisor trap handler is entered (R347), or the runtime's own entry acts in its place (R391). -/
def State.enterSup (le k : Nat) (s : State) : State :=
  let s := s.startSup le k
  if s.ctx.ownEntry then s.ownReturn le k else s

/-- Taking a trap of set `k` of element `le` with `cause` and `tval`: a double trap is reported and sends the context to its halt (R348), once, for
the set stands still then; a resumable trap suspends the handler, with the result a doldrums trap holds (R346, R84), and leaves it its places at queues (log entries 69
and 74); a fault aborts it (R345). -/
def State.trapAt (le k cause : Nat) (tval : Word) (held : Option HeldResult) (s : State) : State :=
  let t := s.thOf le k
  if t.inSup then
    if s.ctx.halting.contains (le, k) then s else s.doubleTrap le k (BitVec.ofNat 64 cause) t.pc tval
  else
    let s := s.updThOf le k (·.saveTrap cause tval)
    if resumable cause then
      let s := s.updThOf le k (fun t => { t with susp := some ⟨t.frame, t.sendBuf, t.pend, cause, held, t.pc, none⟩ })
      s.enterSup le k
    else
      (s.abortHandler le k).enterSup le k

/-- The outcome of a trap in the issuing set. -/
def State.trap (cause : Nat) (tval : Word) (s : State) : Host.Outcome State Fault Refusal :=
  .next (s.trapAt s.cur.1 s.cur.2 cause tval none)

/-- The step of a repeat frame after position j of replay i (R196): the next frame, or none with the address after the frame. -/
def Frame.step (fr : Frame) : Option Frame × Word :=
  if fr.j + 1 < fr.words.length then
    (some { fr with j := fr.j + 1 }, fr.start + 4 + BitVec.ofNat 64 (4 * (fr.j + 1)))
  else if fr.i + 1 < fr.count then
    (some { fr with i := fr.i + 1, j := 0 }, fr.start + 4)
  else (none, fr.start + BitVec.ofNat 64 (4 * (fr.words.length + 1)))

/-- The handler continues after the instruction at its pc: inside a frame with the next step (R196), else at the next address. -/
def ThreadSet.advance (t : ThreadSet) : ThreadSet :=
  match t.frame with
  | some fr => { t with frame := fr.step.1, pc := fr.step.2 }
  | none => { t with pc := t.pc + 4 }

/-- The retirement of the issuing set's instruction: the pc moves on (R196). -/
def State.advance (s : State) : State := s.updTh (·.advance)

/-- The address of the next instruction of a frame (R196), as `tepc` holds it. -/
def Frame.at_ (fr : Frame) : Word := (fr.start + 4 + BitVec.ofNat 64 (4 * fr.j)) &&& 0x0001FFFFFFFFFFFC

/-- The suspended handler stands again in the set with its send buffer and pending payload, at `tepc` (R346, R354), and in its frame, unless
the supervisor has written another address into `tepc` (log entry 67). -/
def ThreadSet.resume (u : Suspended) (t : ThreadSet) : ThreadSet :=
  { t with
    run := .user, susp := none, frame := u.frame.filter (fun fr => fr.at_ == t.tepc), sendBuf := u.sendBuf, pend := u.pend, pc := t.tepc,
    waiting := none, blocked := [] }

end Sys2Proof.Machine
end

