-- ==== Sys2Proof/Machine/Operands.lean ====
section
/-! DEFINITION. Operand forms: registers and ports of the three classes (R34, R35), what an instruction waits for at issue (R145, R151,
R180, R352), reading with its pops and writing with its pushes (R178 to R181), and the register fields of a repeat frame (R195). -/
namespace Sys2Proof.Machine

/-- The register classes of R34. -/
inductive Cls where
  | g | f | v
  deriving DecidableEq, Repr

/-- Register `n` of a class. -/
def Cls.key (c : Cls) (n : RegNo) : RegKey :=
  match c with
  | .g => .g n
  | .f => .f n
  | .v => .v n

/-- Words that one access of the class moves at a port (R35). -/
def Cls.words : Cls → Nat
  | .v => 2
  | _ => 1

/-- The ports among operands, each with the words it moves, in field order. -/
def portUses (us : List (Cls × Opnd)) : List (Port × Nat) :=
  us.filterMap (fun u => match u.2 with
    | .port p => some (p, u.1.words)
    | .reg _ => none)

/-- The registers among operands. -/
def regUses (us : List (Cls × Opnd)) : List RegKey :=
  us.filterMap (fun u => match u.2 with
    | .reg n => some (u.1.key n)
    | .port _ => none)

/-- The first absent link named (R181). -/
def State.absentLink (s : State) (le : Nat) (ps : List (Port × Nat)) : Option Port :=
  (ps.find? (fun p => match p.1.dir with
    | some d => !s.hasLink le d
    | none => false)).map (·.1)

/-- Total words moved at port `p`. -/
def wordsAt (p : Port) (ps : List (Port × Nat)) : Nat :=
  (ps.filter (fun q => q.1 == p)).foldl (fun n q => n + q.2) 0

/-- The queue that a read of port `p` by element `le` pops (R180, R181). -/
def State.inFifo (s : State) (le : Nat) (p : Port) : Option Fifo :=
  match p with
  | .q n => some (vget (s.el le).queues n.toNat)
  | p => match p.dir with
    | some d => some (vget (s.el le).links d)
    | none => none

/-- The words that a write of port `p` by element `le` finds room for (R180, R181). -/
def State.outRoom (s : State) (le : Nat) (p : Port) : Nat :=
  match p with
  | .q n => Config.queueWords - (vget (s.el le).queues n.toNat).words.length
  | p => match p.dir with
    | some d => match s.neighbour le d with
      | some m => Config.linkWords - (vget (s.el m).links (d + 2)).words.length
      | none => 0
    | none => 0

/-- The queue that a write of port `p` by element `le` appends to (R180, R181). -/
def State.outFifo (s : State) (le : Nat) (p : Port) : Option Fifo :=
  match p with
  | .q n => some (vget (s.el le).queues n.toNat)
  | p => match p.dir with
    | some d => (s.neighbour le d).map (fun m => vget (s.el m).links (d + 2))
    | none => none

/-- The words are there for waiter `w` of element `le`, and no other reader is ahead of it (R180). -/
def State.popReady (s : State) (w : Waiter) (le : Nat) (p : Port) (pops : Nat) : Bool :=
  pops == 0 || (match s.inFifo le p with
    | some q => decide (pops ≤ q.words.length) && (q.readers.head?.getD w == w)
    | none => false)

/-- There is room for what waiter `w` of element `le` pushes, after its own pops, and no other writer is ahead of it (R180). -/
def State.pushReady (s : State) (w : Waiter) (le : Nat) (p : Port) (pops pushes : Nat) : Bool :=
  pushes == 0 || (match s.outFifo le p with
    | some q => decide (pushes ≤ s.outRoom le p + (match p with | .q _ => pops | _ => 0)) && (q.writers.head?.getD w == w)
    | none => false)

/-- Whether set `k` of element `le` may pop `pops` words from port `p` and push `pushes` there now (R180). -/
def State.portReady (s : State) (le k : Nat) (p : Port) (pops pushes : Nat) : Bool :=
  match p with
  | .pi | .po => true
  | _ => s.popReady (.set le k) le p pops && s.pushReady (.set le k) le p pops pushes

/-- What an instruction needs at its ports. -/
def portNeeds (rds wrs : List (Port × Nat)) : List (Port × Nat × Nat) :=
  ((rds ++ wrs).map (·.1)).eraseDups.map (fun p => (p, wordsAt p rds, wordsAt p wrs))

/-- The queue that port `p` of element `le` pops changed by `f`. -/
def State.updIn (le : Nat) (p : Port) (f : Fifo → Fifo) (s : State) : State :=
  match p with
  | .q n => s.updEl le (fun e => { e with queues := vset e.queues n.toNat (f (vget e.queues n.toNat)) })
  | p => match p.dir with
    | some d => s.updEl le (fun e => { e with links := vset e.links d (f (vget e.links d)) })
    | none => s

/-- The queue that port `p` of element `le` pushes to changed by `f`: a queue register, or the neighbour's side of a link (R181). -/
def State.updOut (le : Nat) (p : Port) (f : Fifo → Fifo) (s : State) : State :=
  match p with
  | .q n => s.updEl le (fun e => { e with queues := vset e.queues n.toNat (f (vget e.queues n.toNat)) })
  | p => match p.dir with
    | some d => match s.neighbour le d with
      | some m => s.updEl m (fun e => { e with links := vset e.links (d + 2) (f (vget e.links (d + 2))) })
      | none => s
    | none => s

/-- A waiter takes the last place among the readers, unless it has one. -/
def Fifo.joinReader (w : Waiter) (q : Fifo) : Fifo := if q.readers.contains w then q else { q with readers := q.readers ++ [w] }
/-- A waiter takes the last place among the writers, unless it has one. -/
def Fifo.joinWriter (w : Waiter) (q : Fifo) : Fifo := if q.writers.contains w then q else { q with writers := q.writers ++ [w] }

/-- A blocked instruction takes its place among the readers of each queue it pops, and among the writers of each full queue it pushes to
(R180, R181). -/
def State.joinQueues (le k : Nat) (needs : List (Port × Nat × Nat)) (s : State) : State :=
  needs.foldl (fun s nd =>
    let w := Waiter.set le k
    let s := if nd.2.1 = 0 then s else s.updIn le nd.1 (·.joinReader w)
    if s.pushReady w le nd.1 nd.2.1 nd.2.2 then s else s.updOut le nd.1 (·.joinWriter w)) s

/-- An instruction that has issued and waits keeps its place at the queues that it will pop and push: those that issue later come after it
(R180). -/
def State.holdPlaces (le k : Nat) (needs : List (Port × Nat × Nat)) (s : State) : State :=
  needs.foldl (fun s nd =>
    let w := Waiter.set le k
    let s := if nd.2.1 = 0 then s else s.updIn le nd.1 (·.joinReader w)
    if nd.2.2 = 0 then s else s.updOut le nd.1 (·.joinWriter w)) s

/-- What the checks at issue say: go on in a state, or end the step with an outcome. -/
inductive Gate where
  | go (s : State)
  | stop (o : Host.Outcome State Fault Refusal)

/-- The number and class of a register with a parity error, as cause 0x0E reports it (R343). -/
def RegKey.parityVal : RegKey → Word
  | .g n => BitVec.ofNat 64 n.toNat
  | .f n => BitVec.ofNat 64 (64 + n.toNat)
  | .v n => BitVec.ofNat 64 (128 + n.toNat)

/-- Whether register `key` of the issuing set waits for an operation (R145, R151). -/
def ThreadSet.waits (t : ThreadSet) (key : RegKey) : Bool :=
  t.pending.any (fun p => p.2.1 == key && p.1 == (key.inBank t.inSup).1)

/-- The registers that an instruction reads once they are not pending, in the banks in use. -/
def ThreadSet.readsOf (t : ThreadSet) (rds : List (Cls × Opnd)) : List (Bool × RegKey) :=
  ((regUses rds).filter (fun r => !t.waits r)).map (·.inBank t.inSup)

/-- A register read with a parity error that the operand log cannot mend (R352). -/
def ThreadSet.ruined (t : ThreadSet) (rds : List (Cls × Opnd)) : Option (Bool × RegKey) :=
  (t.readsOf rds).find? (fun r => t.badRegs.contains r && !t.oplog.contains r)

/-- The parity errors of the registers read are mended from the operand log and counted (R352, R154). -/
def State.mended (rds : List (Cls × Opnd)) (s : State) : State :=
  let rs := s.th.readsOf rds
  (s.countFixes (s.quadOf s.cur.1) (s.th.badRegs.filter (fun r => rs.contains r)).length).updTh (fun t =>
    { t with badRegs := t.badRegs.filter (fun r => !rs.contains r) })

/-- An uncorrectable error in the SRAM of quad `q`: the rail returns to nominal and the count restarts (R388). -/
def State.railUp (q : Nat) (s : State) : State :=
  { s with quads := Map.set q { Map.get Quad.start s.quads q with rail := 0, corrections := 0 } s.quads }

/-- The trap of a register that cannot be mended, an uncorrectable error of its quad (R352, R388). -/
def State.parityTrap (r : RegKey) (s : State) : Host.Outcome State Fault Refusal :=
  (s.railUp (s.quadOf s.cur.1)).trap 0x0E r.parityVal

/-- The reads of an unread `gbar` token acquire at device scope (R340). -/
def State.barRead (rds : List (Cls × Opnd)) (s : State) : State :=
  let toks := s.th.barTok.filter (fun b => b.1 == s.th.inSup && rds.contains (.g, .reg b.2))
  if toks.isEmpty then s
  else (s.updTh (fun t => { t with barTok := t.barTok.filter (fun b => !toks.contains b) })).acquire s.cur.1 .dv

/-- The checks that every instruction passes at issue, in order (log entries 69 and 74): a parity error is repaired from the operand log or raises 0x0E (R352, R204);
an absent link raises 0x11 (R181); a ninth pending word 0x0B (R179); a pending register stalls the set (R145, R151); a port that
cannot serve blocks it (R180). The first read of a `gbar` token acquires at device scope (R340). They hold for `fmovi`, the compares and the
scalar arithmetic too, whose pages (R204, R206, R208) leave 0x0B, and of `fmovi` 0x11, unnamed (log entry 69), and for the
v-instructions, whose page (R241) names 0x11 and 0x09 only (log entry 75). -/
def gate (rds wrs : List (Cls × Opnd)) (s : State) : Gate :=
  let le := s.cur.1
  let k := s.cur.2
  let t := s.th
  let pr := portUses rds
  let pw := portUses wrs
  match t.ruined rds with
  | some r => .stop (s.parityTrap r.2)
  | none =>
    let s := s.mended rds
    match s.absentLink le (pr ++ pw) with
    | some p => .stop (s.trap 0x11 (BitVec.ofNat 64 p.number))
    | none =>
      if 0 < wordsAt .po pw && 8 < t.pend.length + wordsAt .po pw then
        .stop (s.trap 0x0B (BitVec.ofNat 64 (t.sendBuf.length * 256 + t.pend.length)))
      else if (regUses (rds ++ wrs)).any (fun r => t.waits r) then .stop (.next s)
      else
        let needs := portNeeds pr pw
        if needs.all (fun nd => s.portReady le k nd.1 nd.2.1 nd.2.2) then .go (s.barRead rds)
        else .stop (.next ((s.joinQueues le k needs).updTh (fun t => { t with blocked := needs })))

/-- An instruction that reads `rds` and writes `wrs` at issue, with effect `k` once the checks of `gate` let it go. -/
def withIssue (rds wrs : List (Cls × Opnd)) (k : State → Host.Outcome State Fault Refusal) (s : State) :
    Host.Outcome State Fault Refusal :=
  match gate rds wrs s with
  | .go s' => k s'
  | .stop o => o

/-- `tval` of a cause that reports the instruction, zero-extended (R343). -/
def instrVal (i : Instr) : Word :=
  match encode i with
  | some w => w.setWidth 64
  | none => 0

/-! ### Reading -/

/-- One word popped from a queue. -/
def Fifo.pop (q : Fifo) : Word × Fifo :=
  match q.words with
  | [] => (0, q)
  | w :: ws => (w, { q with words := ws, readCount := q.readCount + 1 })

/-- One word pushed. -/
def Fifo.push (w : Word) (q : Fifo) : Fifo := { q with words := q.words ++ [w], written := q.written + 1 }

/-- The next payload word of set `k` of element `le`: zero past the end, in a spawned thread, a call or the supervisor (R178, R347). -/
def State.popPayload (le k : Nat) (s : State) : Word × State :=
  match (s.thOf le k).act with
  | some a =>
    if (s.thOf le k).inSup || a.payload.length ≤ a.read then (0, s)
    else (a.payload.getD a.read 0, s.updThOf le k (fun t => { t with act := some { a with read := a.read + 1 } }))
  | none => (0, s)

/-- One word of a queue or link popped by waiter `w` of element `le`, which leaves its place (R180, R181). -/
def State.popFifo (w : Waiter) (le : Nat) (p : Port) (s : State) : Word × State :=
  match s.inFifo le p with
  | some q => (q.pop.1, s.updIn le p (fun q => { q.pop.2 with readers := q.readers.filter (· != w) }))
  | none => (0, s)

/-- One word popped at a port by the issuing set. -/
def State.popWord (p : Port) (s : State) : Word × State :=
  match p with
  | .po => (0, s)
  | .pi => s.popPayload s.cur.1 s.cur.2
  | p => s.popFifo (.set s.cur.1 s.cur.2) s.cur.1 p

/-- A g operand read. -/
def State.takeG (o : Opnd) (s : State) : Word × State :=
  match o with
  | .reg n => (s.rg n, s)
  | .port p => s.popWord p

/-- An f operand read, in a format with precision `p`: a port word carries the full count (R35), a register's count is clamped to `p`
(R74, R197). -/
def State.takeF (p : Nat) (o : Opnd) (s : State) : FReg × State :=
  match o with
  | .reg n => let x := s.rf n; (⟨x.bits, min x.tc p⟩, s)
  | .port q => let r := s.popWord q; (⟨r.1, p⟩, r.2)

/-- A v operand read; two port words carry the full count `p` in each slot (R35). -/
def State.takeV (p : Nat) (o : Opnd) (s : State) : VReg × State :=
  match o with
  | .reg n => (s.rv n, s)
  | .port q =>
    let r1 := s.popWord q
    let r2 := r1.2.popWord q
    (⟨(r2.1 ++ r1.1 : BitVec 128), Vector.replicate 4 p⟩, r2.2)

/-! ### Writing -/

/-- One word pushed to a queue or link by waiter `w` of element `le`, which leaves its place (R180, R181). -/
def State.pushFifo (w : Waiter) (le : Nat) (p : Port) (x : Word) (s : State) : State :=
  s.updOut le p (fun q => { q.push x with writers := q.writers.filter (· != w) })

/-- One word pushed at a port by the issuing set: the pending payload (R179), a queue or a link. -/
def State.pushWord (p : Port) (w : Word) (s : State) : State :=
  match p with
  | .pi => s
  | .po => s.updTh (fun t => { t with pend := t.pend ++ [w] })
  | p => s.pushFifo (.set s.cur.1 s.cur.2) s.cur.1 p w

/-- A write to a register or a port, as a retiring instruction makes it. -/
def State.write (w : RegWrite) (s : State) : State :=
  match w with
  | .g n x => s.wg n x
  | .f n x => s.updTh (·.wf n x)
  | .v n x => s.updTh (·.wv n x)
  | .port p ws => ws.foldl (fun s x => s.pushWord p x) s

/-- The write of a g result. -/
def outG (o : Opnd) (x : Word) : RegWrite :=
  match o with
  | .reg n => .g n x
  | .port p => .port p [x]

/-- The write of an f result; counts do not pass ports (R80). -/
def outF (o : Opnd) (x : FReg) : RegWrite :=
  match o with
  | .reg n => .f n x
  | .port p => .port p [x.bits]

/-- The write of a v result: two words at a port, low half first (R35). -/
def outV (o : Opnd) (x : VReg) : RegWrite :=
  match o with
  | .reg n => .v n x
  | .port p => .port p [x.bits.setWidth 64, x.bits.extractLsb' 64 64]

/-- A g result written. -/
def State.putG (o : Opnd) (x : Word) (s : State) : State := s.write (outG o x)

/-- An f result written. -/
def State.putF (o : Opnd) (x : FReg) (s : State) : State := s.write (outF o x)

/-- A v result written. -/
def State.putV (o : Opnd) (x : VReg) (s : State) : State := s.write (outV o x)

/-- The pops that a held result owes (R84). -/
def State.popAll (ps : List (Port × Nat)) (s : State) : State :=
  ps.foldl (fun s p => (List.range p.2).foldl (fun s _ => (s.popWord p.1).2) s) s

/-! ### Repeat frames (R195) -/

/-- Which of the fields d, a and b of a captured instruction hold registers that a frame advances: those that the instruction uses
as registers, of formats A, I and U (R195); none for an instruction outside the groups of R55 row 2. -/
def frameFields (i : Instr) : Option (Bool × Bool × Bool) :=
  match i with
  | .add _ _ _ | .sub _ _ _ | .and _ _ _ | .or _ _ _ | .xor _ _ _ | .nor _ _ _ | .sll _ _ _ | .srl _ _ _ | .sra _ _ _
  | .rol _ _ _ | .slt _ _ _ | .sltn _ _ _ | .min _ _ _ | .max _ _ _ | .minn _ _ _ | .maxn _ _ _ | .mul _ _ _ | .mulh _ _ _
  | .mulhn _ _ _ | .div _ _ _ | .divn _ _ _ | .rem _ _ _ | .remn _ _ _ | .bext _ _ _ | .bins _ _ _ | .sel _ _ _
  | .addw _ _ _ | .subw _ _ _ | .mulw _ _ _ | .lea0 _ _ _ | .lea1 _ _ _ | .lea2 _ _ _ | .lea3 _ _ _ => some (true, true, true)
  | .clz _ _ | .ctz _ _ | .popc _ _ | .bswap _ _ => some (true, true, false)
  | .addi _ _ _ | .andi _ _ _ | .ori _ _ _ | .xori _ _ _ | .slli _ _ _ | .srli _ _ _ | .srai _ _ _ | .slti _ _ _
  | .sltni _ _ _ | .addwi _ _ _ => some (true, true, false)
  | .ldhi _ _ | .pcadd _ _ => some (true, false, false)
  | .fadd _ _ _ _ | .fsub _ _ _ _ | .fmul _ _ _ _ | .fdiv _ _ _ _ | .fmin _ _ _ _ | .fmax _ _ _ _ | .fsgn _ _ _ _ =>
    some (true, true, true)
  | .fsqrt _ _ _ | .fabs _ _ _ | .fneg _ _ _ | .fclass _ _ _ | .frnd _ _ _ | .fmov _ _ _ => some (true, true, false)
  | .vadd _ _ _ _ | .vsub _ _ _ _ | .vmul _ _ _ _ | .vmin _ _ _ _ | .vmax _ _ _ _ | .vand _ _ _ _ | .vor _ _ _ _
  | .vxor _ _ _ _ | .vshl _ _ _ _ | .vshr _ _ _ _ | .vperm _ _ _ _ | .vdot _ _ _ _ | .vcmp _ _ _ _ | .vsel _ _ _ _ =>
    some (true, true, true)
  | .vabs _ _ _ | .vneg _ _ _ | .vbc _ _ _ | .vred _ _ _ | .vins _ _ _ _ | .vext _ _ _ _ => some (true, true, false)
  | _ => none

/-- Field `x` of a captured instruction on replay `i` with step `k`: a used register field moves up (R196). -/
def stepField (used : Bool) (x : BitVec 6) (i k : Nat) : BitVec 6 := if used && x.toNat < 32 then x + BitVec.ofNat 6 (i * k) else x

/-- Instruction `j` of a frame on replay `i`, as a word (R196). -/
def Frame.word (fr : Frame) : Code :=
  let w := fr.words.getD fr.j 0
  match decode w with
  | .error _ => w
  | .ok ins =>
    match frameFields ins with
    | none => w
    | some (d, a, b) =>
      (fOp w ++ stepField d (fD w) fr.i fr.kd ++ stepField a (fA w) fr.i fr.ka ++ stepField b (fB w) fr.i fr.kb ++ fC w :
        BitVec (8 + 6 + 6 + 6 + 6))

/-! ### Waiting for a token (R361) -/

/-- The registers `g[a]` to `g[a + n − 1]`. -/
def gRun (a : RegNo) (n : Nat) : List RegNo := (List.range n).map (fun k => a + BitVec.ofNat 5 k)

/-- The register of an operand. -/
def opndRegs : Opnd → List RegNo
  | .reg n => [n]
  | .port _ => []

/-- The g registers that an instruction reads. -/
def gReads : Instr → List RegNo
  | .add _ a b | .sub _ a b | .and _ a b | .or _ a b | .xor _ a b | .nor _ a b | .sll _ a b | .srl _ a b | .sra _ a b | .rol _ a b
  | .slt _ a b | .sltn _ a b | .min _ a b | .max _ a b | .minn _ a b | .maxn _ a b | .mul _ a b | .mulh _ a b | .mulhn _ a b
  | .div _ a b | .divn _ a b | .rem _ a b | .remn _ a b | .bext _ a b | .addw _ a b | .subw _ a b | .mulw _ a b | .lea0 _ a b
  | .lea1 _ a b | .lea2 _ a b | .lea3 _ a b | .beq a b _ | .bne a b _ | .blt a b _ | .bge a b _ | .bltn a b _ | .bgen a b _
  | .hmask _ a b | .mcap _ a b => opndRegs a ++ opndRegs b
  | .bins d a b | .sel d a b => d :: (opndRegs a ++ opndRegs b)
  | .clz _ a | .ctz _ a | .popc _ a | .bswap _ a | .addi _ a _ | .andi _ a _ | .ori _ a _ | .xori _ a _ | .slli _ a _ | .srli _ a _
  | .srai _ a _ | .slti _ a _ | .sltni _ a _ | .addwi _ a _ | .fstc _ a _ _ | .alw _ a | .spush a | .mark a _ | .csrw _ a _
  | .csrs _ a _ | .csrc _ a _ | .qwait _ _ a => opndRegs a
  | .vbc t _ a | .vins t _ a _ => match t with
    | .f32 | .bf16 | .f16 => []
    | .i32 | .i16 | .i8 | .n32 | .n16 | .n8 => opndRegs a
  | .fcvt _ .i32 _ _ a | .fcvt _ .n32 _ _ a | .fcvt _ .i64 _ _ a | .fcvt _ .n64 _ _ a => opndRegs a
  | .jalr _ a _ | .ldn8 _ a _ | .ldi8 _ a _ | .ldn16 _ a _ | .ldi16 _ a _ | .ldn32 _ a _ | .ldi32 _ a _ | .ld64 _ a _
  | .fld32 _ a _ | .fld64 _ a _ | .fst32 _ a _ | .fst64 _ a _ | .fldt32 _ a _ | .fldt64 _ a _ | .fstt32 _ a _ | .fstt64 _ a _
  | .vld _ a _ | .vst _ a _ | .vldt _ a _ | .vstt _ a _ | .lda _ a _ _ | .fwait a | .wadd _ a | .wsub _ a | .wmul _ a | .wfma _ a
  | .wmin _ a | .wmax _ a | .wcvt _ a | .wred _ a | .wexp _ a | .wrsq _ a | .wact _ a _ | .wscl _ a _ | .wcpy _ a | .wtrn _ a
  | .mswp _ a | .mzro _ a | .mqry _ a | .rdec _ a | .gbar _ a | .clone _ a | .krd _ a _ | .cstat _ a _ | .boxt _ _ a _ | .trit _ _ a _
  | .edg _ a _ | .qmrg _ _ _ a | .smp _ a _ | .smpl _ a _ _ | .txl _ a _ => [a]
  | .st8 d a _ | .st16 d a _ | .st32 d a _ | .st64 d a _ | .stl d a _ _ | .stv d a _ => a :: opndRegs d
  | .ldv _ a b _ | .vrst a b | .aadd _ a b _ _ | .aand _ a b _ _ | .aor _ a b _ _ | .axor _ a b _ _ | .amin _ a b _ _ | .amax _ a b _ _
  | .aminn _ a b _ _ | .amaxn _ a b _ _ | .aswp _ a b _ _ | .merge _ a b | .xst _ a b => a :: opndRegs b
  | .acas d a b _ _ => a :: d :: opndRegs b
  | .mrfp4 _ a b _ | .mri8 _ a b _ | .mri48 _ a b _ | .mrbf _ a b _ | .mrhf _ a b _ | .mre43 _ a b _ | .mre52 _ a b _ | .mre45 _ a b _
  | .mdrn _ a b _ | .coll _ a b _ | .hset a b | .stg a b | .csub _ a b | .cskip _ a b | .cprom _ a b => [a, b]
  | .mld _ a b c | .gath _ a b c | .scat _ a b c => [a, b, c]
  | .cpy _ a b c | .cpym _ a b c | .rbr _ a b c => a :: b :: opndRegs c
  | .send d a n _ | .gsend d a n _ => d :: gRun a n.toNat
  | .sendm d a _ _ => [d, a]
  | .spawn _ a b c | .callat _ a b c => opndRegs a ++ b :: gRun c 4
  | _ => []

end Sys2Proof.Machine
end

