-- ==== Sys2Proof/Machine/Flags.lean ====
section
/-! DEFINITION. Floating-point values, rounding, flags and trust counts (R58 to R76), and the stochastic generator (R71). Every result is
computed exactly as a fraction and rounded once. -/
namespace Sys2Proof.Machine

/-! ### Formats (R58, R59) -/

/-- A floating format: width, fraction bits, precision p, least normal exponent, bias, whether it has infinities, whether it has
NaNs, and whether conversion into it saturates (R70). -/
structure Fmt where
  w : Nat
  m : Nat
  emin : Int
  bias : Int
  hasInf : Bool
  hasNaN : Bool
  narrow : Bool
  code : Nat
  deriving DecidableEq, Repr

/-- The precision p, counting the implicit bit (R58). -/
def Fmt.p (f : Fmt) : Nat := f.m + 1

def fmtF64 : Fmt := ⟨64, 52, -1022, 1023, true, true, false, 0x00⟩
def fmtF32 : Fmt := ⟨32, 23, -126, 127, true, true, false, 0x01⟩
def fmtF16 : Fmt := ⟨16, 10, -14, 15, true, true, false, 0x02⟩
def fmtBf16 : Fmt := ⟨16, 7, -126, 127, true, true, false, 0x03⟩
def fmtE4m3 : Fmt := ⟨8, 3, -6, 7, false, true, true, 0x04⟩
def fmtE5m2 : Fmt := ⟨8, 2, -14, 15, true, true, true, 0x05⟩
def fmtE2m1 : Fmt := ⟨4, 1, 0, 1, false, false, true, 0x06⟩

/-- A scalar type's format (R42). -/
def ftypeFmt : FType → Fmt
  | .f64 => fmtF64
  | .f32 => fmtF32
  | .f16 => fmtF16
  | .bf16 => fmtBf16

/-- Exponent bits of a format. -/
def Fmt.ebits (f : Fmt) : Nat := f.w - 1 - f.m

/-- The magnitude bits of infinity, which are also the least NaN's less one in an IEEE layout. -/
def Fmt.infBits (f : Fmt) : Nat := (2 ^ f.ebits - 1) * 2 ^ f.m

/-- The magnitude bits of the largest finite value (R58, R59). -/
def Fmt.maxBits (f : Fmt) : Nat :=
  if f.hasInf then f.infBits - 1 else if f.hasNaN then 2 ^ (f.w - 1) - 2 else 2 ^ (f.w - 1) - 1

/-- The canonical NaN (R61); +0 for e2m1, which has none (R70). -/
def Fmt.nanBits (f : Fmt) : Nat :=
  if !f.hasNaN then 0 else if f.hasInf then f.infBits + 2 ^ (f.m - 1) else 2 ^ (f.w - 1) - 1

/-! ### Values -/

/-- A fraction; the denominator is positive. -/
structure Q where
  num : Int
  den : Nat
  deriving DecidableEq, Repr

/-- An integer as a fraction. -/
def Q.ofInt (n : Int) : Q := ⟨n, 1⟩
/-- n · 2^e. -/
def Q.pow2 (n : Int) (e : Int) : Q := if 0 ≤ e then ⟨n * 2 ^ e.toNat, 1⟩ else ⟨n, 2 ^ (-e).toNat⟩
/-- The sum; powers of two keep one denominator. -/
def Q.add (a b : Q) : Q :=
  if b.den % a.den = 0 then ⟨a.num * (b.den / a.den : Nat) + b.num, b.den⟩
  else if a.den % b.den = 0 then ⟨a.num + b.num * (a.den / b.den : Nat), a.den⟩
  else ⟨a.num * b.den + b.num * a.den, a.den * b.den⟩
def Q.neg (a : Q) : Q := ⟨-a.num, a.den⟩
def Q.sub (a b : Q) : Q := a.add b.neg
def Q.mul (a b : Q) : Q := ⟨a.num * b.num, a.den * b.den⟩
/-- The quotient by a nonzero fraction. -/
def Q.div (a b : Q) : Q := ⟨a.num * b.den * b.num.sign, a.den * b.num.natAbs⟩
def Q.lt (a b : Q) : Bool := decide (a.num * b.den < b.num * a.den)
def Q.le (a b : Q) : Bool := decide (a.num * b.den ≤ b.num * a.den)
def Q.eq (a b : Q) : Bool := decide (a.num * b.den = b.num * a.den)
def Q.abs (a : Q) : Q := ⟨a.num.natAbs, a.den⟩
/-- The greatest integer not above the fraction. -/
def Q.floor (a : Q) : Int := a.num / a.den
def Q.max (a b : Q) : Q := if a.lt b then b else a
def Q.min (a b : Q) : Q := if b.lt a then b else a

/-- What a pattern of a format stands for: the sign, and for a finite value its magnitude n/d. -/
inductive Fp where
  | nan
  | inf (neg : Bool)
  | num (neg : Bool) (n d : Nat)
  deriving DecidableEq, Repr

/-- The value of a pattern (R58, R59). -/
def Fmt.val (f : Fmt) (bits : Nat) : Fp :=
  let neg := bits / 2 ^ (f.w - 1) % 2 == 1
  let mag := bits % 2 ^ (f.w - 1)
  if f.hasInf && mag = f.infBits then .inf neg
  else if f.hasNaN && f.maxBits < mag then .nan
  else
    let e := mag / 2 ^ f.m
    let fr := mag % 2 ^ f.m
    let x : Q := if e = 0 then Q.pow2 fr (f.emin - f.m) else Q.pow2 (fr + 2 ^ f.m : Nat) (f.emin - f.m + (e - 1 : Nat))
    .num neg x.num.toNat x.den

/-- A finite value as a fraction; zero for the rest. -/
def Fp.q : Fp → Q
  | .num neg n d => ⟨if neg then -(n : Int) else n, d⟩
  | _ => ⟨0, 1⟩

def Fp.isNaN : Fp → Bool
  | .nan => true
  | _ => false
def Fp.isInf : Fp → Bool
  | .inf _ => true
  | _ => false
def Fp.isZero : Fp → Bool
  | .num _ n _ => n == 0
  | _ => false
def Fp.isNeg : Fp → Bool
  | .nan => false
  | .inf s => s
  | .num s _ _ => s

/-- A floating operand: its format, pattern and count. -/
structure Opv where
  f : Fmt
  bits : Nat
  t : Nat
  deriving DecidableEq, Repr

/-- The operand's value. -/
def Opv.v (o : Opv) : Fp := o.f.val o.bits

/-- E of n/d for positive n and d: the exponent of the leading bit (R74). -/
def expOf (n d : Nat) : Int :=
  let k : Int := (n.log2 : Int) - d.log2
  let atLeast : Bool := if 0 ≤ k then decide (d * 2 ^ k.toNat ≤ n) else decide (d ≤ n * 2 ^ (-k).toNat)
  if atLeast then k else k - 1

/-- E of an operand, emin of its format for a zero (R74). -/
def Opv.e (o : Opv) : Int :=
  match o.v with
  | .num _ n d => if n = 0 then o.f.emin else expOf n d
  | _ => o.f.emin

/-- The trust floor F of an operand (R74). -/
def Opv.floorW (o : Opv) : Int := o.e - o.t + 1

/-! ### Rounding (R66, R68, R69) -/

/-- A positive magnitude to be rounded: a fraction n/d, or the square root of one. -/
inductive Mag where
  | frac (n d : Nat)
  | root (n d : Nat)
  deriving DecidableEq, Repr

/-- The integer square root, `fuel` bits at a time from the top. -/
def isqrtFrom (n : Nat) : Nat → Nat → Nat
  | 0, r => r
  | k + 1, r => let c := r + 2 ^ k; isqrtFrom n k (if c * c ≤ n then c else r)

/-- The greatest r with r² ≤ n. -/
def isqrt (n : Nat) : Nat := isqrtFrom n (n.log2 / 2 + 1) 0

/-- The floor of the magnitude times 2^k, and whether anything is left over. -/
def Mag.scaled (x : Mag) (k : Int) : Nat × Bool :=
  match x with
  | .frac n d =>
    let a := if 0 ≤ k then n * 2 ^ k.toNat else n
    let b := if 0 ≤ k then d else d * 2 ^ (-k).toNat
    (a / b, a % b != 0)
  | .root n d =>
    let a := if 0 ≤ k then n * 4 ^ k.toNat else n
    let b := if 0 ≤ k then d else d * 4 ^ (-k).toNat
    let r := isqrt (a / b)
    (r, !(a % b == 0 && r * r == a / b))

/-- The exponent of the leading bit of a positive magnitude. -/
def Mag.e : Mag → Int
  | .frac n d => expOf n d
  | .root n d => expOf n d / 2

/-- The kept integer of a magnitude scaled to the weight u of the last kept bit, under mode `rm` with `draw` for mode 5 (R66, R69),
and whether the rounding is inexact. `t` is the floor of the magnitude over u, times 65,536. -/
def roundKept (rm draw : Nat) (neg : Bool) (t : Nat) (sticky : Bool) : Nat × Bool :=
  let q := t / 65536
  let fr := t % 65536
  let inexact := fr != 0 || sticky
  let up : Bool := match rm with
    | 0 => decide (0x8000 < fr) || (fr == 0x8000 && (sticky || q % 2 == 1))
    | 1 => decide (0x8000 ≤ fr)
    | 2 => false
    | 3 => neg && inexact
    | 4 => !neg && inexact
    | _ => decide (65536 ≤ fr + draw)
  (if up then q + 1 else q, inexact)

/-- The flags, high to low NV DZ OF UF NX (R67). -/
abbrev FpFlags := BitVec 5
def flNV : FpFlags := 0b10000
def flDZ : FpFlags := 0b01000
def flOF : FpFlags := 0b00100
def flUF : FpFlags := 0b00010
def flNX : FpFlags := 0b00001

/-- A rounded result: its pattern, flags, whether it is inexact, and whether it saturated by R70 or was flushed by R62. -/
structure FpRes where
  bits : Nat
  fl : FpFlags
  inexact : Bool
  sat : Bool
  deriving DecidableEq, Repr

/-- A pattern with sign. -/
def Fmt.signed (f : Fmt) (neg : Bool) (mag : Nat) : Nat := neg.toNat * 2 ^ (f.w - 1) + mag

/-- The canonical NaN; into e2m1 a NaN is +0 with NV (R70), which counts as saturated: its count is 0 (R76 does not name it; log
entry 65). -/
def Fmt.nanRes (f : Fmt) (fl : FpFlags) : FpRes := ⟨f.nanBits, if f.hasNaN then fl else fl ||| flNV, false, !f.hasNaN⟩

/-- An infinite result; a saturating format gives its largest value, with OF (R70). -/
def Fmt.infRes (f : Fmt) (neg : Bool) (fl : FpFlags) : FpRes :=
  if f.narrow then ⟨f.signed neg f.maxBits, fl ||| flOF, false, true⟩ else ⟨f.signed neg f.infBits, fl, false, false⟩

/-- A zero result. -/
def Fmt.zeroRes (f : Fmt) (neg : Bool) : FpRes := ⟨f.signed neg 0, 0, false, false⟩

/-- A positive magnitude rounded to a format with a sign (R68 to R70). -/
def Fmt.round (f : Fmt) (rm draw : Nat) (neg : Bool) (x : Mag) : FpRes :=
  let e := x.e
  let ue : Int := max e f.emin - f.m
  let s := x.scaled (16 - ue)
  let k := roundKept rm draw neg s.1 s.2
  let mag := ((ue + f.m - f.emin).toNat) * 2 ^ f.m + k.1
  if f.maxBits < mag then
    if f.narrow then ⟨f.signed neg f.maxBits, flOF ||| flNX, true, true⟩
    else
      let toInf : Bool := match rm with
        | 2 => false
        | 3 => neg
        | 4 => !neg
        | _ => true
      ⟨f.signed neg (if toInf then f.infBits else f.maxBits), flOF ||| flNX, true, false⟩
  else
    let s' := x.scaled (16 - (e - f.m))
    let k' := roundKept rm draw neg s'.1 s'.2
    let tiny : Bool := decide (e < f.emin) && !(e + 1 == f.emin && k'.1 == 2 ^ (f.m + 1))
    let nx : FpFlags := if k.2 then flNX else 0
    ⟨f.signed neg mag, nx ||| (if tiny && k.2 then flUF else 0), k.2, false⟩

/-- An exact fraction rounded to a format; a zero takes the sign `zneg`. -/
def Fmt.roundQ (f : Fmt) (rm draw : Nat) (zneg : Bool) (x : Q) : FpRes :=
  if x.num = 0 then f.zeroRes zneg else f.round rm draw (decide (x.num < 0)) (.frac x.num.natAbs x.den)

/-! ### Trust counts (R75, R76) -/

/-- P of R76: the precision, or a subnormal value's own number of significant bits (case 4). -/
def Fmt.ownBits (f : Fmt) (bits : Nat) : Int :=
  match f.val bits with
  | .num _ n d => if expOf n d < f.emin then expOf n d - f.emin + f.p else f.p
  | _ => f.p

/-- The count of a result by R76 from the count `base` of R75: `zeroOp` says that an operand is zero, `full` that every operand had
t = p, and `least` is the least count of the operands. -/
def Fmt.count (f : Fmt) (r : FpRes) (base : Int) (zeroOp full : Bool) (least : Nat) : Nat :=
  match f.val r.bits with
  | .nan => 0
  | .inf _ => 0
  | .num _ n _ =>
    if r.sat then 0
    else if n = 0 then
      if zeroOp then min least f.p else if full && !r.inexact then f.p else 0
    else (max 0 (min base (if r.inexact then f.ownBits r.bits - 1 else f.ownBits r.bits))).toNat

/-- The add rule's count before R76 (R75): E of the result less the greater floor, plus 1. -/
def Fmt.addCount (f : Fmt) (r : FpRes) (floorW : Int) : Int :=
  match f.val r.bits with
  | .num _ n d => if n = 0 then 0 else expOf n d - floorW + 1
  | _ => 0

/-- The sum of two operands (R200 fadd, fsub with the second negated), rounded to `f`, and its count. -/
def fpAdd (f : Fmt) (rm draw : Nat) (x y : Opv) : FpRes × Nat :=
  let r : FpRes := match x.v, y.v with
    | .nan, _ => f.nanRes 0
    | _, .nan => f.nanRes 0
    | .inf a, .inf b => if a = b then f.infRes a 0 else f.nanRes flNV
    | .inf a, _ => f.infRes a 0
    | _, .inf b => f.infRes b 0
    | a, b => f.roundQ rm draw (if a.isZero && b.isZero && a.isNeg == b.isNeg then a.isNeg else rm == 3) (a.q.add b.q)
  (r, f.count r (f.addCount r (max x.floorW y.floorW)) (x.v.isZero || y.v.isZero) (x.t == x.f.p && y.t == y.f.p) (min x.t y.t))

/-- The operand with its sign inverted. -/
def Opv.negate (o : Opv) : Opv :=
  { o with bits := if o.bits / 2 ^ (o.f.w - 1) % 2 = 1 then o.bits - 2 ^ (o.f.w - 1) else o.bits + 2 ^ (o.f.w - 1) }

/-- The product of two operands (R200 fmul) and its count. -/
def fpMul (f : Fmt) (rm draw : Nat) (x y : Opv) : FpRes × Nat :=
  let a := x.v
  let b := y.v
  let s := a.isNeg != b.isNeg
  let r : FpRes :=
    if a.isNaN || b.isNaN then f.nanRes 0
    else if (a.isInf && b.isZero) || (a.isZero && b.isInf) then f.nanRes flNV
    else if a.isInf || b.isInf then f.infRes s 0
    else f.roundQ rm draw s (a.q.mul b.q)
  (r, f.count r (min x.t y.t) (a.isZero || b.isZero) (x.t == x.f.p && y.t == y.f.p) (min x.t y.t))

/-- The quotient of two operands (R200 fdiv) and its count. -/
def fpDiv (f : Fmt) (rm draw : Nat) (x y : Opv) : FpRes × Nat :=
  let a := x.v
  let b := y.v
  let s := a.isNeg != b.isNeg
  let r : FpRes :=
    if a.isNaN || b.isNaN then f.nanRes 0
    else if (a.isInf && b.isInf) || (a.isZero && b.isZero) then f.nanRes flNV
    else if a.isInf then f.infRes s 0
    else if b.isInf then f.zeroRes s
    else if b.isZero then f.infRes s flDZ
    else f.roundQ rm draw s (a.q.div b.q)
  (r, f.count r (min x.t y.t) (a.isZero || b.isZero) (x.t == x.f.p && y.t == y.f.p) (min x.t y.t))

/-- The square root (R200 fsqrt) and its count. -/
def fpSqrt (f : Fmt) (rm draw : Nat) (x : Opv) : FpRes × Nat :=
  let r : FpRes := match x.v with
    | .nan => f.nanRes 0
    | .inf false => f.infRes false 0
    | .inf true => f.nanRes flNV
    | .num neg n d => if n = 0 then f.zeroRes neg else if neg then f.nanRes flNV else f.round rm draw false (.root n d)
  (r, f.count r (min (x.t + 1) f.p) x.v.isZero (x.t == x.f.p) x.t)

/-- x·y + z with one rounding (R205) and its count; the floor of a zero product takes the emin of the result's format `f`, for sources of other
types too (R246 leaves it open; log entry 75). -/
def fpFma (f : Fmt) (rm draw : Nat) (x y z : Opv) : FpRes × Nat :=
  let a := x.v
  let b := y.v
  let c := z.v
  let s := a.isNeg != b.isNeg
  let r : FpRes :=
    if (a.isInf && b.isZero) || (a.isZero && b.isInf) then f.nanRes flNV
    else if a.isNaN || b.isNaN || c.isNaN then f.nanRes 0
    else if a.isInf || b.isInf then (if c.isInf && c.isNeg != s then f.nanRes flNV else f.infRes s 0)
    else if c.isInf then f.infRes c.isNeg 0
    else
      let pz := a.isZero || b.isZero
      f.roundQ rm draw (if pz && c.isZero && s == c.isNeg then s else rm == 3) ((a.q.mul b.q).add c.q)
  let pe : Int := if a.isZero || b.isZero then f.emin else (match a, b with
    | .num _ n1 d1, .num _ n2 d2 => expOf (n1 * n2) (d1 * d2)
    | _, _ => f.emin)
  let pf : Int := pe - min x.t y.t + 1
  (r, f.count r (f.addCount r (max pf z.floorW)) (a.isZero || b.isZero || c.isZero)
    (x.t == x.f.p && y.t == y.f.p && z.t == z.f.p) (min (min x.t y.t) z.t))

/-- A value of one format converted to another (R207, R70) and its count. Conversions between equal or wider precision are exact. -/
def fpConv (f : Fmt) (rm draw : Nat) (x : Opv) : FpRes × Nat :=
  let r : FpRes := match x.v with
    | .nan => f.nanRes 0
    | .inf s => f.infRes s 0
    | .num s n d => if n = 0 then f.zeroRes s else f.round rm draw s (.frac n d)
  (r, f.count r (min x.t f.p) x.v.isZero (x.t == x.f.p) x.t)

/-- An integer converted to a format (R207): the count is p, or p − 1 if inexact. -/
def intConv (f : Fmt) (rm draw : Nat) (n : Int) : FpRes × Nat :=
  let r := f.roundQ rm draw false (Q.ofInt n)
  (r, f.count r f.p (n == 0) true f.p)

/-- A fraction rounded to an integer with u = 1 (R70), and whether the rounding is inexact. -/
def roundInt (rm draw : Nat) (x : Q) : Int × Bool :=
  if x.num = 0 then (0, false)
  else
    let s := (Mag.frac x.num.natAbs x.den).scaled 16
    let k := roundKept rm draw (decide (x.num < 0)) s.1 s.2
    (if x.num < 0 then -(k.1 : Int) else k.1, k.2)

/-- A floating value converted to an integer between `lo` and `hi` (R70). -/
def fpIntOf (rm draw : Nat) (lo hi : Int) : Fp → Int × FpFlags
  | .nan => (0, flNV)
  | .inf s => (if s then lo else hi, flNV)
  | .num s n d =>
    let k := roundInt rm draw ⟨if s then -(n : Int) else n, d⟩
    if k.1 < lo then (lo, flNV) else if hi < k.1 then (hi, flNV) else (k.1, if k.2 then flNX else 0)

/-- The same for an operand. -/
def fpToInt (rm draw : Nat) (lo hi : Int) (x : Opv) : Int × FpFlags := fpIntOf rm draw lo hi x.v

/-- `frnd` (R203). -/
def fpRnd (f : Fmt) (rm draw : Nat) (x : Opv) : FpRes × Nat :=
  let r : FpRes := match x.v with
    | .nan => f.nanRes 0
    | .inf s => f.infRes s 0
    | .num s n d =>
      if n = 0 then f.zeroRes s
      else
        let k := roundInt rm draw ⟨if s then -(n : Int) else n, d⟩
        let z := f.roundQ 2 0 s (Q.ofInt k.1)
        { z with fl := if k.2 then flNX else 0, inexact := k.2 }
  (r, f.count r x.t x.v.isZero (x.t == x.f.p) x.t)

/-- x below y, as `fmin` orders them: −0 is below +0 (R201). -/
def fpBelow (x y : Fp) : Bool :=
  match x, y with
  | .nan, _ => false
  | _, .nan => false
  | .inf s, .inf u => s && !u
  | .inf s, _ => s
  | _, .inf u => !u
  | a, b => a.q.lt b.q || (a.isZero && b.isZero && a.isNeg && !b.isNeg)

/-- `fmin` (or `fmax`): which operand is returned, or the canonical NaN (R201). -/
def fpPick (f : Fmt) (wantMax : Bool) (x y : Opv) : Nat × Nat :=
  match x.v, y.v with
  | .nan, .nan => (f.nanBits, 0)
  | .nan, _ => (y.bits, y.t)
  | _, .nan => (x.bits, x.t)
  | a, b =>
    let takeY := if wantMax then fpBelow a b else fpBelow b a
    if takeY then (y.bits, y.t) else (x.bits, x.t)

/-- The order of two numbers with −0 = +0 (R206): some true for below, none for equal, some false for above. -/
def fpOrd (x y : Fp) : Option Bool :=
  match x, y with
  | .inf s, .inf u => if s = u then none else some s
  | .inf s, _ => some s
  | _, .inf u => some !u
  | a, b => if a.q.lt b.q then some true else if a.q.eq b.q then none else some false

/-- The class of a pattern (R202). -/
def fpClass (f : Fmt) (bits : Nat) : Nat :=
  let neg := bits / 2 ^ (f.w - 1) % 2
  let mag := bits % 2 ^ (f.w - 1)
  let kind := match f.val bits with
    | .nan => 5
    | .inf _ => 4
    | .num _ n _ => if n = 0 then 1 else if mag < 2 ^ f.m then 2 else 3
  let sig := if kind = 5 && mag / 2 ^ (f.m - 1) % 2 = 0 then 16 else 0
  sig + neg * 8 + kind

/-! ### The generator (R71, R73) -/

/-- One draw: the new state and Draw16 (R71). -/
def drawFrom (x : Word) : Word × Nat :=
  let a := x ^^^ (x <<< 13)
  let b := a ^^^ (a >>> 7)
  let c := b ^^^ (b <<< 17)
  (c, ((c * 0x2545F4914F6CDD1D) >>> 48).toNat)

/-- The element whose generator the issuing set draws from: slot 0 of its quad for a migrated thread (R73, R233). -/
def State.drawLe (s : State) : Nat :=
  if s.th.migrated then (s.leAt (s.physOf s.cur.1 / 4 * 4)).getD s.cur.1 else s.cur.1

/-- `n` draws under mode 5, none otherwise: the draws and the state after them (R73). -/
def State.draws (rm n : Nat) (s : State) : List Nat × State :=
  if rm = 5 then
    let le := s.drawLe
    let r := (List.range n).foldl (fun (acc : List Nat × Word) _ =>
      let d := drawFrom acc.2
      (acc.1 ++ [d.2], d.1)) ([], (s.el le).srseed)
    (r.1, s.updEl le (fun e => { e with srseed := r.2 }))
  else (List.replicate n 0, s)

/-- The rounding mode of `fcsr` (R67). -/
def ThreadSet.rm (t : ThreadSet) : Nat := (t.fcsr.setWidth 3 : BitVec 3).toNat

/-- The flags of a set raised (R67). -/
def ThreadSet.raise (fl : FpFlags) (t : ThreadSet) : ThreadSet := { t with fcsr := t.fcsr ||| (fl.setWidth 64 <<< 3) }

/-- The doldrums check of a result with count `t` (R81, R82); `sigctl` counts as disabled in the supervisor (R347). -/
def ThreadSet.fails (t : ThreadSet) (count : Nat) : Bool :=
  !t.inSup && t.sigctl.getLsbD 8 && decide (count < (t.sigctl.setWidth 6 : BitVec 6).toNat)

/-- `tval` of a doldrums trap (R83). -/
def doldrumsVal (tcc tcb tca tcr cls lane dst : Nat) : Word :=
  BitVec.ofNat 64 (tcc * 2 ^ 34 + tcb * 2 ^ 28 + tca * 2 ^ 22 + tcr * 2 ^ 16 + cls * 2 ^ 10 + lane * 2 ^ 8 + dst)

/-- The number of a data field (R34). -/
def Opnd.field : Opnd → Nat
  | .reg n => n.toNat
  | .port p => p.number

/-! ### Residue words (R63 to R65) -/

/-- The residue word of an integer (R63). -/
def residueOf (x : Int) : Nat := (x % 257).toNat * 65536 + (x % 256).toNat * 256 + (x % 255).toNat

/-- The integer of a residue word (R64, R65). -/
def residueVal (w : Nat) : Int :=
  let a := w % 256 % 255
  let b := w / 256 % 256
  let c := w / 65536 % 512 % 257
  let M := 255 * 256 * 257
  let X := (a * (256 * 257) * 128 + b * (255 * 257) * 255 + c * (255 * 256) * 129) % M
  if X ≤ 8388479 then X else (X : Int) - M

end Sys2Proof.Machine
end

