-- ==== Sys2Proof/Machine/Control.lean ====
section
/-! DEFINITION. The device's control space (R380, R381): launch windows (R105, R108), carousel control blocks and the tables that the
arbiters take in (R214, R215, R398, R399), Slipstream control blocks with the records written to their rings (R371 to R373), and the
management mailbox (R380). -/
namespace Sys2Proof.Machine

/-- The firmware was rejected: only the mailbox answers (R384). -/
def State.recovery (s : State) : Bool := s.bringUp == 2 && !s.fwOk

/-! ### Launch windows -/

/-- A launch window; unbound at reset (R105). -/
def State.window (s : State) (w : Nat) : Window := Map.get Window.start s.windows w

/-- The state with window `w` replaced. -/
def State.setWindow (w : Nat) (x : Window) (s : State) : State := { s with windows := Map.set w x s.windows }

/-- A refusal or drop recorded in `lstat` (R108). -/
def Window.note (code : Nat) (w : Window) : Window := { w with err := true, code := BitVec.ofNat 8 code }

/-- The record as it stands is committed: it enters the queue, or is dropped with code 0x41 where the window is unbound or the queue
holds 16 (R105, R108). -/
def Window.commit (w : Window) : Window :=
  let w := { w with seen := 0 }
  if w.bound.isNone || 16 ≤ w.queue.length then w.note 0x41
  else { w with queue := w.queue ++ [w.record], acc := w.acc + 1 }

/-- Bytes written from offset `off` of a window: those below 64 change the record being written, the rest are ignored, and completing
offsets 56 to 63 commits (R105). -/
def Window.put (off : Nat) (bytes : List Byte) (w : Window) : Window :=
  let w := (List.range bytes.length).foldl (fun (w : Window) k =>
    let o := off + k
    if o < 64 then
      { w with
        record := w.record.set o (bytes.getD k 0)
        seen := if 56 ≤ o then w.seen ||| ((1 : BitVec 8) <<< (o - 56)) else w.seen }
    else w) w
  if w.seen = 0xFF then w.commit else w

/-- A window unbound (R105): its queue goes; the record being written, with the bytes of 56 to 63 that no commit has followed yet, and `lstat`
stay. -/
def Window.unbind (w : Window) : Window :=
  match w.bound with
  | none => w
  | some id => { w with bound := none, queue := [], head := none, past := Map.set id.toNat w.acc w.past }

/-- A window bound to a context: its count goes on from what it accepted since the start of that context (R105, R108; log
entry 73). -/
def Window.bind (id : BitVec 12) (w : Window) : Window :=
  let w := w.unbind
  { w with bound := some id, queue := [], head := none, acc := Map.get 0 w.past id.toNat, past := Map.drop id.toNat w.past }

/-- The counts of records accepted begin anew with the start of a context, at any window (R108). -/
def Window.countAnew (id : BitVec 12) (w : Window) : Window :=
  { w with acc := if w.bound = some id then 0 else w.acc, past := Map.drop id.toNat w.past }

/-- A context starts: what the windows have accepted for it is counted from none (R108). -/
def State.countAnew (id : BitVec 12) (s : State) : State :=
  { s with windows := s.windows.map (fun w => (w.1, w.2.countAnew id)) }

/-- A write into a launch window, dropped until bring-up is complete (R105, R389). -/
def State.windowWrite (w off : Nat) (bytes : List Byte) (s : State) : State :=
  if s.mailbox.ready then s.setWindow w ((s.window w).put off bytes) else s

/-- `lstat` (R108). -/
def Window.lstat (w : Window) : Word :=
  BitVec.ofNat 64 (w.err.toNat * 2 ^ 63 + w.code.toNat * 2 ^ 40 + w.queue.length * 2 ^ 32 + w.acc.toNat)

/-! ### Carousels -/

/-- Carousel `k`, numbers taken modulo 4. -/
def State.car (s : State) (k : Nat) : Carousel := vget s.cars k

/-- The state with carousel `k` changed. -/
def State.updCar (k : Nat) (f : Carousel → Carousel) (s : State) : State := { s with cars := vset s.cars k (f (s.car k)) }

/-- The first 16 bytes of a descriptor (R104) as the arbiter checks them (R215); one with a bit of `sflags` set beside bit 0 is invalid (log
entry 69). -/
def descOf (bs : List Byte) : Option Desc :=
  let sva := leNat (bs.take 8)
  let frames := leNat ((bs.drop 8).take 2)
  let kind := (bs.getD 10 0).toNat
  let sflags := (bs.getD 11 0).toNat
  if sflags = 1 && 1 ≤ frames && frames ≤ 256 && kind ≤ 3 && sva % 256 = 0 && leNat ((bs.drop 12).take 4) = 0 then
    some ⟨sva, frames, kind⟩
  else none

/-- The number of a physical tile in the running partition. -/
def State.tileIndex (s : State) (t : Nat) : Nat := (s.ctx.tiles.findIdx? (· == t)).getD 0

/-- The place of the mask of tile `t` for a carousel and segment. -/
def State.maskKey (s : State) (t car seg : Nat) : Nat := s.tileIndex t * 16384 + car * 4096 + seg

/-- The carousel is bound to context `id` (R214). -/
def Carousel.boundTo (c : Carousel) (id : BitVec 12) : Bool := c.cbind.getLsbD 15 && c.cbind.setWidth 12 == id

/-- What carousel `car` reads with: the state as its bound context sees memory, running or saved (R214, R219); none where it is bound to no
context that stands. -/
def State.carView (s : State) (car : Nat) : Option State :=
  let c := s.car car
  if s.ctx.present && c.boundTo s.ctx.ctxid then some s
  else (s.saved.find? (fun v => c.boundTo v.ctx.ctxid)).map (fun v => { s with ctx := v.ctx })

/-- What carousel `car` reads at a virtual address; without a bound context nothing translates (log entry 68). -/
def State.carBytes (s : State) (car va n : Nat) : Except Nat (List Byte) :=
  match s.carView car with
  | some v => v.unitRead va n
  | none => .error 0x05

/-- What such a read meets at the homes is corrected (R154). -/
def State.carSeen (car va n : Nat) (s : State) : State :=
  match s.carView car with
  | some v => let w := v.unitSeen va n; { s with latent := w.latent, corrected := w.corrected }
  | none => s

/-- The `n` descriptors of the table at `va` as arbiter `car` copies them; one that faults is invalid and is logged (R215). -/
def State.copyTable (car va : Nat) : Nat → Nat → State → Map Desc × State
  | 0, _, s => ([], s)
  | n + 1, i, s =>
    let s := s.carSeen car (va + 32 * i) 16
    match s.carBytes car (va + 32 * i) 16 with
    | .ok bs =>
      let r := State.copyTable car va n (i + 1) s
      (match descOf bs with
       | some d => (i, d) :: r.1
       | none => r.1, r.2)
    | .error c => State.copyTable car va n (i + 1) (s.logEvent (BitVec.ofNat 64 car) (BitVec.ofNat 64 i) (BitVec.ofNat 64 c))

/-- An idle arbiter wakes: its first turn comes 64 ticks after the event (R399). -/
def State.wakeCar (car : Nat) (s : State) : State :=
  s.updCar car (fun c => if c.idle then { c with idle := false, wakeAt := s.tick + 64 } else c)

/-- `clen` written: taken only while it is 0 and not above 4,096; the table is taken in, and the arbiter starts idle with its FIFO
empty and its pointer at floor(S/2) (R214, R215, R398). -/
def State.clenPut (car : Nat) (v : Nat) (s : State) : State :=
  if (s.car car).clen ≠ 0 || 4096 < v || v = 0 then s
  else
    let r := State.copyTable car (s.car car).ctab.toNat v 0 s
    r.2.updCar car (fun c => { c with clen := v, table := r.1, fifo := [], ptr := v / 2, idle := true, lastPromoted := none })

/-- `ncmt` written: 1 starts the copy of the next table, any other value is ignored (R214, R215), and so is a 1 while a commit is pending (log
entry 69). The copy reads the table here, and waits for its turn while `clen` is 0 (log entry 73). -/
def State.ncmtPut (car : Nat) (v : Nat) (s : State) : State :=
  if v = 1 && !(s.car car).ncmt then
    let r := State.copyTable car (s.car car).ntab.toNat (s.car car).nlen 0 s
    (r.2.updCar car (fun c => { c with ncmt := true, copying := some (c.ntab, c.nlen, r.1), copied := false })).wakeCar car
  else s

/-- The control block of a carousel as 64 bytes (R214). -/
def Carousel.block (c : Carousel) : List Byte :=
  leBytes 8 c.ctab.toNat ++ leBytes 2 c.clen ++ leBytes 2 c.cbind.toNat ++ leBytes 4 c.cgap ++ leBytes 8 c.ntab.toNat ++
  leBytes 2 c.nlen ++ leBytes 1 c.ncmt.toNat ++ leBytes 5 0 ++ leBytes 8 c.cslots.toNat ++ leBytes 24 0

/-- Whether a write of `n` bytes at `off` touches the field of `m` bytes at `f`. -/
def touches (off n f m : Nat) : Bool := decide (off < f + m) && decide (f < off + n)

/-- The `m` bytes at `f` of `old` after `bytes` are written at `off`. -/
def overlay (old : List Byte) (off : Nat) (bytes : List Byte) (f m : Nat) : Nat :=
  leNat ((List.range m).map (fun k =>
    if off ≤ f + k && f + k < off + bytes.length then bytes.getD (f + k - off) 0 else old.getD (f + k) 0))

/-- The tiles of the running context whose masks of carousel `car` are nonzero, by segment (R220). -/
def State.countsOf (s : State) (car : Nat) : Map (List Nat) :=
  s.ctx.masks.foldl (fun m e =>
    if e.1 % 16384 / 4096 = car then
      let seg := e.1 % 4096
      Map.set seg (Map.get [] m seg ++ [s.ctx.tiles.getD (e.1 / 16384) 0]) m
    else m) []

/-- `cbind` of a carousel written (R214). The arbiter's state is its context's (R216): a binding to another context begins with no slot opened,
an empty FIFO and the counts of that context's masks (log entry 68). The carousel's previous opening stays (R218, R399). -/
def State.bindCar (car : Nat) (b : BitVec 16) (s : State) : State :=
  let id : BitVec 12 := b.setWidth 12
  let counts := if s.ctx.ctxid = id then s.countsOf car else []
  let s := s.updCar car (fun c =>
    if c.cbind.setWidth 12 = id then { c with cbind := b }
    else { c with
      cbind := b, cslots := 0, counts := counts, fifo := [], ptr := c.clen / 2, idle := counts.isEmpty, lastPromoted := none })
  s.ctx.tiles.foldl (fun s t => s.trimWays t) s

/-- A write into the control block of a carousel (R214): each field it touches takes the value by its own rule. `cbind` changes only
while no context runs or the partition stands at a calm point. A `ctab` or `ntab` that is not 32-aligned is kept and used as written (log
entry 69). -/
def State.carWrite (car off : Nat) (bytes : List Byte) (s : State) : State :=
  let old := (s.car car).block
  let n := bytes.length
  let field := overlay old off bytes
  let s := if touches off n 0 8 && (s.car car).clen = 0 then s.updCar car (fun c => { c with ctab := BitVec.ofNat 64 (field 0 8) }) else s
  let s := if touches off n 10 2 && (!s.ctx.present || s.ctx.stopped) then
      s.bindCar car (BitVec.ofNat 16 (field 10 2) &&& 0x8FFF)
    else s
  let s := if touches off n 12 4 then s.updCar car (fun c => { c with cgap := field 12 4 }) else s
  let s := if touches off n 16 8 then s.updCar car (fun c => { c with ntab := BitVec.ofNat 64 (field 16 8) }) else s
  let s := if touches off n 24 2 && field 24 2 ≤ 4096 then s.updCar car (fun c => { c with nlen := field 24 2 }) else s
  let s := if touches off n 8 2 then s.clenPut car (field 8 2) else s
  if touches off n 26 1 then s.ncmtPut car (field 26 1) else s

/-! ### Slipstream -/

/-- The Slipstream control block of a chiplet (R371). -/
def State.slip (s : State) (c : Nat) : Slip := Map.get Slip.start s.slips c

/-- The block as 64 bytes (R371). -/
def Slip.block (b : Slip) : List Byte :=
  leBytes 8 b.base.toNat ++ leBytes 4 b.size ++ leBytes 4 b.pcn ++ leBytes 8 b.head.toNat ++ leBytes 8 b.tail.toNat ++
  (b.bsel.toList.flatMap (fun x => leBytes 4 x.toNat)) ++ leBytes 1 b.en.toNat ++ leBytes 15 0

/-- A write into a Slipstream control block (R371); `slhead` is read-only and counts from the enable. An `slbase` that is not 4 KiB-aligned and an
`slsize` that is none of R371's are stored and used as written (log entry 77). -/
def State.slipWrite (c off : Nat) (bytes : List Byte) (s : State) : State :=
  let b := s.slip c
  let n := bytes.length
  let field := overlay b.block off bytes
  let b' : Slip := { b with
    base := if touches off n 0 8 then BitVec.ofNat 64 (field 0 8) else b.base
    size := if touches off n 8 4 then field 8 4 else b.size
    pcn := if touches off n 12 4 then field 12 4 else b.pcn
    tail := if touches off n 24 8 then BitVec.ofNat 64 (field 24 8) else b.tail
    bsel := if touches off n 32 16 then Vector.ofFn (fun i => BitVec.ofNat 32 (field (32 + 4 * i.val) 4)) else b.bsel
    en := if touches off n 48 1 then BitVec.ofNat 4 (field 48 1) else b.en }
  let b' := if b'.en.getLsbD 0 && !b.en.getLsbD 0 then { b' with head := 0 } else b'
  { s with slips := Map.set c b' s.slips }

/-- The ring holds an unconsumed record in every place (R373). -/
def Slip.full (b : Slip) : Bool := decide (b.size ≤ (b.head - b.tail).toNat)

/-- A record written to the ring of chiplet `c` (R371). -/
def State.slipPut (c : Nat) (r : SlipRec) (s : State) : State :=
  let b := s.slip c
  let a := b.base.toNat + 32 * (b.head.toNat % max b.size 1)
  let s := s.homeWrite a (leBytes 8 r.w0.toNat ++ leBytes 8 r.w1.toNat ++ leBytes 8 r.w2.toNat ++ leBytes 8 r.w3.toNat)
  { s with slips := Map.set c { b with head := b.head + 1 } s.slips }

/-- The tile's buffered records go to the ring while it has room, in the order made (R372, R373). -/
def State.slipFlush (t : Nat) : Nat → State → State
  | 0, s => s
  | n + 1, s =>
    match (s.tile t).slip with
    | [] => s
    | r :: rs =>
      if (s.slip (t / 256)).full then s
      else State.slipFlush t n ((s.slipPut (t / 256) r).updTile t (fun tl => { tl with slip := rs }))

/-- Dword 1 of a record (R372). -/
def State.slipHead (s : State) (type le set : Nat) : Word :=
  BitVec.ofNat 64 (type * 2 ^ 60 + set * 2 ^ 58 + le * 2 ^ 40 + s.ctx.ctxid.toNat * 2 ^ 28 + s.tileOf le * 2 ^ 16)

/-- The loss record of tile `t` written to the ring, when records were lost (R373). Its set and LE fields name no set or element, so they are
free (log entry 4). -/
def State.lossPut (t : Nat) (s : State) : State :=
  let tl := s.tile t
  if 0 < tl.lost then
    let r := s.freshFree
    let le := (Config.freeByte r.1 0).toNat + 256 * (Config.freeByte r.1 1).toNat + 65536 * ((Config.freeByte r.1 2).toNat % 4)
    let set := (Config.freeByte r.1 3).toNat % 4
    let w1 := BitVec.ofNat 64 (4 * 2 ^ 60 + set * 2 ^ 58 + le * 2 ^ 40 + s.ctx.ctxid.toNat * 2 ^ 28 + t * 2 ^ 16)
    (r.2.updTile t (fun tl => { tl with lost := 0 })).slipPut (t / 256) ⟨s.timebase, w1, BitVec.ofNat 64 tl.lost, 0⟩
  else s

/-- Tile `t` writes while the ring has room: a loss record first, then its buffered records (R373). -/
def State.slipWriteOut (t : Nat) (s : State) : State :=
  if (s.slip (t / 256)).full then s else (s.lossPut t).slipFlush t 32

/-- A record made by tile `t` (R372): it enters the tile's buffer, and is lost where the buffer holds 32 or the ring is full (R373). Whether the
tile writes to the ring at once is timing, so it is free (log entry 10). -/
def State.record (t : Nat) (r : SlipRec) (s : State) : State :=
  let s := s.updTile t (fun tl =>
    if (s.slip (t / 256)).full || 32 ≤ tl.slip.length then { tl with lost := tl.lost + 1 } else { tl with slip := tl.slip ++ [r] })
  let f := s.freshFree
  if Config.freeBit f.1 then f.2.slipWriteOut t else f.2

/-- Whether records of kind `bit` are made on the chiplet of element `le` (R371). -/
def State.slipOn (s : State) (le bit : Nat) : Bool :=
  let b := s.slip (s.tileOf le / 256)
  b.en.getLsbD 0 && b.en.getLsbD bit

/-- The branch record of a taken branch or jump of the issuing set, when its element is selected (R372). -/
def State.branchRecord (source target : Word) (s : State) : State :=
  let le := s.cur.1
  if s.slipOn le 3 && (s.slip (s.tileOf le / 256)).bsel.toList.any (fun x => x.toNat == le) then
    s.record (s.tileOf le) ⟨s.timebase, s.slipHead 2 le s.cur.2, source, target⟩
  else s

/-! ### The mailbox and the whole space -/

/-- Writing `mbcmd` starts a command (R380), in the place of one that is busy (log entry 77). -/
def State.mbcmdPut (v : Word) (s : State) : State :=
  { s with mailbox := { s.mailbox with cmd := v, busy := true } }

/-- Argument bytes of the mailbox, offsets 0x010 to 0x0FF (R380). -/
def Mailbox.putArgs (off : Nat) : List Byte → Mailbox → Mailbox
  | [], m => m
  | b :: bs, m => Mailbox.putArgs (off + 1) bs (if 0x10 ≤ off && off < 0x100 then { m with args := Map.set off b m.args } else m)

/-- A write of `bytes`, none past the 64-byte block of `off`, at an offset of the control space (R380); unlisted offsets ignore writes. -/
def State.ctlPut (off : Nat) (bytes : List Byte) (s : State) : State :=
  if off < 0x1000 then
    let s := { s with mailbox := s.mailbox.putArgs off bytes }
    if off = 0 && 8 ≤ bytes.length then s.mbcmdPut (BitVec.ofNat 64 (leNat (bytes.take 8))) else s
  else if s.recovery then s
  else if 0x10000 ≤ off && off < 0x12000 then s.windowWrite ((off - 0x10000) / 128) (off % 128) bytes
  else if 0x20000 ≤ off && off < 0x20100 then s.carWrite ((off - 0x20000) / 64) (off % 64) bytes
  else if 0x30000 ≤ off && off < 0x30400 then s.slipWrite ((off - 0x30000) / 64) (off % 64) bytes
  else s

/-- `bytes` at `off` cut at every multiple of 64. -/
def blocks64 (off : Nat) (bytes : List Byte) : List (Nat × List Byte) :=
  (List.range ((off % 64 + bytes.length + 63) / 64)).map (fun k =>
    let lo := 64 * k - off % 64
    (off + lo, (bytes.drop lo).take (64 - (off + lo) % 64)))

/-- A write of `bytes` at an offset of the control space (R380): each 64-byte block takes its part, in rising order (log entry 60). -/
def State.ctlWrite (off : Nat) (bytes : List Byte) (s : State) : State :=
  (blocks64 off bytes).foldl (fun s p => s.ctlPut p.1 p.2) s

/-- The byte at an offset of the control space (R380); unlisted offsets read zero. The event log shows the events held, in bytes that are free
(log entry 45). -/
def State.ctlByte (s : State) (off : Nat) : Byte :=
  if off < 0x1000 then
    if 8 ≤ off && off < 16 then
      (leBytes 8 (s.mailbox.busy.toNat * 2 ^ 63 + s.mailbox.ready.toNat * 2 ^ 62 + s.mailbox.result.toNat)).getD (off - 8) 0
    else if off < 8 then (leBytes 8 s.mailbox.cmd.toNat).getD off 0
    else if 0x100 ≤ off then Config.eventLogByte s.mailbox.log (off - 0x100)
    else Map.get 0 s.mailbox.args off
  else if s.recovery then 0
  else if 0x10000 ≤ off && off < 0x12000 then
    let o := (off - 0x10000) % 128
    if 64 ≤ o && o < 72 then (leBytes 8 (s.window ((off - 0x10000) / 128)).lstat.toNat).getD (o - 64) 0 else 0
  else if 0x20000 ≤ off && off < 0x20100 then (s.car ((off - 0x20000) / 64)).block.getD (off % 64) 0
  else if 0x30000 ≤ off && off < 0x30400 then (s.slip ((off - 0x30000) / 64)).block.getD (off % 64) 0
  else 0

/-- The `n` bytes at an offset of the control space, and the state after: a read of `lstat` clears its `err` (R108). -/
def State.ctlRead (off n : Nat) (s : State) : List Byte × State :=
  let bs := (List.range n).map (fun k => s.ctlByte (off + k))
  if 0x10000 ≤ off && off < 0x12000 && touches (off % 128) n 64 8 then
    (bs, s.setWindow ((off - 0x10000) / 128) { s.window ((off - 0x10000) / 128) with err := false })
  else (bs, s)

end Sys2Proof.Machine
end

