-- ==== Sys2Proof/Machine/Access.lean ====
section
/-! DEFINITION. One memory access from its virtual address to its bytes: the address map (R127, R128), the local windows (R129), the
aperture (R132), translation and rights (R136, R144, R381), and loads and stores performed at once or put among the outstanding
operations (R145). -/
namespace Sys2Proof.Machine

/-- The rows of the address map (R127). -/
inductive Row where
  | own | ownHole | quad | aperture | apertureHole | all | global | unmapped
  deriving DecidableEq, Repr

/-- The row of an address (R127). -/
def rowOf (ea : Nat) : Row :=
  if ea < 0xC000 then .own
  else if ea < 0x10000 then .ownHole
  else if ea < 0x50000 then .quad
  else if 0x80000 ≤ ea && ea < 0xB0000 then .aperture
  else if 0xB0000 ≤ ea && ea < 0xC0000 then .apertureHole
  else if 0x8000000000 ≤ ea && ea < 0x8400000000 then .all
  else if 0x10000000000 ≤ ea && ea < 0x20000000000 then .global
  else .unmapped

/-- A local access of `n` bytes at offset `o` from the base of allotment `a` (R129): cause 0x08 at or beyond the layout size. -/
def localTarget (le : Nat) (a : Option Allot) (o n : Nat) : Except Nat Target :=
  match a with
  | none => .error 0x08
  | some a => if a.size < o + n then .error 0x08 else .ok ⟨.loc le (a.base + o), true, false⟩

/-- Which accesses reach the control space: ordinary loads and stores of 1 to 8 bytes and `vst` (R381). -/
inductive Reach where
  | ordinary | special
  deriving DecidableEq, Repr

/-- The control space as an access of `n` bytes at `off` sees it (R381): the launch windows, and from supervisor pages the carousel
control blocks. -/
def ctlAllowed (reach : Reach) (store : Bool) (off n : Nat) (supPage : Bool) : Bool :=
  reach == .ordinary && (n ≤ 8 || store) &&
  ((decide (0x10000 ≤ off) && decide (off + n ≤ 0x12000)) ||
   (supPage && decide (0x20000 ≤ off) && decide (off + n ≤ 0x20100)))

/-- Global memory (R136, R144, R381): a superblock that is present and allows the access serves without a translation; else the page
is translated and its rights tested. -/
def State.globalTarget (who : Issuer) (reach : Reach) (store : Bool) (ea n : Nat) (s : State) : Except Nat Target × State :=
  let t := s.tileOf who.le
  let viaPage : Unit → Except Nat Target × State := fun _ =>
    match s.translate t ea with
    | (none, s) => (.error (if store then 0x06 else 0x05), s)
    | (some e, s) =>
      if (if store then !e.wr else !e.rd) || (e.sup && !who.inSup) then (.error 0x07, s)
      else match e.place ea with
        | none => (.error 0x07, s)
        | some (.ctl off) => (if ctlAllowed reach store off n e.sup then .ok ⟨.ctl off, e.wr, e.sup⟩ else .error 0x07, s)
        | some p => (.ok ⟨p, e.wr, e.sup⟩, s)
  match s.superblock t s.ctx.asid ea with
  | some b => if (!store || b.wr) && (!b.sup || who.inSup) then (.ok ⟨.phys (b.pa + ea % 256), b.wr, b.sup⟩, s) else viaPage ()
  | none => viaPage ()

/-- The checks of an access of `n` bytes at `ea` after its alignment: R128, then R129, R132, R136 and R144 by the row. -/
def State.resolve (who : Issuer) (reach : Reach) (store : Bool) (ea n : Nat) (s : State) : Except Nat Target × State :=
  if 2 ^ 49 ≤ ea || rowOf ea ≠ rowOf (ea + n - 1) then (.error 0x07, s)
  else match rowOf ea with
    | .own => (localTarget who.le (s.allotOf who.le who.allot) ea n, s)
    | .ownHole => (.error 0x08, s)
    | .quad =>
      match s.leAt (s.physOf who.le / 4 * 4 + (ea - 0x10000) / 65536) with
      | some m => (localTarget m (s.allotOfType m who.ttype) (ea % 65536) n, s)
      | none => (.error 0x08, s)
    | .aperture =>
      if store || !s.windowsOn then (.error 0x07, s)
      else (.ok ⟨.win (s.tileOf who.le) (ea - 0x80000), false, false⟩, s)
    | .apertureHole => (.error 0x07, s)
    | .all =>
      let m := (ea - 0x8000000000) / 65536
      if s.nLe ≤ m then (.error 0x07, s)
      else (localTarget m (s.allotOfType m who.ttype) (ea % 65536) n, s)
    | .global => s.globalTarget who reach store ea n
    | .unmapped => (.error 0x07, s)

/-- The location of the byte at `ea` as an access of `who` would find it, whatever its rights (R130, R142): the windows and the mappings of a page are
only names for it. None where the address names no location. -/
def State.locate (who : Issuer) (ea : Nat) (s : State) : Option Nat :=
  match rowOf ea with
  | .global => match s.superblock (s.tileOf who.le) s.ctx.asid ea with
    | some b => some (b.pa + ea % 256)
    | none => ((s.translate (s.tileOf who.le) ea).1.bind (fun e => e.place ea)).map Place.key
  | _ => match (s.resolve who .special false ea 1).1 with
    | .ok t => some t.place.key
    | .error _ => none

/-- Whether `n` bytes at `a` and `m` bytes at `b` share a location, where neither range crosses a page of 64 KiB: every window and every mapping keeps
the order of the bytes in a page. -/
def State.sharesPlace (who : Issuer) (a n b m : Nat) (s : State) : Bool :=
  decide (a % 65536 < b % 65536 + m) && decide (b % 65536 < a % 65536 + n) &&
  (a / 65536 == b / 65536 || (match s.locate who a, s.locate who b with
    | some p, some q => p + b % 65536 == q + a % 65536
    | _, _ => false))

/-- Check (R156): alignment, then `resolve`. The error is the cause. -/
def State.check (who : Issuer) (reach : Reach) (store : Bool) (ea n al : Nat) (s : State) : Except Nat Target × State :=
  if ea % al ≠ 0 then (.error 0x04, s) else s.resolve who reach store ea n

/-! ### Performing -/

/-- Whether the element holds window buffer `b` of its tile pinned (R226). -/
def State.pinned (s : State) (le b : Nat) : Bool :=
  let w := vget (s.tile (s.tileOf le)).bufs b
  w.passPins.any (fun p => p.1 == le) || w.subPins.any (fun p => p.1 == le)

/-- The bytes of a load of a window buffer: as they stand while the element holds the buffer pinned, free otherwise (R132; log
entry 4). -/
def State.winBytes (le tile off n : Nat) (s : State) : List Byte × State :=
  if s.pinned le (off / 65536) then (s.peek (winPlace tile off) n, s)
  else
    let r := s.freshFree
    ((List.range n).map (fun k => Config.freeByte r.1 k), r.2)

/-- A load of `n` bytes performed now at its place, through the tile's L1 for global memory (R131, R132, R136, R137): the bytes, or
the address of the first poisoned byte (R155). -/
def State.loadNow (who : Issuer) (t : Target) (ea n : Nat) (s : State) : Except Nat (List Byte) × State :=
  match t.place with
  | .loc le off =>
    match firstPoison s.poison (locPlace le off) n with
    | some a => (.error (ea + (a - locPlace le off)), s)
    | none => (.ok (s.peek (locPlace le off) n), s)
  | .win tile off => let r := s.winBytes who.le tile off n; (.ok r.1, r.2)
  | .ctl off => let r := s.ctlRead off n; (.ok r.1, r.2)
  | .phys pa =>
    let tile := s.tileOf who.le
    let s := match s.hit tile s.ctx.asid ea false who.inSup with
      | some (b, _) => s.touch tile b
      | none => s.fill tile s.ctx.asid ea pa t.wr t.supPage
    match s.superblock tile s.ctx.asid ea with
    | some b =>
      let l := vget b.lines (ea / 64 % 4)
      match l.bad ea n with
      | some a => (.error a, s)
      | none => (.ok (l.bytes ea n), s)
    | none => (.ok (s.peek pa n), s)

/-- A store performed now at its place, through the tile's L1 for global memory (R137). -/
def State.storeNow (who : Issuer) (t : Target) (ea : Nat) (bs : List Byte) (s : State) : State :=
  match t.place with
  | .loc le off => s.poke (locPlace le off) bs
  | .win _ _ => s
  | .ctl off => s.ctlWrite off bs
  | .phys pa =>
    let tile := s.tileOf who.le
    let s := match s.hit tile s.ctx.asid ea true who.inSup with
      | some _ => s
      | none => s.fill tile s.ctx.asid ea pa t.wr t.supPage
    s.storeLine tile s.ctx.asid ea bs

/-- `bs` written at a place by an engine or at its home (R249, R306): local banks, or the L2 home. -/
def State.homeStore (p : Place) (bs : List Byte) (s : State) : State :=
  match p with
  | .phys pa => s.homeWrite pa bs
  | .loc le off => s.poke (locPlace le off) bs
  | _ => s

/-- The target `k` bytes on. -/
def Target.plus (t : Target) (k : Nat) : Target := { t with place := t.place.plus k }

/-- The bytes at a place as its home or bank holds them. -/
def State.homeBytes (s : State) (p : Place) (n : Nat) : List Byte := s.peek p.key n

/-! ### Outstanding operations (R145) -/

/-- The requests of `rdec` on the mesh that `p` holds of, with their counters: owner and offset (R119). -/
def State.rdecs (s : State) (p : Issuer → Bool) : List (Issuer × Nat × Nat) :=
  s.ctx.flights.filterMap (fun f => match f.2 with
    | .rdec w owner off => if p w then some (w, owner, off) else none
    | _ => none)

/-- The counted operations outstanding in an element: those that leave the quad (R145). -/
def Element.countedOps (e : Element) : Nat := (e.ops.filter (·.counted)).length

/-- Counted operations outstanding in a tile. -/
def State.tileOps (s : State) (t : Nat) : Nat :=
  s.ctx.elems.foldl (fun n e => if s.tileOf e.1 = t then n + e.2.countedOps else n) 0 + (s.rdecs (fun w => s.tileOf w.le == t)).length

/-- An element or tile limit is reached: the issue stalls (R145). -/
def State.opsFull (s : State) (le : Nat) : Bool :=
  decide (Config.elementOps ≤ (s.el le).countedOps + (s.rdecs (fun w => w.le == le)).length) ||
  decide (Config.tileOps ≤ s.tileOps (s.tileOf le))

/-- Set `k` has a memory operation outstanding (R145). -/
def State.setBusy (s : State) (le k : Nat) : Bool :=
  (s.el le).ops.any (fun o => o.set == k) || !(s.rdecs (fun w => w.le == le && w.set == k)).isEmpty

/-- A memory operation that set `k` issued before number `id` is outstanding. -/
def State.busyBefore (s : State) (le k id : Nat) : Bool :=
  (s.el le).ops.any (fun o => o.set == k && decide (o.id < id)) ||
  !(s.rdecs (fun w => w.le == le && w.set == k && decide (w.id < id))).isEmpty

/-- A parked `ldv` (R160, R361): its set waits with it. -/
def MemOp.parked (o : MemOp) : Bool :=
  match o.kind with
  | .ldv _ _ _ => true
  | _ => false

/-- The set's parked `ldv` is given up. -/
def State.dropParked (le k : Nat) (s : State) : State :=
  s.updEl le (fun e => { e with ops := e.ops.filter (fun o => !(o.set == k && o.parked)) })

/-- The operation is an acquire (R309). -/
def MemOp.acquires (o : MemOp) : Bool :=
  match o.kind with
  | .lda _ _ | .ldv _ _ _ => true
  | .atom _ _ _ _ ar => ar
  | _ => false

/-- An acquire of set `k` is outstanding: it is performed before any later access of the set (R309). -/
def State.acquiring (s : State) (le k : Nat) : Bool := (s.el le).ops.any (fun o => o.set == k && o.acquires)

/-- Both places lie in the control space, whose accesses by one thread keep their issue order (R381). -/
def Place.bothCtl (p q : Place) : Bool :=
  match p, q with
  | .ctl _, .ctl _ => true
  | _, _ => false

/-- Whether two places of `n` and `m` bytes share an 8-byte word, or are accesses that keep their order whatever their words. -/
def Place.meets (p q : Place) (n m : Nat) : Bool :=
  p.bothCtl q || decide (p.key / 8 ≤ (q.key + m - 1) / 8) && decide (q.key / 8 ≤ (p.key + n - 1) / 8)

/-- The words that an outstanding operation touches meet `n` bytes at `p`. -/
def MemOp.meets (o : MemOp) (p : Place) (n : Nat) : Bool :=
  match o.kind with
  | .vrst ws => ws.any (fun w => decide (p.key / 8 ≤ w) && decide (w ≤ (p.key + n - 1) / 8))
  | _ => o.place.meets p o.n n || o.planes.any (fun q => match q with
      | some (_, q) => q.place.meets p 1 n
      | none => false)

/-- The counter of an `rdec` from `who` as the owner finds it: its allotment and place (R119). One of the issuer's own element lies in its own
allotment, whatever window names it, also where the element holds another of the task type (log entry 76). -/
def State.counter (s : State) (who : Issuer) (owner off : Nat) : Option (Allot × Place) :=
  (if owner = who.le then s.allotOf owner who.allot else s.allotOfType owner who.ttype).map (fun a => (a, .loc owner (a.base + off)))

/-- An `rdec` of set `k` numbered below `id` that has not reached its owner meets `n` bytes at `p` (R303). -/
def State.rdecMeets (s : State) (le k id : Nat) (p : Place) (n : Nat) : Bool :=
  (s.rdecs (fun w => w.le == le && w.set == k && decide (w.id < id))).any (fun r => match s.counter r.1 r.2.1 r.2.2 with
    | some c => c.2.meets p 4 n
    | none => false)

/-- A later access of set `k` to `n` bytes at `p` must wait: an earlier operation on the same words is outstanding (R303), or an acquire is
(R309). -/
def State.behind (s : State) (le k : Nat) (p : Place) (n : Nat) : Bool :=
  (s.el le).ops.any (fun o => o.set == k && (o.acquires || o.meets p n)) || s.rdecMeets le k s.nextId p n

/-- Whether an ordinary access is served within the quad or by a present line, and so is not counted (R131, R145). One to the control space
never is (R381). -/
def State.servedNow (s : State) (who : Issuer) (t : Target) (ea : Nat) (store : Bool) : Bool :=
  match t.place with
  | .loc le _ => s.quadOf le == s.quadOf who.le
  | .phys _ => (s.hit (s.tileOf who.le) s.ctx.asid ea store who.inSup).isSome
  | .win _ _ => true
  | .ctl _ => false

/-- Whether an access that is served now is performed later all the same, for the accesses of a party to different locations are unordered as
others see them (R305): as `choices` says (log entry 1). A window buffer, which no store changes, is read at once. -/
def State.defers (t : Target) (s : State) : Bool × State :=
  match t.place, s.choices with
  | .win _ _, _ | _, [] => (false, s)
  | _, c :: cs => (c != 0, { s with choices := cs })

/-- An operation joins the element's outstanding ones. -/
def State.addOp (o : MemOp) (s : State) : State :=
  s.updEl s.cur.1 (fun e => { e with ops := e.ops ++ [o] })

/-- An operation leaves them. -/
def State.dropOp (le id : Nat) (s : State) : State :=
  s.updEl le (fun e => { e with ops := e.ops.filter (fun o => o.id != id) })

/-- The trap of a failed check: an instruction's cause with the address (R144). -/
def State.memTrap (cause : Nat) (ea : Nat) (s : State) : Host.Outcome State Fault Refusal :=
  s.trap cause (BitVec.ofNat 64 ea)

/-- The value that loaded bytes give (R157). -/
def loadG (form : LoadForm) (bs : List Byte) : Word :=
  match form with
  | .sx =>
    let n := bs.length
    let x := leNat bs
    BitVec.ofNat 64 (if 2 ^ (8 * n - 1) ≤ x then x + (2 ^ 64 - 2 ^ (8 * n)) else x)
  | _ => BitVec.ofNat 64 (leNat bs)

/-- The count that plane bytes give a loaded value, by granule: a granule outside every window, or without a plane, keeps the full
count (R78, R158). -/
def planeCount (full : Nat) (ps : List (Option Byte)) : Nat :=
  ps.foldl (fun c p => match p with
    | some b => min c (b.toNat % 64)
    | none => c) full

/-- The write that a load makes of register or port `o` (R157, R158). `ps` holds the plane byte of each granule. A NaN that is loaded has the count
of any other value (log entry 76). -/
def loadWrite (o : Opnd) (form : LoadForm) (bs : List Byte) (ps : List (Option Byte)) : RegWrite :=
  match form with
  | .zx | .sx => outG o (loadG form bs)
  | .f32 => outF o ⟨BitVec.ofNat 64 (leNat bs), planeCount 24 ps⟩
  | .f64 => outF o ⟨BitVec.ofNat 64 (leNat bs), planeCount 53 ps⟩
  | .v128 => outV o ⟨BitVec.ofNat 128 (leNat bs), Vector.ofFn (fun k => planeCount 24 [(ps.getD k.val none)])⟩

/-- The class of the data register of a load or store. -/
def LoadForm.cls : LoadForm → Cls
  | .zx | .sx => .g
  | .f32 | .f64 => .f
  | .v128 => .v

/-- Some word of the `n` bytes at `ea` lets the issuing set's read wait (R303, R309), or is a counted access beyond the limits (R145). -/
def State.structBehind (ea n : Nat) (s : State) : Bool :=
  (List.range ((n + 3) / 4)).any (fun k => match (s.resolve (s.issuer 0) .special false (ea + 4 * k) 4).1 with
    | .ok t => s.behind s.cur.1 s.cur.2 t.place 4 || (s.opsFull s.cur.1 && !s.servedNow (s.issuer 0) t (ea + 4 * k) false)
    | .error _ => false)

/-- The `n` pieces of `c` bytes of a structure at `ea`, each resolved (R156): their addresses and targets, or a cause with its address. -/
def State.resolveStruct (who : Issuer) (ea c : Nat) : Nat → State → Except (Nat × Nat) (List (Nat × Target)) × State
  | 0, s => (.ok [], s)
  | n + 1, s =>
    match s.resolve who .special false ea c with
    | (.error e, s) => (.error (e, ea), s)
    | (.ok t, s) =>
      match State.resolveStruct who (ea + c) c n s with
      | (.ok ts, s) => (.ok ((ea, t) :: ts), s)
      | r => r

/-- Resolved pieces of `c` bytes read in turn: the bytes, or 0x0F with the address of a poisoned one (R155). -/
def State.loadStruct (who : Issuer) (c : Nat) : List (Nat × Target) → State → Except (Nat × Nat) (List Byte) × State
  | [], s => (.ok [], s)
  | (ea, t) :: ts, s =>
    match s.loadNow who t ea c with
    | (.error a, s) => (.error (0x0F, a), s)
    | (.ok bs, s) =>
      match State.loadStruct who c ts s with
      | (.ok rest, s) => (.ok (bs ++ rest), s)
      | r => r

/-- Several bytes read `c` at a time, for the structures of R156: every piece is checked before the first is read. -/
def State.readStruct (who : Issuer) (ea c n : Nat) (s : State) : Except (Nat × Nat) (List Byte) × State :=
  match s.resolveStruct who ea c n with
  | (.error e, s) => (.error e, s)
  | (.ok ts, s) => s.loadStruct who c ts

/-- The trust window that decides for an address (R77, R158): its plane address. -/
def State.planeOf (s : State) (ea : Nat) : Option Nat :=
  (s.ctx.trust.toList.find? (fun w => w.2.1 != 0 && decide (w.1 ≤ ea) && decide (ea < w.1 + w.2.1))).map (fun w => w.2.2 + (ea - w.1) / 4)

/-- The tracked region test (R149). -/
def State.isTracked (s : State) (ea : Nat) : Bool :=
  s.ctx.tracked.toList.any (fun r => decide (r.1 ≤ ea) && decide (ea < r.1 + r.2))

/-- One bump of the version of the tracked word at virtual address `ea` and place `p` after an engine's write (R150). -/
def State.engineBump (ea : Nat) (p : Place) (s : State) : State :=
  if s.isTracked ea then s.bump p.key else s

end Sys2Proof.Machine
end

