-- ==== Sys2Proof/Machine/LoadStore.lean ====
section
/-! DEFINITION. Ordinary and tagged loads and stores (R157, R158). An access that its quad or a present line serves is performed at once;
any other joins the outstanding operations, with a load's destination pending (R145). -/
namespace Sys2Proof.Machine

/-- The address g[a] + sext(off12) × n (R157). -/
def memAddr (base : Word) (off : BitVec 12) (n : Nat) : Nat := (base + off.signExtend 64 * BitVec.ofNat 64 n).toNat

/-- The checks of the plane bytes of a tagged access, granule by granule from `k` up (R158): the plane address and place of each
granule that a window contains. The error is a cause with its address. -/
def State.planeTargets (who : Issuer) (store : Bool) (ea : Nat) : Nat → Nat → State →
    Except (Nat × Nat) (List (Option (Nat × Target))) × State
  | 0, _, s => (.ok [], s)
  | n + 1, k, s =>
    match s.planeOf (ea + 4 * k) with
    | none =>
      match s.planeTargets who store ea n (k + 1) with
      | (.ok ts, s) => (.ok (none :: ts), s)
      | r => r
    | some pb =>
      match s.check who .special store pb 1 1 with
      | (.error c, s) => (.error (c, pb), s)
      | (.ok t, s) =>
        match s.planeTargets who store ea n (k + 1) with
        | (.ok ts, s) => (.ok (some (pb, t) :: ts), s)
        | r => r

/-- The data access and, for a tagged one on global memory, its plane bytes, all checked (R157, R158). -/
def State.dataTargets (who : Issuer) (tagged store : Bool) (ea n : Nat) (s : State) :
    Except (Nat × Nat) (Target × List (Option (Nat × Target))) × State :=
  match s.check who (if tagged then .special else .ordinary) store ea n n with
  | (.error c, s) => (.error (c, ea), s)
  | (.ok t, s) =>
    if tagged && rowOf ea == .global then
      match s.planeTargets who store ea (n / 4) 0 with
      | (.ok ps, s) => (.ok (t, ps), s)
      | (.error e, s) => (.error e, s)
    else (.ok (t, []), s)

/-- The plane bytes of a tagged load read now; the error is the address of a poisoned byte. -/
def State.loadPlanes (who : Issuer) : List (Option (Nat × Target)) → State → Except Nat (List (Option Byte)) × State
  | [], s => (.ok [], s)
  | none :: ps, s =>
    match State.loadPlanes who ps s with
    | (.ok bs, s) => (.ok (none :: bs), s)
    | r => r
  | some (pb, t) :: ps, s =>
    match s.loadNow who t pb 1 with
    | (.error a, s) => (.error a, s)
    | (.ok bs, s) =>
      match State.loadPlanes who ps s with
      | (.ok rest, s) => (.ok (some (bs.getD 0 0) :: rest), s)
      | r => r

/-- The plane bytes of a tagged store written now. -/
def State.storePlanes (who : Issuer) : List (Option (Nat × Target)) → List Byte → State → State
  | some (pb, t) :: ps, b :: bs, s => State.storePlanes who ps bs (s.storeNow who t pb [b])
  | none :: ps, _ :: bs, s => State.storePlanes who ps bs s
  | _, _, s => s

/-- No plane byte goes with the access: a tagged one outside every window behaves as the untagged one (R78). -/
def untagged (ps : List (Option (Nat × Target))) : Bool := ps.all (·.isNone)

/-- The data access and its plane bytes are all served within the quad or by present lines: the access is not counted (R145). -/
def State.allServed (s : State) (who : Issuer) (t : Target) (ea : Nat) (ps : List (Option (Nat × Target))) (store : Bool) : Bool :=
  s.servedNow who t ea store && ps.all (fun p => match p with
    | some (pb, q) => s.servedNow who q pb store
    | none => true)

/-- Some word of the access or of its planes has an earlier outstanding operation of the set (R303). -/
def State.behindAny (s : State) (t : Target) (n : Nat) (ps : List (Option (Nat × Target))) : Bool :=
  s.behind s.cur.1 s.cur.2 t.place n || ps.any (fun p => match p with
    | some (_, q) => s.behind s.cur.1 s.cur.2 q.place 1
    | none => false)

/-- A load of `n` bytes into `d` (R157, R158). One with plane bytes joins the outstanding operations, which perform data and plane bytes as two
accesses (R79), and so may one that is served now (R305); into a port it is performed whole at issue (log entry 62). -/
def loadOp (form : LoadForm) (tagged : Bool) (n : Nat) (d : Opnd) (a : RegNo) (off : BitVec 12) (s : State) : Host.Outcome State Fault Refusal :=
  withIssue [(.g, .reg a)] [(form.cls, d)] (fun s =>
    let ea := memAddr (s.rg a) off n
    let who := s.issuer 0
    match s.dataTargets who tagged false ea n with
    | (.error e, s) => s.memTrap e.1 e.2
    | (.ok (t, ps), s) =>
      let wait := s.behindAny t n ps
      let served := s.allServed who t ea ps false
      match d with
      | .port _ =>
        if wait || (s.opsFull s.cur.1 && !served) then .next s
        else match s.loadNow who t ea n with
          | (.error x, s) => s.memTrap 0x0F x
          | (.ok bs, s) =>
            match s.loadPlanes who ps with
            | (.error x, s) => s.memTrap 0x0F x
            | (.ok cs, s) => .next ((s.write (loadWrite d form bs cs)).advance)
      | .reg r =>
        let now := !wait && served && untagged ps
        let c := if now then s.defers t else (false, s)
        if now && !c.1 then
          match c.2.loadNow who t ea n with
          | (.error x, s) => s.memTrap 0x0F x
          | (.ok bs, s) => .next ((s.write (loadWrite d form bs [])).advance)
        else if s.opsFull s.cur.1 && !served then .next s
        else
          let i := c.2.newId
          .next (((i.2.addOp ⟨i.1, s.cur.2, who.inSup, s.th.pc, ea, n, t.place, t.wr, t.supPage, ps,
            .load (form.cls.key r) form, false, Parts.none, !served⟩).mark (form.cls.key r) i.1).advance)) s

/-- The data and plane bytes that a store takes from `d` (R157, R158): a port delivers full counts (R35). -/
def State.storeData (form : LoadForm) (n : Nat) (d : Opnd) (s : State) : List Byte × List Byte × State :=
  match form with
  | .zx | .sx => let x := s.takeG d; (leBytes n x.1.toNat, [], x.2)
  | .f32 => let x := s.takeF 24 d; (leBytes n x.1.bits.toNat, [BitVec.ofNat 8 x.1.tc], x.2)
  | .f64 => let x := s.takeF 53 d; (leBytes n x.1.bits.toNat, [BitVec.ofNat 8 x.1.tc, BitVec.ofNat 8 x.1.tc], x.2)
  | .v128 => let x := s.takeV 24 d; (leBytes n x.1.bits.toNat, x.1.tc.toList.map (fun c => BitVec.ofNat 8 (min c 24)), x.2)

/-- A store of `n` bytes from `d` (R157, R158); one with plane bytes joins the outstanding operations (R79), and so may one that is served now
(R305). -/
def storeOp (form : LoadForm) (tagged : Bool) (n : Nat) (d : Opnd) (a : RegNo) (off : BitVec 12) (s : State) : Host.Outcome State Fault Refusal :=
  withIssue [(.g, .reg a), (form.cls, d)] [] (fun s =>
    let ea := memAddr (s.rg a) off n
    let who := s.issuer 0
    match s.dataTargets who tagged true ea n with
    | (.error e, s) => s.memTrap e.1 e.2
    | (.ok (t, ps), s) =>
      let x := s.storeData form n d
      let served := s.allServed who t ea ps true
      let now := !s.behindAny t n ps && served && untagged ps
      let c := if now then x.2.2.defers t else (false, x.2.2)
      if now && !c.1 then .next ((c.2.storeNow who t ea x.1).advance)
      else if s.opsFull s.cur.1 && !served then .next s
      else
        let i := c.2.newId
        .next ((i.2.addOp ⟨i.1, s.cur.2, who.inSup, s.th.pc, ea, n, t.place, t.wr, t.supPage, ps,
          .store (x.1 ++ x.2.1), false, Parts.none, !served⟩).advance)) s

/-- `LDN8` (R157). -/
def execLdn8 (d : Opnd) (a : RegNo) (off : BitVec 12) (s : State) : Host.Outcome State Fault Refusal :=
  loadOp .zx false 1 d a off s
/-- `LDI8` (R157). -/
def execLdi8 (d : Opnd) (a : RegNo) (off : BitVec 12) (s : State) : Host.Outcome State Fault Refusal :=
  loadOp .sx false 1 d a off s
/-- `LDN16` (R157). -/
def execLdn16 (d : Opnd) (a : RegNo) (off : BitVec 12) (s : State) : Host.Outcome State Fault Refusal :=
  loadOp .zx false 2 d a off s
/-- `LDI16` (R157). -/
def execLdi16 (d : Opnd) (a : RegNo) (off : BitVec 12) (s : State) : Host.Outcome State Fault Refusal :=
  loadOp .sx false 2 d a off s
/-- `LDN32` (R157). -/
def execLdn32 (d : Opnd) (a : RegNo) (off : BitVec 12) (s : State) : Host.Outcome State Fault Refusal :=
  loadOp .zx false 4 d a off s
/-- `LDI32` (R157). -/
def execLdi32 (d : Opnd) (a : RegNo) (off : BitVec 12) (s : State) : Host.Outcome State Fault Refusal :=
  loadOp .sx false 4 d a off s
/-- `LD64` (R157). -/
def execLd64 (d : Opnd) (a : RegNo) (off : BitVec 12) (s : State) : Host.Outcome State Fault Refusal :=
  loadOp .zx false 8 d a off s
/-- `ST8` (R157). -/
def execSt8 (d : Opnd) (a : RegNo) (off : BitVec 12) (s : State) : Host.Outcome State Fault Refusal :=
  storeOp .zx false 1 d a off s
/-- `ST16` (R157). -/
def execSt16 (d : Opnd) (a : RegNo) (off : BitVec 12) (s : State) : Host.Outcome State Fault Refusal :=
  storeOp .zx false 2 d a off s
/-- `ST32` (R157). -/
def execSt32 (d : Opnd) (a : RegNo) (off : BitVec 12) (s : State) : Host.Outcome State Fault Refusal :=
  storeOp .zx false 4 d a off s
/-- `ST64` (R157). -/
def execSt64 (d : Opnd) (a : RegNo) (off : BitVec 12) (s : State) : Host.Outcome State Fault Refusal :=
  storeOp .zx false 8 d a off s
/-- `FLD32` (R157). -/
def execFld32 (d : Opnd) (a : RegNo) (off : BitVec 12) (s : State) : Host.Outcome State Fault Refusal :=
  loadOp .f32 false 4 d a off s
/-- `FLD64` (R157). -/
def execFld64 (d : Opnd) (a : RegNo) (off : BitVec 12) (s : State) : Host.Outcome State Fault Refusal :=
  loadOp .f64 false 8 d a off s
/-- `FST32` (R157). -/
def execFst32 (d : Opnd) (a : RegNo) (off : BitVec 12) (s : State) : Host.Outcome State Fault Refusal :=
  storeOp .f32 false 4 d a off s
/-- `FST64` (R157). -/
def execFst64 (d : Opnd) (a : RegNo) (off : BitVec 12) (s : State) : Host.Outcome State Fault Refusal :=
  storeOp .f64 false 8 d a off s
/-- `FLDT32` (R158). -/
def execFldt32 (d : Opnd) (a : RegNo) (off : BitVec 12) (s : State) : Host.Outcome State Fault Refusal :=
  loadOp .f32 true 4 d a off s
/-- `FLDT64` (R158). -/
def execFldt64 (d : Opnd) (a : RegNo) (off : BitVec 12) (s : State) : Host.Outcome State Fault Refusal :=
  loadOp .f64 true 8 d a off s
/-- `FSTT32` (R158). -/
def execFstt32 (d : Opnd) (a : RegNo) (off : BitVec 12) (s : State) : Host.Outcome State Fault Refusal :=
  storeOp .f32 true 4 d a off s
/-- `FSTT64` (R158). -/
def execFstt64 (d : Opnd) (a : RegNo) (off : BitVec 12) (s : State) : Host.Outcome State Fault Refusal :=
  storeOp .f64 true 8 d a off s
/-- `VLD` (R157). -/
def execVld (d : Opnd) (a : RegNo) (off : BitVec 12) (s : State) : Host.Outcome State Fault Refusal :=
  loadOp .v128 false 16 d a off s
/-- `VST` (R157). -/
def execVst (d : Opnd) (a : RegNo) (off : BitVec 12) (s : State) : Host.Outcome State Fault Refusal :=
  storeOp .v128 false 16 d a off s
/-- `VLDT` (R158). -/
def execVldt (d : Opnd) (a : RegNo) (off : BitVec 12) (s : State) : Host.Outcome State Fault Refusal :=
  loadOp .v128 true 16 d a off s
/-- `VSTT` (R158). -/
def execVstt (d : Opnd) (a : RegNo) (off : BitVec 12) (s : State) : Host.Outcome State Fault Refusal :=
  storeOp .v128 true 16 d a off s

end Sys2Proof.Machine
end

