-- ==== Sys2Proof/Machine/Ordered.lean ====
section
/-! DEFINITION. Ordered loads and stores, tracked words, atomics and fences (R159 to R162, R315 to R318), and how outstanding memory
operations complete (R145, R131, R160): each performs whole at its L1, home or bank by R306. -/
namespace Sys2Proof.Machine

/-! ### Completion -/

/-- After a memory fault, each access that the set issued after the faulting one is performed or discarded, which is free (R144). -/
def State.dropLater (le set id : Nat) (s : State) : State :=
  ((s.el le).ops.filter (fun o => o.set == set && decide (id < o.id))).foldl (fun s o =>
    let r := s.freshFree
    if Config.freeBit r.1 then r.2.dropOp le o.id else r.2) s

/-- The set takes the fault of an operation, at the operation's pc (R143, R155); `frm`, `rpi` and `rpj` are those of the frame in which the set stands then
(R344; log entry 77). -/
def State.strike (le k : Nat) (f : LateFault) (s : State) : State :=
  (((s.dropParked le k).dropLater le k f.id).updThOf le k (fun t => { t with pc := f.pc })).trapAt le k f.cause (BitVec.ofNat 64 f.addr) none

/-- A fault waits for the suspended handler; the one of the earlier operation goes first. -/
def Suspended.note (f : LateFault) (u : Suspended) : Suspended :=
  { u with late := some (match u.late with
    | some g => if g.id < f.id then g else f
    | none => f) }

/-- A memory fault met after issue strikes the set that issued the operation while it runs the same handler (R143, R155); the fault of a
handler that a resumable trap has suspended waits until it goes on (log entry 70). -/
def State.lateTrap (le : Nat) (o : MemOp) (cause : Nat) (addr : Nat) (s : State) : State :=
  let t := s.thOf le o.set
  let s := s.updThOf le o.set (fun t => { t with pending := t.pending.filter (fun p => p.2.2 != o.id) })
  let f : LateFault := ⟨o.id, o.pc, cause, addr⟩
  if o.mute || t.run == .free then s
  else if t.inSup == o.inSup then s.strike le o.set f
  else if o.inSup then s
  else s.updThOf le o.set (fun t => { t with susp := t.susp.map (·.note f) })

/-- The issuer of an outstanding operation. -/
def MemOp.who (o : MemOp) (le : Nat) : Issuer := ⟨o.id, le, o.set, 0, 0, 0, o.inSup, false⟩

/-- Its place as a target. -/
def MemOp.target (o : MemOp) : Target := ⟨o.place, o.wr, o.supPage⟩

/-- Every operation that the set issued before `o` has completed (R308). -/
def State.firstOfSet (s : State) (le : Nat) (o : MemOp) : Bool := !s.busyBefore le o.set o.id

/-- Nothing that set `k` issued before number `id` touches the `n` bytes at `p` (R303). -/
def State.firstAt (s : State) (le k id : Nat) (p : Place) (n : Nat) : Bool :=
  !(s.el le).ops.any (fun o => o.set == k && decide (o.id < id) && o.meets p n) && !s.rdecMeets le k id p n

/-- No operation that the set issued before `o` touches its words (R303), and none of them is an acquire (R309). A `vrst` goes word by word. -/
def State.firstOnWords (s : State) (le : Nat) (o : MemOp) : Bool :=
  !(s.el le).ops.any (fun p => p.set == o.set && decide (p.id < o.id) && p.acquires) &&
  (match o.kind with
    | .vrst ws => ws.any (fun w => s.firstAt le o.set o.id (.phys (8 * w)) 8)
    | _ => s.firstAt le o.set o.id o.place o.n && (o.planes.filterMap (fun q => q.map (·.2.place))).all (fun q => s.firstAt le o.set o.id q 1))

/-- The tile's own copy of a word goes home before an access performed there (R315). -/
def State.flushOwn (le : Nat) (p : Place) (s : State) : State :=
  match p with
  | .phys pa => s.flushLine (s.tileOf le) pa
  | _ => s

/-- The write that the loaded value of a completing load makes. -/
def State.finishLoad (le : Nat) (o : MemOp) (d : RegKey) (form : LoadForm) (bs : List Byte) (ps : List (Option Byte)) (s : State) :
    State :=
  match d with
  | .g n => match loadWrite (.reg n) form bs ps with
    | .g _ x => s.finish le o.set o.id x
    | _ => s
  | .f n => match loadWrite (.reg n) form bs ps with
    | .f _ x => s.finishF le o.set o.id x
    | _ => s
  | .v n => match loadWrite (.reg n) form bs ps with
    | .v _ x => s.finishV le o.set o.id x
    | _ => s

/-- A truncated comparison of atomic operands as integers of `n` bytes (R315). -/
def atomSlt (n : Nat) (x y : Nat) : Bool :=
  (if 2 ^ (8 * n - 1) ≤ x then (x : Int) - 2 ^ (8 * n) else x) < (if 2 ^ (8 * n - 1) ≤ y then (y : Int) - 2 ^ (8 * n) else y)

/-- The new value of an atomic on `n` bytes (R315). -/
def atomNew (op : AtomOp) (n old b cmp : Nat) : Nat :=
  let m := 2 ^ (8 * n)
  match op with
  | .add => (old + b) % m
  | .and => old &&& b
  | .or => old ||| b
  | .xor => old ^^^ b
  | .min => if atomSlt n old b then old else b
  | .max => if atomSlt n old b then b else old
  | .minn => min old b
  | .maxn => max old b
  | .swp => b
  | .cas => if old = cmp then b else old

/-- An atomic performed at its home or bank as one action (R315): the old value, or the address of a poisoned byte. -/
def State.atomNow (le : Nat) (p : Place) (ea n : Nat) (op : AtomOp) (b cmp : Word) (s : State) : Except Nat Word × State :=
  let s := (s.flushOwn le p).correctLine p.key
  match firstPoison s.poison p.key n with
  | some a => (.error (ea + (a - p.key)), s)
  | none =>
    let m := 2 ^ (8 * n)
    let old := leNat (s.homeBytes p n)
    (.ok (BitVec.ofNat 64 old), s.homeStore p (leBytes n (atomNew op n old (b.toNat % m) (cmp.toNat % m))))

/-- A load with acquire (R159): at `.el`, `.qd` and `.tl` global memory is read in the tile's L1, wider at its home. -/
def State.ldaNow (who : Issuer) (t : Target) (ea n : Nat) (sc : Scope) (s : State) : Except Nat Word × State :=
  match t.place with
  | .phys pa =>
    if sc.rank < 3 then
      match s.loadNow who t ea n with
      | (.ok bs, s) => (.ok (BitVec.ofNat 64 (leNat bs)), s.acquire who.le sc)
      | (.error a, s) => (.error a, s)
    else
      let s := (s.flushOwn who.le t.place).correctLine pa
      match firstPoison s.poison pa n with
      | some a => (.error (ea + (a - pa)), s)
      | none => (.ok (BitVec.ofNat 64 (leNat (s.homeBytes t.place n))), s.acquire who.le sc)
  | _ =>
    match s.loadNow who t ea n with
    | (.ok bs, s) => (.ok (BitVec.ofNat 64 (leNat bs)), s.acquire who.le sc)
    | (.error a, s) => (.error a, s)

/-- The word of a tracked `ldv` read at its home or bank, and the acquire (R160). -/
def State.ldvNow (who : Issuer) (t : Target) (ea : Nat) (sc : Scope) (s : State) : Except Nat Word × State :=
  let s := (s.flushOwn who.le t.place).correctLine t.place.key
  match firstPoison s.poison t.place.key 8 with
  | some a => (.error (ea + (a - t.place.key)), s)
  | none => (.ok (BitVec.ofNat 64 (leNat (s.homeBytes t.place 8))), s.acquire who.le sc)

/-- A store with release (R159), after its release has been performed. -/
def State.stlNow (who : Issuer) (t : Target) (ea : Nat) (bs : List Byte) (sc : Scope) (s : State) : State :=
  let s := s.release who.le sc
  match t.place with
  | .phys _ => if sc.rank < 3 then s.storeNow who t ea bs else (s.flushOwn who.le t.place).homeStore t.place bs
  | _ => s.storeNow who t ea bs

/-- The version at a word's home has reached `x` within the forward half of the ring (R160). -/
def versionReached (version x : Byte) : Bool := decide ((version - x).toNat < 128)

/-- The parts of an access: its data, or the lower half of it; the upper half; the plane bytes. -/
inductive Part where
  | lo | hi | planes
  deriving DecidableEq, Repr

/-- A 16-byte access is two atomic halves (R304); a write of the control space stays one (log entry 62). -/
def MemOp.halved (o : MemOp) : Bool :=
  o.n == 16 && (match o.place with
    | .ctl _ => false
    | _ => true)

/-- The parts that an outstanding load or store has not performed (R79, R304). -/
def MemOp.rest (o : MemOp) : List Part :=
  (if o.parts.lo.isNone then [.lo] else []) ++ (if o.halved && o.parts.hi.isNone then [.hi] else []) ++
  (if o.planes.any (·.isSome) && o.parts.planes.isNone then [.planes] else [])

/-- The parts that it may perform next on their own: any, but the upper half of a load only after the lower one, for the issuing set has the
halves in ascending order (R157). -/
def MemOp.first (o : MemOp) : List Part :=
  match o.kind with
  | .load _ _ => o.rest.filter (fun p => p != .hi || o.parts.lo.isSome)
  | _ => o.rest

/-- Which of the operation's parts are performed in this step: all in their order, or one that may be next, as `choices` says (log entry 1). -/
def State.choose (o : MemOp) (s : State) : List Part × State :=
  match s.choices with
  | [] => (o.rest, s)
  | c :: cs =>
    if o.rest.length ≤ 1 then (o.rest, s)
    else (if c = 0 then o.rest else (o.first.drop ((c - 1) % o.first.length)).take 1, { s with choices := cs })

/-- Which of the words `ws` a `vrst` resets in this step: all, or one, as `choices` says (log entry 1). -/
def State.chooseWords (ws : List Nat) (s : State) : List Nat × State :=
  match s.choices with
  | [] => (ws, s)
  | c :: cs =>
    if ws.length ≤ 1 then (ws, s) else (if c = 0 then ws else (ws.drop ((c - 1) % ws.length)).take 1, { s with choices := cs })

/-- Parts of an outstanding load performed: what it has read by then, or the address of a poisoned byte (R155). -/
def State.loadParts (who : Issuer) (o : MemOp) : List Part → Parts → State → Except Nat Parts × State
  | [], q, s => (.ok q, s)
  | p :: ps, q, s =>
    let data := fun (k : Nat) (f : List Byte → Parts) =>
      match s.loadNow who (o.target.plus k) (o.ea + k) (if o.halved then 8 else o.n) with
      | (.error a, s) => (.error a, s)
      | (.ok bs, s) => State.loadParts who o ps (f bs) s
    match p with
    | .lo => data 0 (fun bs => { q with lo := some bs })
    | .hi => data 8 (fun bs => { q with hi := some bs })
    | .planes =>
      match s.loadPlanes who o.planes with
      | (.error a, s) => (.error a, s)
      | (.ok bs, s) => State.loadParts who o ps { q with planes := some bs } s

/-- Parts of an outstanding store performed: the state with what is done of it noted. -/
def State.storeParts (who : Issuer) (o : MemOp) (bs : List Byte) : List Part → Parts → State → Parts × State
  | [], q, s => (q, s)
  | p :: ps, q, s =>
    let size := if o.halved then 8 else o.n
    match p with
    | .lo => State.storeParts who o bs ps { q with lo := some [] } (s.storeNow who o.target o.ea (bs.take size))
    | .hi => State.storeParts who o bs ps { q with hi := some [] } (s.storeNow who (o.target.plus 8) (o.ea + 8) ((bs.drop 8).take size))
    | .planes => State.storeParts who o bs ps { q with planes := some [] } (s.storePlanes who o.planes (bs.drop o.n))

/-- What the outstanding operation `o` has performed. -/
def State.setParts (le : Nat) (o : MemOp) (q : Parts) (s : State) : State :=
  s.updEl le (fun e => { e with ops := e.ops.map (fun p => if p.id = o.id then { p with parts := q } else p) })

/-- An outstanding load goes on: it performs all its parts or one of them (R79, R304), and the register is written after the last. -/
def State.completeLoad (le : Nat) (o : MemOp) (d : RegKey) (form : LoadForm) (s : State) : State :=
  let c := s.choose o
  match c.2.loadParts (o.who le) o c.1 o.parts with
  | (.error a, s) => (s.dropOp le o.id).lateTrap le o 0x0F a
  | (.ok q, s) =>
    if c.1.length = o.rest.length then
      (s.dropOp le o.id).finishLoad le o d form (q.lo.getD [] ++ q.hi.getD []) (q.planes.getD [])
    else s.setParts le o q

/-- An outstanding store goes on: it performs all its parts or one of them (R79, R304). -/
def State.completeStore (le : Nat) (o : MemOp) (bs : List Byte) (s : State) : State :=
  let c := s.choose o
  let r := c.2.storeParts (o.who le) o bs c.1 o.parts
  if c.1.length = o.rest.length then r.2.dropOp le o.id else r.2.setParts le o r.1

/-- An outstanding `vrst` goes on (R162): of the words `ws` left, those that no earlier operation of the set touches are reset, or one of them, as
`choices` says (log entry 1), since resets of different words are unordered; it completes with the last. -/
def State.completeVrst (le : Nat) (o : MemOp) (ws : List Nat) (s : State) : State :=
  let free := ws.filter (fun w => s.firstAt le o.set o.id (.phys (8 * w)) 8)
  let c := s.chooseWords free
  let left := ws.filter (fun w => !c.1.contains w)
  let s := c.1.foldl (fun s w => s.setVersion (8 * w) 0) c.2
  if left.isEmpty then s.dropOp le o.id
  else s.updEl le (fun e => { e with ops := e.ops.map (fun p => if p.id = o.id then { p with kind := .vrst left } else p) })

/-- The outstanding operation `id` of element `le` completes, if its order lets it (R145, R303, R308): a load or store through the L1
or at a bank, the others by R306. -/
def State.completeOp (le id : Nat) (s : State) : State :=
  match (s.el le).ops.find? (fun o => o.id == id) with
  | none => s
  | some o =>
    let who := o.who le
    let done := s.dropOp le id
    if !s.firstOnWords le o then s
    else match o.kind with
      | .load d form => s.completeLoad le o d form
      | .store bs => s.completeStore le o bs
      | .lda _ sc =>
        match done.ldaNow who o.target o.ea o.n sc with
        | (.error a, s) => s.lateTrap le o 0x0F a
        | (.ok x, s) => s.finish le o.set o.id x
      | .stl bs sc => if s.firstOfSet le o then done.stlNow who o.target o.ea bs sc else s
      | .ldv d x sc =>
        if versionReached (s.version o.place.key) x then
          match done.ldvNow who o.target o.ea sc with
          | (.error a, s) => s.trapAt le o.set 0x0F (BitVec.ofNat 64 a) none
          | (.ok x, s) => match d with
            | .g r => (s.updThOf le o.set (fun t => t.wgIn o.inSup r x)).updThOf le o.set (·.advance)
            | _ => s
        else s
      | .stv x sc =>
        if s.firstOfSet le o then
          (((done.release le sc).flushOwn le o.place).homeStore o.place (leBytes 8 x.toNat)).bump o.place.key
        else s
      | .vrst ws => s.completeVrst le o ws
      | .atom op _ b cmp ar =>
        if ar && !s.firstOfSet le o then s
        else
          let s := if ar then done.release le .dv else done
          match s.atomNow le o.place o.ea o.n op b cmp with
          | (.error a, s) => s.lateTrap le o 0x0F a
          | (.ok x, s) => if ar then (s.finish le o.set o.id x).acquire le .dv else s.finish le o.set o.id x

/-- `MEMORY_OPERATION_COMPLETE` (R145): operation `k` of element `le`, other than a parked `ldv` and a remote local access. -/
def execMemoryOperationComplete (le k : Nat) (s : State) : Host.Outcome State Fault Refusal :=
  match (s.el le).ops.find? (fun o => o.id == k) with
  | some o => match o.place, o.kind with
    | .loc _ _, _ => .next s
    | _, .ldv _ _ _ => .next s
    | _, _ => .next (s.completeOp le k)
  | none => .next s

/-- `REMOTE_LOCAL_ACCESS` (R131): the target's port engine serves operation `k` of element `le`, without a thread set of the target. -/
def execRemoteLocalAccess (le k : Nat) (s : State) : Host.Outcome State Fault Refusal :=
  match (s.el le).ops.find? (fun o => o.id == k) with
  | some o => match o.place with
    | .loc _ _ => .next (s.completeOp le k)
    | _ => .next s
  | none => .next s

/-- `LDV_WAKE` (R160): the parked `ldv` number `k` of element `le` returns once the version is reached, and retires. -/
def execLdvWake (le k : Nat) (s : State) : Host.Outcome State Fault Refusal :=
  match (s.el le).ops.find? (fun o => o.id == k) with
  | some o => if o.parked && !s.ctx.stopped then .next (s.completeOp le k) else .next s
  | none => .next s

/-! ### Issue -/

/-- An operation of the issuing set put among the outstanding ones, its destination pending. -/
def State.issueOp (ea n : Nat) (t : Target) (kind : OpKind) (dst : Option RegKey) (s : State) : State :=
  let i := s.newId
  let s := i.2.addOp ⟨i.1, s.cur.2, s.th.inSup, s.th.pc, ea, n, t.place, t.wr, t.supPage, [], kind, false, Parts.none, true⟩
  match dst with
  | some k => s.mark k i.1
  | none => s

/-- Bytes of a width (R159). -/
def Width.bytes : Width → Nat
  | .w8 => 1
  | .w16 => 2
  | .w32 => 4
  | .w64 => 8

/-- `LDA` (R159). -/
def execLda (d : Opnd) (a : RegNo) (sc : Scope) (w : Width) (s : State) : Host.Outcome State Fault Refusal :=
  withIssue [(.g, .reg a)] [(.g, d)] (fun s =>
    let ea := (s.rg a).toNat
    let n := Width.bytes w
    match s.check (s.issuer 0) .special false ea n n with
    | (.error c, s) => s.memTrap c ea
    | (.ok t, s) =>
      match d with
      | .port _ =>
        if s.opsFull s.cur.1 || s.behind s.cur.1 s.cur.2 t.place n then .next s
        else match s.ldaNow (s.issuer 0) t ea n sc with
          | (.error x, s) => s.memTrap 0x0F x
          | (.ok x, s) => .next ((s.putG d x).advance)
      | .reg r =>
        if s.opsFull s.cur.1 then .next s
        else .next ((s.issueOp ea n t (.lda (.g r) sc) (some (.g r))).advance)) s

/-- `STL` (R159). -/
def execStl (d : Opnd) (a : RegNo) (sc : Scope) (w : Width) (s : State) : Host.Outcome State Fault Refusal :=
  withIssue [(.g, .reg a), (.g, d)] [] (fun s =>
    let ea := (s.rg a).toNat
    let n := Width.bytes w
    match s.check (s.issuer 0) .special true ea n n with
    | (.error c, s) => s.memTrap c ea
    | (.ok t, s) =>
      if s.opsFull s.cur.1 then .next s
      else
        let x := s.takeG d
        .next ((x.2.issueOp ea n t (.stl (leBytes n x.1.toNat) sc) none).advance)) s

/-- `LDV` (R160): it returns at once where the version has been reached; else it waits, parked at the home or, where it uses a port, at issue
with its places at the queues (R180). It retires when it returns (R361). -/
def execLdv (d : Opnd) (a : RegNo) (b : Opnd) (sc : Scope) (s : State) : Host.Outcome State Fault Refusal :=
  withIssue [(.g, .reg a), (.g, b)] [(.g, d)] (fun s =>
    let ea := (s.rg a).toNat
    match s.check (s.issuer 0) .special false ea 8 8 with
    | (.error c, s) => s.memTrap c ea
    | (.ok t, s) =>
      if !s.isTracked ea then s.memTrap 0x07 ea
      else
        let x := s.takeG b
        if s.opsFull s.cur.1 then .next s
        else if !s.behind s.cur.1 s.cur.2 t.place 8 && versionReached (s.version t.place.key) (x.1.setWidth 8) then
          match s.ldvNow (s.issuer 0) t ea sc with
          | (.error y, s) => s.memTrap 0x0F y
          | (.ok y, s) => .next (((s.takeG b).2.putG d y).advance)
        else match d, b with
          | .reg r, .reg _ => .next (s.issueOp ea 8 t (.ldv (.g r) (x.1.setWidth 8) sc) none)
          | _, _ => .next (s.holdPlaces s.cur.1 s.cur.2 (portNeeds (portUses [(.g, b)]) (portUses [(.g, d)])))) s

/-- `STV` (R161). -/
def execStv (d : Opnd) (a : RegNo) (sc : Scope) (s : State) : Host.Outcome State Fault Refusal :=
  withIssue [(.g, .reg a), (.g, d)] [] (fun s =>
    let ea := (s.rg a).toNat
    match s.check (s.issuer 0) .special true ea 8 8 with
    | (.error c, s) => s.memTrap c ea
    | (.ok t, s) =>
      if !s.isTracked ea then s.memTrap 0x07 ea
      else if s.opsFull s.cur.1 then .next s
      else
        let x := s.takeG d
        .next ((x.2.issueOp ea 8 t (.stv x.1 sc) none).advance)) s

/-- The words of `vrst` from `ea` up, page by page (R162): the word places, or a failed check with the words before its page. -/
def State.vrstWords (who : Issuer) : Nat → Nat → List Nat → Option Target → State →
    Except (Nat × Nat × List Nat) (List Nat) × State
  | 0, _, ws, _, s => (.ok ws, s)
  | n + 1, ea, ws, t, s =>
    match t with
    | some tg =>
      if ea % 65536 ≠ 0 then
        State.vrstWords who n (ea + 8) (ws ++ [(tg.place.plus 8).key / 8]) (some { tg with place := tg.place.plus 8 }) s
      else match s.check who .special true ea 8 8 with
        | (.error c, s) => (.error (c, ea, ws), s)
        | (.ok tg, s) => State.vrstWords who n (ea + 8) (ws ++ [tg.place.key / 8]) (some tg) s
    | none =>
      match s.check who .special true ea 8 8 with
      | (.error c, s) => (.error (c, ea, ws), s)
      | (.ok tg, s) => State.vrstWords who n (ea + 8) (ws ++ [tg.place.key / 8]) (some tg) s

/-- `VRST` (R162). Where a page fails its check, the words before it are reset first, after the set's earlier operations on them (R303). -/
def execVrst (a : RegNo) (b : Opnd) (s : State) : Host.Outcome State Fault Refusal :=
  withIssue [(.g, .reg a), (.g, b)] [] (fun s =>
    let ea := (s.rg a).toNat
    let x := s.takeG b
    let len := x.1.toNat
    if ea % 8 ≠ 0 then s.memTrap 0x04 ea
    else if len % 8 ≠ 0 then s.memTrap 0x04 len
    else if len = 0 then .next x.2.advance
    else if !((List.range (len / 8)).all (fun k => s.isTracked (ea + 8 * k))) then s.memTrap 0x07 ea
    else match s.vrstWords (s.issuer 0) (len / 8) ea [] none with
      | (.error (c, addr, ws), s) =>
        if ws.any (fun w => s.behind s.cur.1 s.cur.2 (.phys (8 * w)) 8) then .next s
        else (ws.foldl (fun s w => s.setVersion (8 * w) 0) s).memTrap c addr
      | (.ok ws, s) =>
        if s.opsFull s.cur.1 then .next s
        else
          let x := s.takeG b
          .next ((x.2.issueOp ea len ⟨.phys (8 * ws.headD 0), true, false⟩ (.vrst ws) none).advance)) s

/-- An atomic on `[a]` with operand `b` and comparand `cmp` (R315). One that uses a port is performed as it issues, and a poisoned word traps
before the port is popped (R35). -/
def atomOp (op : AtomOp) (d : Opnd) (a : RegNo) (b : Opnd) (rds : List (Cls × Opnd)) (cmp : State → Word) (w64 ar : Bool)
    (s : State) : Host.Outcome State Fault Refusal :=
  withIssue ((.g, .reg a) :: (.g, b) :: rds) [(.g, d)] (fun s =>
    let ea := (s.rg a).toNat
    let n := if w64 then 8 else 4
    match s.check (s.issuer 0) .special true ea n n with
    | (.error c, s) => s.memTrap c ea
    | (.ok t, s) =>
      let x := s.takeG b
      if s.opsFull s.cur.1 then .next s
      else match d, b with
      | .reg r, .reg _ =>
        .next (((x.2.flushOwn s.cur.1 t.place).issueOp ea n t (.atom op (some (.g r)) x.1 (cmp s) ar) (some (.g r))).advance)
      | _, _ =>
        if s.behind s.cur.1 s.cur.2 t.place n || (ar && s.setBusy s.cur.1 s.cur.2) then .next s
        else
          let s' := if ar then s.release s.cur.1 .dv else s
          match s'.atomNow s.cur.1 t.place ea n op x.1 (cmp s) with
          | (.error y, s) => s.memTrap 0x0F y
          | (.ok y, s) =>
            let s := (s.takeG b).2.putG d y
            .next ((if ar then s.acquire s.cur.1 .dv else s).advance)) s

/-- `AADD` (R315). -/
def execAadd (d : Opnd) (a : RegNo) (b : Opnd) (w64 ar : Bool) (s : State) : Host.Outcome State Fault Refusal :=
  atomOp .add d a b [] (fun _ => 0) w64 ar s
/-- `AAND` (R315). -/
def execAand (d : Opnd) (a : RegNo) (b : Opnd) (w64 ar : Bool) (s : State) : Host.Outcome State Fault Refusal :=
  atomOp .and d a b [] (fun _ => 0) w64 ar s
/-- `AOR` (R315). -/
def execAor (d : Opnd) (a : RegNo) (b : Opnd) (w64 ar : Bool) (s : State) : Host.Outcome State Fault Refusal :=
  atomOp .or d a b [] (fun _ => 0) w64 ar s
/-- `AXOR` (R315). -/
def execAxor (d : Opnd) (a : RegNo) (b : Opnd) (w64 ar : Bool) (s : State) : Host.Outcome State Fault Refusal :=
  atomOp .xor d a b [] (fun _ => 0) w64 ar s
/-- `AMIN` (R315). -/
def execAmin (d : Opnd) (a : RegNo) (b : Opnd) (w64 ar : Bool) (s : State) : Host.Outcome State Fault Refusal :=
  atomOp .min d a b [] (fun _ => 0) w64 ar s
/-- `AMAX` (R315). -/
def execAmax (d : Opnd) (a : RegNo) (b : Opnd) (w64 ar : Bool) (s : State) : Host.Outcome State Fault Refusal :=
  atomOp .max d a b [] (fun _ => 0) w64 ar s
/-- `AMINN` (R315). -/
def execAminn (d : Opnd) (a : RegNo) (b : Opnd) (w64 ar : Bool) (s : State) : Host.Outcome State Fault Refusal :=
  atomOp .minn d a b [] (fun _ => 0) w64 ar s
/-- `AMAXN` (R315). -/
def execAmaxn (d : Opnd) (a : RegNo) (b : Opnd) (w64 ar : Bool) (s : State) : Host.Outcome State Fault Refusal :=
  atomOp .maxn d a b [] (fun _ => 0) w64 ar s
/-- `ASWP` (R315). -/
def execAswp (d : Opnd) (a : RegNo) (b : Opnd) (w64 ar : Bool) (s : State) : Host.Outcome State Fault Refusal :=
  atomOp .swp d a b [] (fun _ => 0) w64 ar s
/-- `ACAS` (R315): the comparand is `g[d]`. -/
def execAcas (d a : RegNo) (b : Opnd) (w64 ar : Bool) (s : State) : Host.Outcome State Fault Refusal :=
  atomOp .cas (.reg d) a b [(.g, .reg d)] (fun s => s.rg d) w64 ar s

/-! ### Fences -/

/-- The engine commands of set `k` of element `le` that have not completed, by number (R316, R313). -/
def State.cmdsOf (s : State) (le k : Nat) : List Nat :=
  let mine := fun (w : Issuer) => w.le == le && w.set == k
  s.tiles.flatMap (fun t => ((t.2.copies.map (·.who)) ++ (t.2.mx.queue.map (·.who))).filterMap (fun w => if mine w then some w.id else none)) ++
  s.quads.flatMap (fun q => (q.2.wops.map (·.who)).filterMap (fun w => if mine w then some w.id else none)) ++
  s.ctx.flights.filterMap (fun f => match f.2 with
    | .matrix c _ => if mine c.who then some c.who.id else none
    | .query w _ _ => if mine w then some w.id else none
    | .rdec w _ _ => if mine w then some w.id else none
    | _ => none)

/-- An outstanding fence of the partition covers one of the commands `ids`: such a command runs on until the save (R360). -/
def State.fenced (s : State) (ids : List Nat) : Bool :=
  s.ctx.elems.any (fun e => e.2.sets.toList.any (fun t => t.fences.any (fun f => f.cmds.any (fun c => ids.contains c))))

/-- What a fence's kinds cover among the outstanding operations of its set (R316). -/
def MemOp.covered (o : MemOp) (st ld : Bool) : Bool :=
  match o.kind with
  | .load _ _ | .lda _ _ | .ldv _ _ _ => ld
  | .store _ | .stl _ _ | .stv _ _ | .vrst _ => st
  | .atom _ _ _ _ _ => st || ld

/-- `FENC` (R316): at most 4 outstanding; a fifth stalls. -/
def execFenc (d : RegNo) (ksmp kst kld : Bool) (sc : Scope) (s : State) : Host.Outcome State Fault Refusal :=
  withIssue [] [(.g, .reg d)] (fun s =>
    if Config.fencesOut ≤ s.th.fences.length then .next s
    else
      let i := s.newId
      let le := s.cur.1
      let ops := ((s.el le).ops.filter (fun o => o.set == s.cur.2 && o.covered kst kld)).map (·.id)
      let rec' : FenceRec := ⟨i.1, ksmp, kst, kld, sc, ops, if kst then s.cmdsOf le s.cur.2 else []⟩
      .next (((i.2.updTh (fun t => { t with fences := t.fences ++ [rec'] })).mark (.g d) i.1).advance)) s

/-- Sampler caches of the tiles inside a scope invalidated (R153). -/
def State.dropSamplers (le : Nat) (sc : Scope) (s : State) : State :=
  let t := s.tileOf le
  let inside : Nat → Bool := fun u =>
    match sc with
    | .el | .qd => false
    | .tl => u == t
    | .cp => u / 256 == t / 256
    | .dv | .sy => true
  { s with tiles := s.tiles.map (fun e => if inside e.1 then (e.1, { e.2 with sampler := [] }) else e) }

/-- The effects of a fence when all it covers has completed (R316). -/
def State.fenceEffect (le : Nat) (f : FenceRec) (s : State) : State :=
  let s := if f.st then s.release le f.scope else s
  let s := if f.ld then s.acquire le f.scope else s
  if f.smp then s.dropSamplers le f.scope else s

/-- `FENC_COMPLETE` (R316): fence number `k` of set `set` of element `le`, once every covered access and command has completed. -/
def execFencComplete (le set k : Nat) (s : State) : Host.Outcome State Fault Refusal :=
  match (s.thOf le set).fences.find? (fun f => f.id == k) with
  | none => .next s
  | some f =>
    if (s.el le).ops.any (fun o => f.ops.contains o.id) || (s.cmdsOf le set).any (fun c => f.cmds.contains c) then .next s
    else .next ((((s.fenceEffect le f).updThOf le set (fun t => { t with
        fences := t.fences.filter (fun g => g.id != k) }))).finish le set k 0)

/-- `FWAIT` (R317): waits for a pending register by the scoreboard, then retires. -/
def execFwait (a : RegNo) (s : State) : Host.Outcome State Fault Refusal :=
  withIssue [(.g, .reg a)] [] (fun s => .next s.advance) s

/-- What a `fence` of the set waits for (R318): as an acquire alone its earlier loads, else all its operations. -/
def State.fenceWaits (o : FenceOrder) (s : State) : Bool :=
  match o with
  | .acq => (s.el s.cur.1).ops.any (fun p => p.set == s.cur.2 && p.covered false true)
  | _ => s.setBusy s.cur.1 s.cur.2

/-- `FENCE` (R318): outside maintenance mode it raises 0x13; in it, the set stalls until the operations that it covers have completed, and then
the acquire, the release or both take effect. -/
def execFence (o : FenceOrder) (sc : Scope) (s : State) : Host.Outcome State Fault Refusal :=
  if !s.ctx.maint then s.trap 0x13 (instrVal (.fence o sc))
  else if s.fenceWaits o then .next s
  else
    let s := match o with
      | .acq => s
      | _ => s.release s.cur.1 sc
    .next ((match o with
      | .rel => s
      | _ => s.acquire s.cur.1 sc).advance)

end Sys2Proof.Machine
end

