-- ==== Sys2Proof/Machine/Allot.lean ====
section
/-! DEFINITION. Task types and handler tables as the dispatcher reads them (R86 to R95), and what an allotment needs and reserves on an
element (R112, R324). -/
namespace Sys2Proof.Machine

/-- A task type (R86) with its handler-table image (R91) and static local image. -/
structure TaskType where
  htab : Nat
  limg : Nat
  lsize : Nat
  nreg : Nat
  sets : Nat
  fclass : Nat
  tflags : Nat
  aclass : Nat
  zeros : List Byte
  rsize : List Nat
  table : List Byte
  image : List Byte
  deriving DecidableEq, Repr

/-- The fields of a task-type entry (R86). -/
def taskFields (bs : List Byte) : TaskType where
  htab := leNat (bs.take 8)
  limg := leNat ((bs.drop 8).take 8)
  lsize := leNat ((bs.drop 16).take 4)
  nreg := (bs.getD 20 0).toNat
  sets := (bs.getD 21 0).toNat
  fclass := (bs.getD 22 0).toNat
  tflags := (bs.getD 23 0).toNat
  aclass := (bs.getD 24 0).toNat
  zeros := (bs.drop 25).take 7
  rsize := leWords 2 16 (bs.drop 32)
  table := []
  image := []

/-- Task type `t` of the running context with its images; none where any byte of them cannot be read (R109 code 0x48). An entry whose
`htab` is 0 has no table image to read. -/
def State.taskType (s : State) (t : Nat) : Option TaskType :=
  match s.unitRead (s.ctx.ttab + 64 * t) 64 with
  | .error _ => none
  | .ok bs =>
    let tt := taskFields bs
    match (if tt.htab = 0 then .ok [] else s.unitRead tt.htab 1024), s.unitRead tt.limg tt.lsize with
    | .ok tb, .ok im => some { tt with table := tb, image := im }
    | _, _ => none

/-- The entry of task type `t` and its images have been read at their homes (R154). -/
def State.taskSeen (t : Nat) (s : State) : State :=
  let s := s.unitSeen (s.ctx.ttab + 64 * t) 64
  match s.unitRead (s.ctx.ttab + 64 * t) 64 with
  | .ok bs => let tt := taskFields bs; (s.unitSeen tt.htab (if tt.htab = 0 then 0 else 1024)).unitSeen tt.limg tt.lsize
  | .error _ => s

/-- The 32 bytes of entry `ch` of a handler-table image (R91). -/
def TaskType.entryBytes (tt : TaskType) (ch : Nat) : List Byte := (tt.table.drop (32 * ch)).take 32

/-- The fields of a handler entry (R91) with an owner, and its masked-at-start bit. A table image may hold values outside R91's ranges, which R109
does not refuse: a `prio` above 1 stands for 0, and `regionAt` gives a `rid` of no region the offset 0 (log entry 65); an `hpc` that is not
4-aligned, a `key`, `hiw` or `low` out of range and nonzero zero bytes or flag bits are taken as they stand (log entry 69). -/
def handlerOf (bs : List Byte) (owner : Option Nat) : Handler × Bool :=
  (⟨BitVec.ofNat 64 (leNat (bs.take 8)), BitVec.ofNat 64 (leNat ((bs.drop 8).take 8)), BitVec.ofNat 64 (leNat ((bs.drop 16).take 8)),
    (bs.getD 24 0).toNat, (bs.getD 25 0) == 1, (bs.getD 26 0).getLsbD 0, (bs.getD 27 0).toNat, (bs.getD 28 0).toNat,
    (bs.getD 29 0).toNat, (bs.getD 26 0).getLsbD 1, owner⟩, (bs.getD 26 0).getLsbD 1)

/-- Offsets of the regions in the layout (R88), from `base` up. -/
def regionOffsets : Nat → List Nat → List Nat
  | _, [] => []
  | base, n :: ns => base :: regionOffsets (base + 8 * n) ns

/-- The region offsets of a task type. -/
def TaskType.regions (tt : TaskType) : List Nat := regionOffsets tt.lsize (tt.rsize.take tt.nreg)

/-- The layout size (R88). -/
def TaskType.size (tt : TaskType) : Nat := tt.lsize + 8 * (tt.rsize.take tt.nreg).sum

/-- The offset of region `rid`, 0 for none (R91). -/
def regionAt (regions : List Nat) (rid : Nat) : Nat := if rid = 255 then 0 else regions.getD rid 0

/-- The bound channels of a task type, 1 to 29 (R93); entries 30 and 31 of a table image are not looked at, zero or not (log entry 69). -/
def TaskType.chans (tt : TaskType) : List Nat :=
  ((List.range 29).map (· + 1)).filter (fun ch => leNat ((tt.entryBytes ch).take 8) != 0)

/-- Every field is valid by R86, and entry 0 has `prio` 0 (R92, R109 code 0x42). -/
def TaskType.valid (tt : TaskType) : Bool :=
  tt.htab != 0 && tt.htab % 1024 == 0 && tt.lsize % 8 == 0 && decide (tt.nreg ≤ 16) && decide (1 ≤ tt.sets) && decide (tt.sets ≤ 3) &&
  decide (tt.fclass ≤ 2) && decide (tt.tflags ≤ 1) && decide (tt.aclass ≤ 5) && tt.zeros.all (· == 0) &&
  (tt.rsize.drop tt.nreg).all (· == 0) && (tt.entryBytes 0).getD 25 0 == 0

/-- The task type is equipped: it runs on slot 0 of its quads (R86, R111). -/
def TaskType.equipped (tt : TaskType) : Bool := tt.tflags % 2 == 1

/-! ### Fitting and reserving -/

/-- The occupied ranges of an element's local memory: its allotments, and its ready ring while that is in use (R120). -/
def Element.occupied (e : Element) : List (Nat × Nat) :=
  e.allots.map (fun a => (a.base, a.size)) ++
  (if e.ringEn || decide (0 < e.ringCnt + e.ringRsv) then [(e.ringBase.toNat, 512)] else [])

/-- Whether `n` bytes at `base` are free. -/
def Element.freeAt (e : Element) (base n : Nat) : Bool :=
  decide (base + n ≤ Config.localBytes) && e.occupied.all (fun r => decide (base + n ≤ r.1) || decide (r.1 + r.2 ≤ base))

/-- The lowest 8-aligned offset where `n` bytes are free (R112). -/
def Element.fitBase (e : Element) (n : Nat) : Option Nat :=
  let starts := 0 :: e.occupied.map (fun r => alignUp (r.1 + r.2) 8)
  (starts.filter (fun b => e.freeAt b n)).foldl (fun m b => match m with
    | some x => some (min x b)
    | none => some b) none

/-- A set among T0 to T2 that no allotment holds. -/
def Element.setFree (e : Element) (k : Nat) : Bool :=
  decide (k < 3) && e.allots.all (fun a => decide (k < a.firstSet) || decide (a.firstSet + a.nsets ≤ k))

/-- The lowest `n` contiguous sets that no allotment holds (R112). -/
def Element.fitSets (e : Element) (n : Nat) : Option Nat :=
  (List.range 3).find? (fun k => (List.range n).all (fun j => e.setFree (k + j)))

/-- Channel `ch` has a bound entry (R91, R97). -/
def Element.bound (e : Element) (ch : Nat) : Bool :=
  match Map.find ch e.handlers with
  | some h => h.hpc != 0
  | none => false

/-- Where an allotment of `size` bytes, `nsets` sets and channels `chans` fits: its base and first set (R112, R93, R324). A channel whose entry
`hset` has unbound is free for it, an allotment that owned it or not (log entry 69). -/
def Element.fit (e : Element) (size nsets : Nat) (chans : List Nat) : Option (Nat × Nat) :=
  if chans.any e.bound then none
  else match e.fitBase size, e.fitSets nsets with
    | some b, some k => some (b, k)
    | _, _ => none

/-- The stateful channels of an element (R392, R99). -/
def Element.homes (e : Element) : Nat := (e.handlers.filter (fun h => h.2.stateful)).length

/-- The stateful channels that a task type installs (R392). -/
def TaskType.stateful (tt : TaskType) : Nat :=
  (tt.chans.filter (fun ch => (handlerOf (tt.entryBytes ch) none).1.stateful)).length

/-- Where an allotment of task type `tt` fits: its base and first set (R112, R93), with no fifth stage on the element (R392). -/
def Element.fitTask (e : Element) (tt : TaskType) : Option (Nat × Nat) :=
  if Config.stagesPerElement < e.homes + tt.stateful then none else e.fit tt.size tt.sets tt.chans

/-- A handler entry installed on an element with its mask bit (R93, R95). -/
def Element.install (ch : Nat) (h : Handler) (masked : Bool) (e : Element) : Element :=
  { e with
    handlers := Map.set ch h e.handlers
    mask := if masked then e.mask ||| ((1 : BitVec 32) <<< ch) else e.mask &&& ~~~((1 : BitVec 32) <<< ch) }

/-- The local memory of an allotment filled: the image at its base, zeros above (R90). -/
def State.fillLocal (le base size : Nat) (image : List Byte) (s : State) : State :=
  (s.poke (locPlace le base) (image.take size)).poke (locPlace le base + (image.take size).length)
    (List.replicate (size - (image.take size).length) 0)

/-- The class of a tile matches a format class (R111). -/
def State.classOk (s : State) (fclass le : Nat) : Bool :=
  fclass == 0 || (fclass == 2) == wideTile (s.tileOf le)

/-- An allotment of task type `tt` on element `le` at `base` and set `k` (R112): memory filled, entries installed. -/
def State.allotOn (le ttype base k : Nat) (tt : TaskType) (launch : Option Nat) (s : State) : State :=
  let i := s.newId
  let s := i.2.fillLocal le base tt.size tt.image
  s.updEl le (fun e =>
    let e := tt.chans.foldl (fun e ch =>
      let h := handlerOf (tt.entryBytes ch) (some i.1)
      { e.install ch h.1 h.2 with
        stages := if h.1.stateful then Map.set ch ⟨[⟨0, le, 0⟩], 0, none, none, 0, [], none⟩ e.stages else e.stages }) e
    { e with allots := e.allots ++ [{
        id := i.1, ttype := ttype, base := base, size := tt.size, regions := tt.regions, firstSet := k, nsets := tt.sets,
        chans := tt.chans, aclass := tt.aclass, fclass := tt.fclass, launch := launch, twinOf := none,
        entry := BitVec.ofNat 64 (leNat ((tt.entryBytes 0).take 8)),
        scratch := regionAt tt.regions ((tt.entryBytes 0).getD 24 0).toNat, fresh := true, launched := false }] })

end Sys2Proof.Machine
end

