-- ==== Sys2Proof/Machine/Stage.lean ====
section
/-! DEFINITION. Stateful stages: key-range tables and routing (R320 to R322, R327), cloning (R323 to R326) and merging (R329 to R332). -/
namespace Sys2Proof.Machine

/-! ### Keys and tables -/

/-- A record's key: bits 31 to 0 of payload word `key`, 0 where the record is shorter (R320). -/
def keyOf (key : Nat) (m : Msg) : Nat :=
  match m.payload[key]? with
  | some w => w.toNat % 2 ^ 32
  | none => 0

/-- The table entry that covers a key (R321). -/
def krtEntryOf (krt : List KrtEntry) (key : Nat) : Option KrtEntry := (krt.filter (fun k => decide (k.lo ≤ key))).getLast?

/-- The highest key of entry `i` (R321). -/
def krtHigh (krt : List KrtEntry) (i : Nat) : Nat :=
  match krt[i + 1]? with
  | some k => k.lo - 1
  | none => 0xFFFFFFFF

/-- Adjacent entries that the home owns joined into one (R321). -/
def krtJoin (home : Nat) : List KrtEntry → List KrtEntry
  | [] => []
  | k :: ks =>
    match krtJoin home ks with
    | k2 :: rest => if k.own = home && k2.own = home then k :: rest else k :: k2 :: rest
    | [] => [k]

/-- The entry `(m, donor)` inserted above the split one (R326). -/
def krtSplit (m donor : Nat) : List KrtEntry → List KrtEntry
  | [] => [⟨m, donor, 0⟩]
  | k :: ks => if m ≤ k.lo then ⟨m, donor, 0⟩ :: k :: ks else { k with kst := if k.kst = 1 then 0 else k.kst } :: krtSplit m donor ks

/-- The stage on channel `ch` of element `le`. -/
def State.stage (s : State) (le ch : Nat) : Option Stage := Map.find ch (s.el le).stages

/-- The stage on channel `ch` of element `le` replaced. -/
def State.setStage (le ch : Nat) (st : Stage) (s : State) : State :=
  s.updEl le (fun e => { e with stages := Map.set ch st e.stages })

/-- The channel is stateful on the element, which is its home (R99, R320). -/
def State.isHome (s : State) (le ch : Nat) : Bool :=
  decide (5 ≤ ch) && decide (ch ≤ 29) && (match Map.find ch (s.el le).handlers with
    | some h => h.stateful
    | none => false)

/-- The stage has a twin (R321). -/
def Stage.hasTwin (st : Stage) (home : Nat) : Bool := st.krt.any (fun k => k.own != home)

/-- Records of channel `ch` that the inbound queues hold: queued, running and held (R323). -/
def Element.occupancy (e : Element) (ch : Nat) : Nat := (e.inb.filter (fun q => hdrChan q.msg.header == ch)).length

/-! ### Cloning -/

/-- The index of the widest home-owned entry of at least two keys, the lower on ties (R323, R324). -/
def widest (home : Nat) (krt : List KrtEntry) : Option Nat :=
  (List.range krt.length).foldl (fun (best : Option Nat) i =>
    let w := fun (j : Nat) => krtHigh krt j + 1 - (krt.getD j ⟨0, 0, 0⟩).lo
    if (krt.getD i ⟨0, 0, 0⟩).own = home && 2 ≤ w i then
      match best with
      | some b => if w b < w i then some i else best
      | none => some i
    else best) none

/-- The elements of a physical tile in the partition, lowest LE first. -/
def State.lesOf (s : State) (t : Nat) : List Nat :=
  ((List.range 64).filterMap (fun i => s.leAt (t * 64 + i))).foldl (fun acc le =>
    acc.takeWhile (· < le) ++ le :: acc.dropWhile (· < le)) []

/-- The tiles where a donor is sought (R324): the home's, then those within 8 hops, ascending after it and wrapping. -/
def State.donorTiles (s : State) (home : Nat) : List Nat :=
  let near := (s.ctx.tiles.filter (fun t => t != home && decide (hops home t ≤ 8))).foldl (fun acc t =>
    acc.takeWhile (· < t) ++ t :: acc.dropWhile (· < t)) []
  home :: (near.filter (fun t => decide (home < t)) ++ near.filter (fun t => decide (t < home)))

/-- Element `d` can take the twin of allotment `a` on channel `ch` (R324): its base and set. -/
def State.donorFit (s : State) (a : Allot) (ch d : Nat) : Option (Nat × Nat) :=
  if s.classOk a.fclass d then (s.el d).fit a.size 1 [ch] else none

/-- A clone of the stage on `ch` of home `le` started (R324, R325): the range chosen, the donor reserved, the channel held. None where
no donor is found. `token` is the set and operation of a `clone` instruction. The task type and its image are read anew (R90; log entry
73). -/
def State.cloneStart (le ch : Nat) (token : Option (Nat × Nat)) (s : State) : Option State :=
  match s.stage le ch, Map.find ch (s.el le).handlers with
  | some st, some h =>
    match widest le st.krt, h.owner.bind (s.allotOf le) with
    | some i, some a =>
      match (s.donorTiles (s.tileOf le)).findSome? (fun t => (s.lesOf t).findSome? (fun d => (s.donorFit a ch d).map (fun r => (d, r)))) with
      | none => none
      | some (d, base, k) =>
        let low := (st.krt.getD i ⟨0, 0, 0⟩).lo
        let high := krtHigh st.krt i
        let op : StageOp := ⟨true, d, low, high, low + (high - low + 1) / 2, token, false, false, false⟩
        let s := s.setStage le ch { st with
          overloads := 0, op := some op, deferred := none
          krt := (List.range st.krt.length).map (fun j =>
            let e := st.krt.getD j ⟨0, 0, 0⟩
            if j = i then { e with kst := 1 } else e) }
        let image := match s.taskType a.ttype with
          | some tt => tt.image
          | none => []
        let n := s.newId
        let s := n.2.fillLocal d base a.size image
        some (s.updEl d (fun e => { e.install ch { h with stateful := false, owner := some n.1 } h.masked with
          stages := Map.set ch ⟨[], 0, none, some le, 0, [], none⟩ e.stages
          allots := e.allots ++ [{ a with
            id := n.1, base := base, firstSet := k, nsets := 1, chans := [ch], launch := none, twinOf := some le,
            fresh := false, launched := true }] }))
    | _, _ => none
  | _, _ => none

/-- A hardware clone of R323 starts where its table and range allow it; where it finds no donor it has failed (R324), and the count starts
again. -/
def State.cloneIfReady (le ch : Nat) (s : State) : State :=
  match s.stage le ch with
  | some st =>
    if 4 ≤ st.overloads && st.krt.length < 8 && (widest le st.krt).isSome && st.op.isNone then (s.cloneStart le ch none).getD (s.setStage le ch { st with overloads := 0 })
    else s
  | none => s

/-- A record leaves the home for a twin (R327): to channel `ch` of the twin, with its header and priority bit. -/
def State.forward (le twin : Nat) (m : Msg) (s : State) : State := s.launchFlight (.msg le twin m)

/-- The records of `ch` queued at the home whose key lies in `[m, high]` go to the twin in queue order (R327). -/
def State.forwardQueued (le ch key m high twin : Nat) (s : State) : State :=
  let moves := fun (q : QMsg) => hdrChan q.msg.header == ch && !q.taken &&
    decide (m ≤ keyOf key q.msg) && decide (keyOf key q.msg ≤ high)
  let qs := (s.el le).inb.filter moves
  let s := s.updEl le (fun e => { e with inb := e.inb.filter (fun q => !moves q) })
  qs.foldl (fun s q => s.forward le twin q.msg) s

/-- The element's split has ended and its twin's entry is to be installed before anything else is dispatched (R326, R169). -/
def Element.installing (e : Element) : Bool :=
  e.stages.any (fun st => match st.2.op with
    | some o => o.isClone && o.ready && o.shipped
    | none => false)

/-- The twin's entry installed, or the clone abandoned, once the split's `done` and its `xst` have completed (R326); the twin's boundaries at or
below `low` count from there (R329). -/
def State.install (le ch : Nat) (s : State) : State :=
  match s.stage le ch with
  | some st =>
    match st.op with
    | some o =>
      if o.isClone && o.ready && o.shipped then
        if o.low < o.mid && o.mid ≤ o.high then
          let key := ((Map.find ch (s.el le).handlers).map (·.key)).getD 0
          let s := s.setStage le ch { st with op := none, overloads := 0, krt := krtSplit o.mid o.partner st.krt }
          let s := match s.stage o.partner ch with
            | some tw => s.setStage o.partner ch { tw with lowCount := 0 }
            | none => s
          let s := s.forwardQueued le ch key o.mid o.high o.partner
          match o.token with
          | some (k, id) => s.finish le k id (BitVec.ofNat 64 (o.partner * 2 ^ 32 + o.mid))
          | none => s
        else s.abandonClone le ch
      else s
    | none => s
  | none => s

/-! ### Merging -/

/-- A merge of the twin `twin` of the stage on `ch` started at home `le` (R330): its entry merging, two markers sent. -/
def State.mergeStart (le ch twin : Nat) (token : Option (Nat × Nat)) (s : State) : State :=
  match s.stage le ch with
  | some st =>
    match st.krt.findIdx? (fun k => k.own == twin) with
    | some i =>
      let low := (st.krt.getD i ⟨0, 0, 0⟩).lo
      let s := s.setStage le ch { st with
        op := some ⟨false, twin, low, krtHigh st.krt i, 0, token, false, false, false⟩
        krt := st.krt.map (fun k => if k.own = twin then { k with kst := 2 } else k) }
      [false, true].foldl (fun s pri => s.launchFlight (.msg le twin ⟨mkHeader 0 0 true none twin ch pri, [], .marker ch⟩)) s
    | none => s
  | none => s

/-- A hardware merge of R329 starts for a twin at 16 consecutive boundaries at or below `low`, where the stage is not busy. -/
def State.mergeIfReady (twin ch : Nat) (s : State) : State :=
  match s.stage twin ch with
  | some st =>
    match st.twinHome with
    | some home =>
      if 16 ≤ st.lowCount then
        match s.stage home ch with
        | some hs => if hs.op.isNone && hs.krt.any (fun k => k.own == twin) then s.mergeStart home ch twin none else s
        | none => s
      else s
    | none => s
  | none => s

/-- The export of twin `twin` has ended with its state shipped (R331): the twin allotment is released, and the home may import. -/
def State.exportDone (twin ch : Nat) (s : State) : State :=
  match s.stage twin ch with
  | some st =>
    match st.twinHome with
    | some home =>
      let s := match s.twinAllot twin home ch with
        | some a => s.releaseAllot twin a.id
        | none => s
      match s.stage home ch with
      | some hs => s.setStage home ch { hs with op := hs.op.map (fun o => { o with shipped := true }) }
      | none => s
    | none => s
  | none => s

/-- The import of home `le` has ended (R332): the entry is the home's again, held records are released, a `merge` token completes with
their number (R336). -/
def State.importDone (le ch : Nat) (s : State) : State :=
  match s.stage le ch with
  | some st =>
    match st.op with
    | some o =>
      let held := ((s.el le).inb.filter (fun q => q.held && hdrChan q.msg.header == ch)).length
      let s := s.updEl le (fun e => { e with
        inb := e.inb.map (fun q => if hdrChan q.msg.header = ch then { q with held := false } else q) })
      let s := s.setStage le ch { st with
        op := none
        krt := krtJoin le (st.krt.map (fun k => if k.own = o.partner then { k with own := le, kst := 0 } else k)) }
      match o.token with
      | some (k, id) => s.finish le k id (BitVec.ofNat 64 held)
      | none => s
    | none => s
  | none => s

/-- How an `xst` of an ended split or export turned out (R326, R331): the split's clone may be installed or is abandoned; the export is
done, or runs again from its returned message. -/
def State.deferredXst (le ch id : Nat) (ok : Bool) (s : State) : State :=
  match s.stage le ch with
  | some st =>
    if st.deferred == some id then
      let s := s.setStage le ch { st with deferred := none }
      match st.twinHome with
      | some _ =>
        let again := fun (q : QMsg) => match q.msg.kind with
          | .merge true c _ _ _ => c == ch
          | _ => false
        if ok then (s.updEl le (fun e => { e with inb := e.inb.filter (fun q => !again q) })).exportDone le ch
        else s.updEl le (fun e => { e with
          inb := e.inb.map (fun q => if again q then { q with taken := false, returned := false } else q) })
      | none =>
        if ok then
          match s.stage le ch with
          | some st => s.setStage le ch { st with op := st.op.map (fun o => { o with shipped := true }) }
          | none => s
        else s.abandonClone le ch
    else s
  | none => s

/-! ### The queue front end -/

/-- What an arriving record of channel `ch` at element `le` meets (R322, R327, R330): a twin to forward it to, or whether it is held. -/
def State.route (s : State) (le : Nat) (m : Msg) : Option Nat × Bool :=
  let ch := hdrChan m.header
  match m.kind, s.isHome le ch with
  | .data, true =>
    match s.stage le ch with
    | some st =>
      match krtEntryOf st.krt (keyOf (((Map.find ch (s.el le).handlers).map (·.key)).getD 0) m) with
      | some k => if k.kst = 2 then (none, true) else if k.own ≠ le then (some k.own, false) else (none, false)
      | none => (none, false)
    | none => (none, false)
  | _, _ => (none, false)

end Sys2Proof.Machine
end

