-- ==== Sys2Proof/Machine/Msg.lean ====
section
/-! DEFINITION. Messages and activations (R163 to R188): sending, arriving, selection and dispatch, `done`, spawned threads, codelets, and
the handler table and channel mask (R96, R97). -/
namespace Sys2Proof.Machine

/-- The scope of a rank. -/
def scopeOfRank (n : Nat) : Scope := [Scope.el, .qd, .tl, .cp, .dv].getD n .sy

/-! ### Sending -/

/-- Whether a destination word of `send` is refused (R183). -/
def State.badDest (s : State) (w : Word) : Bool :=
  decide (2 ^ 24 ≤ w.toNat) || decide (s.nLe ≤ bitsOf w.toNat 23 6) || decide (bitsOf w.toNat 5 1 < 4) || decide (29 < bitsOf w.toNat 5 1)

/-- `tval` of cause 0x0B (R343). -/
def ThreadSet.overflowVal (t : ThreadSet) : Word := BitVec.ofNat 64 (t.sendBuf.length * 256 + t.pend.length)

/-- The buffer holds 16 messages, or `n` more words pass the 8 of a payload (R183). -/
def ThreadSet.sendFull (t : ThreadSet) (n : Nat) : Bool :=
  decide (Config.sendBufPlaces ≤ t.sendBuf.length) || decide (8 < t.pend.length + n)

/-- A set that sends at once waits, for a `.rel` message, until its memory operations have completed (R175, R183). -/
def State.relWaits (s : State) (rel : Option Scope) : Bool :=
  rel.isSome && s.th.unbuffered && s.setBusy s.cur.1 s.cur.2

/-- The words of a run of registers (R183). -/
def State.runWords (s : State) (a : RegNo) (n : Nat) : List Word := (List.range n).map (fun k => s.rg (a + BitVec.ofNat 5 k))

/-- A message with the pending words before `ws` (R183). -/
def State.buildMsg (s : State) (chan : Nat) (pri : Bool) (rel : Option Scope) (ws : List Word) : Msg :=
  let t := s.th
  ⟨mkHeader t.sndctr.toNat (t.pend.length + ws.length) false rel s.cur.1 chan pri, t.pend ++ ws, .data⟩

/-- The registers a run of `n` from `a` reads. -/
def runUses (a : RegNo) (n : BitVec 6) : List (Cls × Opnd) :=
  (List.range n.toNat).map (fun k => (.g, .reg (a + BitVec.ofNat 5 k)))

/-- `SEND` (R183). -/
def execSend (d a : RegNo) (n : BitVec 6) (rel : Option Scope) (s : State) : Host.Outcome State Fault Refusal :=
  withIssue ((.g, .reg d) :: runUses a n) [] (fun s =>
    let w := s.rg d
    if s.badDest w then s.trap 0x07 w
    else if s.th.sendFull n.toNat then s.trap 0x0B s.th.overflowVal
    else if s.relWaits rel then .next s
    else
      let m := s.buildMsg (bitsOf w.toNat 5 1) (w.getLsbD 0) rel (s.runWords a n.toNat)
      .next ((s.append (.one (bitsOf w.toNat 23 6) m)).advance)) s

/-- `SENDM` (R184): the words come from the own local window. -/
def execSendm (d a : RegNo) (n : BitVec 6) (rel : Option Scope) (s : State) : Host.Outcome State Fault Refusal :=
  withIssue [(.g, .reg d), (.g, .reg a)] [] (fun s =>
    let w := s.rg d
    let ea := (s.rg a).toNat
    if s.badDest w then s.trap 0x07 w
    else if s.th.sendFull n.toNat then s.trap 0x0B s.th.overflowVal
    else if ea % 8 ≠ 0 then s.trap 0x04 (s.rg a)
    else if 0x10000 ≤ ea then s.trap 0x07 (s.rg a)
    else if s.relWaits rel || s.structBehind ea (8 * n.toNat) then .next s
    else match s.readStruct (s.issuer 0) ea 8 n.toNat with
      | (.error (c, addr), s) => s.memTrap c addr
      | (.ok bs, s) =>
        let m := s.buildMsg (bitsOf w.toNat 5 1) (w.getLsbD 0) rel ((leWords 8 n.toNat bs).map (BitVec.ofNat 64))
        .next ((s.append (.one (bitsOf w.toNat 23 6) m)).advance)) s

/-- `GSEND` (R341). -/
def execGsend (d a : RegNo) (n : BitVec 6) (rel : Option Scope) (s : State) : Host.Outcome State Fault Refusal :=
  withIssue ((.g, .reg d) :: runUses a n) [] (fun s =>
    let w := s.rg d
    if 2 ^ 14 ≤ w.toNat || bitsOf w.toNat 12 8 < 4 || 29 < bitsOf w.toNat 12 8 then s.trap 0x07 w
    else if s.th.sendFull n.toNat then s.trap 0x0B s.th.overflowVal
    else if s.relWaits rel then .next s
    else
      let m := s.buildMsg (bitsOf w.toNat 12 8) (w.getLsbD 13) rel (s.runWords a n.toNat)
      .next ((s.append (.group (bitsOf w.toNat 7 0) m)).advance)) s

/-- `CALLAT` (R117). -/
def execCallat (d a : Opnd) (b c : RegNo) (s : State) : Host.Outcome State Fault Refusal :=
  withIssue ((.g, a) :: (.g, .reg b) :: runUses c 4) [(.g, d)] (fun s =>
    let pc := s.rg b
    let x := s.takeG a
    if pc.setWidth 2 ≠ (0 : BitVec 2) then s.trap 0x04 pc
    else if s.nLe ≤ x.1.toNat then s.trap 0x07 x.1
    else if Config.sendBufPlaces ≤ s.th.sendBuf.length then s.trap 0x0B s.th.overflowVal
    else
      let t := s.th
      let id := t.callctr.setWidth 64
      let m : Msg := ⟨mkHeader t.sndctr.toNat 0 false none s.cur.1 0 false, [],
        .call (s.issuer 0).ttype pc (s.runWords c 4) s.cur.1 id⟩
      let pend := t.pend
      let s := (x.2.append (.one x.1.toNat m)).updTh (fun t => { t with callctr := t.callctr + 1, pend := pend })
      .next ((s.putG d id).advance)) s

/-! ### Arrival -/

/-- The request of number `k` on the mesh. -/
def State.flight (s : State) (k : Nat) : Option Flight := (s.ctx.flights.find? (fun f => f.1 == k)).map (·.2)

/-- Both requests are messages of one sender, one receiver and one priority: they arrive in the order in which they left (R176). -/
def samePair (f g : Flight) : Bool :=
  match f, g with
  | .msg s1 d1 m1, .msg s2 d2 m2 => s1 == s2 && d1 == d2 && hdrPri m1.header == hdrPri m2.header
  | _, _ => false

/-- A message stamped and put into its inbound queue (R167). -/
def State.enqueue (le : Nat) (m : Msg) (held : Bool) (s : State) : State :=
  s.updEl le (fun e => { e with
    inb := e.inb ++ [⟨e.arrivals, m, false, false, held⟩]
    arrivals := e.arrivals + 1
    entered := if hdrPri m.header then e.entered else e.entered + 1 })

/-- The inbound queue of a priority is full (R94). -/
def Element.inbFull (e : Element) (pri : Bool) : Bool :=
  decide (Config.inboundPlaces pri ≤ (e.inb.filter (fun q => hdrPri q.msg.header == pri)).length)

/-- The return of a call that the callee refuses (R117). -/
def callRefusal (caller : Nat) (id : Word) : Msg :=
  ⟨mkHeader 0 2 true none caller 4 false, [id ||| 0x8000000000000000, 1], .data⟩

/-- Message `m` from `src` delivered to element `le` (R167), unless its queue is full (R177). -/
def State.deliver (k le : Nat) (m : Msg) (s : State) : State :=
  match m.kind with
  | .marker ch =>
    match s.stage le ch with
    | some st => (s.dropFlight k).setStage le ch { st with markers := st.markers ++ [(hdrPri m.header, (s.el le).arrivals)] }
    | none => s.dropFlight k
  | .call t _ _ caller id =>
    if (s.allotOfType le t).isNone then (s.dropFlight k).launchFlight (.msg le caller (callRefusal caller id))
    else if (s.el le).inbFull (hdrPri m.header) then s
    else (s.dropFlight k).enqueue le m false
  | _ =>
    match s.route le m with
    | (some twin, _) => (s.dropFlight k).forward le twin m
    | (none, held) =>
      if (s.el le).inbFull (hdrPri m.header) then s
      else ((s.dropFlight k).repin le k (s.el le).arrivals).enqueue le m held

/-- A forwarded record or a marker for a twin (R327, R330), which the twin's port engine takes in at a stop too (R334). -/
def State.forTwin (s : State) (src dst : Nat) (m : Msg) : Bool :=
  match s.stage dst (hdrChan m.header) with
  | some st => st.twinHome == some src
  | none => false

/-- `MESSAGE_ARRIVAL` (R167, R176): message `k` reaches its element; one of a saved context is diverted to its save area (R363). -/
def execMessageArrival (k : Nat) (s : State) : Host.Outcome State Fault Refusal :=
  match s.flight k with
  | some (.msg src dst m) =>
    if s.ctx.stopped && !s.forTwin src dst m then .next s
    else if (s.ctx.flights.takeWhile (fun f => f.1 != k)).any (fun f => samePair f.2 (.msg src dst m)) then .next s
    else .next (s.deliver k dst m)
  | some _ => .next s
  | none => .next { s with saved := s.saved.map (fun v =>
      match v.ctx.flights.find? (fun f => f.1 == k) with
      | some (_, .msg a b m) =>
        { v with ctx := { v.ctx with flights := v.ctx.flights.filter (fun f => f.1 != k) }, diverted := v.diverted ++ [(k, .msg a b m)] }
      | _ => v) }

/-! ### Dispatch (R167 to R170) -/

/-- The registers of an activation's first instruction (R170), in the user bank. A load that an aborted handler has left pending on one of them
no longer writes it (R31, R151). -/
def ThreadSet.startRegs (regs : List (RegNo × Word)) (t : ThreadSet) : ThreadSet :=
  regs.foldl (fun t r => t.wgIn false r.1 r.2)
    { t with pending := t.pending.filter (fun p => p.1 || regs.all (fun r => p.2.1 != .g r.1)) }

/-- Activation `a` starts on set `k` of element `le` at `pc` (R170). -/
def State.startAct (le k : Nat) (a : Act) (pc : Word) (regs : List (RegNo × Word)) (s : State) : State :=
  s.updThOf le k (fun t => { t.startRegs regs with
    run := .user, act := some a, pc := pc, susp := none, frame := none, ending := none, yielded := false, waiting := none,
    blocked := [], sendBuf := [], pend := [] })

/-- An activation of a message that entry `h` and allotment `a` serve; without an owner it has no allotment and runs as task type 0 (log entry 74). -/
def actOf (kind : ActKind) (a : Option Allot) (ch : Nat) (q : QMsg) : Act :=
  { Act.idle with
    kind := kind, allot := (a.map (·.id)).getD 0, ttype := (a.map (·.ttype)).getD 0, chan := ch, pri := hdrPri q.msg.header,
    stamp := q.stamp, header := q.msg.header, payload := q.msg.payload }

/-- The buffer that the pass with stamp `st` pins, if it is one (R225, R226). -/
def State.passPinOf (s : State) (le st : Nat) : Option Nat :=
  (List.range 3).find? (fun b => (vget (s.tile (s.tileOf le)).bufs b).passPins.contains (le, st))

/-- The acquire with which an activation of a message sent with `.rel` starts (R170). -/
def State.acquireMsg (le : Nat) (h : Word) (s : State) : State :=
  if hdrRel h then s.acquire le (scopeOfRank (hdrScope h)) else s

/-- Message `q` of channel `ch` starts its activation on set `k` (R170, R114, R31, R325, R331, R332); an engine's completion message on channel 3
is an acquire at `.dv` (R311). A launch activation is one of its own allotment, on whatever set it runs (log entry 74). -/
def State.startMsg (le k ch : Nat) (q : QMsg) (s : State) : State :=
  let region := fun (c : Nat) => match Map.find c (s.el le).handlers, s.ownerOf le c with
    | some h, some a => BitVec.ofNat 64 (regionAt a.regions h.rid)
    | _, _ => (0 : Word)
  let w := fun (n : Nat) => BitVec.ofNat 64 n
  match q.msg.kind with
  | .launch _ args index tag id =>
    let a := s.allotOf le id
    let s := s.startAct le k { actOf .launch a 0 q with payload := [] } ((a.map (·.entry)).getD 0)
      [(1, args.getD 0 0), (2, args.getD 1 0), (3, args.getD 2 0), (4, args.getD 3 0), (5, w index), (6, tag),
       (7, w ((a.map (·.scratch)).getD 0))]
    let s := s.updEl le (fun e => { e with allots := e.allots.map (fun x => if x.id = id then { x with launched := true } else x) })
    s.acquire le .dv
  | .call _ pc args caller id =>
    let a := s.allotFor le q.msg
    s.startAct le k { actOf .call a 0 q with payload := [] } pc
      [(1, args.getD 0 0), (2, args.getD 1 0), (3, args.getD 2 0), (4, args.getD 3 0), (5, w caller), (6, id),
       (7, w ((a.map (·.scratch)).getD 0))]
  | .split c low high mid donor =>
    s.startAct le k { actOf .split (s.ownerOf le c) ch q with partner := donor, stageCh := c }
      (((Map.find c (s.el le).handlers).map (·.spc)).getD 0)
      [(1, w low), (2, w high), (3, w mid), (4, w donor), (5, w c), (7, region c)]
  | .merge out c low high partner =>
    s.startAct le k { actOf (if out then .exportState else .importState) (s.ownerOf le c) ch q with partner := partner, stageCh := c }
      (((Map.find c (s.el le).handlers).map (·.mpc)).getD 0)
      [(1, w out.toNat), (2, w low), (3, w high), (4, w partner), (5, w c), (7, region c)]
  | _ =>
    let s := s.startAct le k { actOf .message (s.ownerOf le ch) ch q with passPin := s.passPinOf le q.stamp }
      (((Map.find ch (s.el le).handlers).map (·.hpc)).getD 0) [(7, region ch)]
    if ch = 3 then s.acquire le .dv else s.acquireMsg le q.msg.header

/-- A ready-ring entry starts its activation on set `k` (R120): it leaves the ring for a reserved place, its address in `g1`. -/
def State.startRing (le k : Nat) (s : State) : State :=
  let e := s.el le
  let addr := leNat (s.peek (ringPlace e le e.ringHead) 8)
  let a := s.ownerOf le 1
  let h := Map.find 1 e.handlers
  let s := s.updEl le (fun e => { e with ringHead := (e.ringHead + 1) % 64, ringRsv := e.ringRsv + 1, ringStamps := e.ringStamps.drop 1 })
  let act : Act := { Act.idle with
    kind := .ring, allot := (a.map (·.id)).getD 0, ttype := (a.map (·.ttype)).getD 0, chan := 1, stamp := e.ringStamps.headD 0,
    header := mkHeader 0 0 true none le 1 false, codelet := addr }
  let s := s.startAct le k act ((h.map (·.hpc)).getD 0)
    [(1, BitVec.ofNat 64 addr),
     (7, BitVec.ofNat 64 (match a, h with
       | some a, some h => regionAt a.regions h.rid
       | _, _ => 0))]
  s.acquire le .dv

/-- The channels of a search that starts after `ptr`, wrapping (R168). -/
def searchFrom (ptr : Nat) : List Nat := (List.range 32).map (fun i => (ptr + 1 + i) % 32)

/-- One dispatch of a class (R168): the first runnable channel after the pointer; it empties the set's traversal stack (R236). The search goes by
channel, and each takes the lowest free set of its own task type, in that order (log entry 69). -/
def State.dispatchOne (le : Nat) (cls : Bool) (s : State) : State :=
  let e := s.el le
  match (searchFrom (if cls then e.ptr1 else e.ptr0)).findSome? (fun ch => (s.candidate le cls ch).map (fun r => (ch, r))) with
  | none => s
  | some (ch, k, q) =>
    let s := (s.noteBusy le).updEl le (fun e => { e with
      ptr0 := if cls then e.ptr0 else ch
      ptr1 := if cls then ch else e.ptr1
      inb := match q with
        | some q => e.inb.map (fun x => if x.stamp = q.stamp then { x with taken := true } else x)
        | none => e.inb
      gone := match q with
        | some q => if hdrPri q.msg.header then e.gone else e.gone + 1
        | none => e.gone })
    let s := match q with
      | some q => s.startMsg le k ch q
      | none => s.startRing le k
    let s := s.updThOf le k (fun t => { t with stack := [], scnt := 0 })
    let id := ((s.thOf le k).act.map (·.allot)).getD 0
    s.updEl le (fun e => { e with allots := e.allots.map (fun a => if a.id = id then { a with fresh := false } else a) })

/-- `ACTIVATION_DISPATCH` (R168): each free set of each class takes a runnable channel, lower sets first. A partition that is stopping at
a calm point, or stopped, dispatches nothing (R359, R360), nor does a home before it installs its twin (R326). -/
def execActivationDispatch (le : Nat) (s : State) : Host.Outcome State Fault Refusal :=
  if !s.ctx.present || s.ctx.stopped || (s.el le).installing then .next s
  else .next ((((s.dispatchOne le false).dispatchOne le false).dispatchOne le false).dispatchOne le true)

/-! ### Ending -/

/-- What `done` does for a split (R326): the middle as `g3` stands; the clone goes on, waits for its `xst`, or is abandoned. -/
def State.splitDone (le k : Nat) (a : Act) (s : State) : State :=
  match s.stage le a.stageCh with
  | some st =>
    let mid := (rget (s.thOf le k).g 3).toNat
    let st' := { st with op := st.op.map (fun o => { o with mid := mid, ready := true, shipped := a.xst == 2 }) }
    if a.xst = 2 then s.setStage le a.stageCh st'
    else if a.xst = 1 then s.setStage le a.stageCh { st' with deferred := some a.codelet }
    else s.abandonClone le a.stageCh
  | none => s

/-- Steps 2 to 4 of `done` (R185): the buffer leaves, tokens are detached, pins released, the message leaves its queue, the set is free. -/
def State.endActivation (le k : Nat) (s : State) : State :=
  let t := s.thOf le k
  let s := t.sendBuf.foldl (fun s o => s.departRel le o) s
  let e := s.el le
  let s := s.updThOf le k (detach e)
  let s := s.dropAllPins le k
  match t.act with
  | none => s.freeSet le k
  | some a =>
    let s := match a.passPin with
      | some _ => s.dropPassPin le a.stamp
      | none => s
    match a.kind with
    | .exportState =>
      if a.xst = 2 then (((s.consume le a).freeSet le k).exportDone le a.stageCh)
      else
        let s := s.updEl le (fun e => { e with inb := e.inb.map (fun q =>
          if q.stamp = a.stamp then { q with taken := a.xst == 1, returned := a.xst == 1 } else q) })
        let s := if a.xst = 1 then
            match s.stage le a.stageCh with
            | some st => s.setStage le a.stageCh { st with deferred := some a.codelet }
            | none => s
          else s
        s.freeSet le k
    | .importState => ((s.consume le a).freeSet le k).importDone le a.stageCh
    | .split => ((s.splitDone le k a).consume le a).freeSet le k
    | _ => (s.consume le a).freeSet le k

/-- The commands that set `k` of element `le` issued with bytes of the own local window in their destination, still running (R375). -/
def State.ownWaits (s : State) (le k : Nat) : Bool :=
  let mine := fun (w : Issuer) => w.le == le && w.set == k && w.ownDst
  s.tiles.any (fun t => t.2.copies.any (fun c => mine c.who) || t.2.mx.queue.any (fun c => mine c.who)) ||
  s.quads.any (fun q => q.2.wops.any (fun c => mine c.who)) ||
  s.ctx.flights.any (fun f => match f.2 with
    | .matrix c _ => mine c.who
    | _ => false)

/-- A fault of the operation would still trap (R143, R155). -/
def MemOp.mayTrap (o : MemOp) : Bool :=
  !o.mute && (match o.kind with
    | .load _ _ | .lda _ _ | .ldv _ _ _ | .atom _ _ _ _ _ => true
    | _ => false)

/-- A message that element `le` has sent waits in the mesh at a full inbound queue (R177). -/
def State.backed (s : State) (le : Nat) : Bool :=
  s.ctx.flights.any (fun f => match f.2 with
    | .msg src dst m => src == le && (s.el dst).inbFull (hdrPri m.header)
    | _ => false)

/-- `DONE_COMPLETE` (R185): step 1 waits for copies into own local memory, and for the operations that can still trap, since none strikes
once it is over; a `.rel` message waits for the set's operations, and the whole buffer with it (R183; log entry 73), and messages wait while
an earlier one of the element waits at a full queue (R177, log entry 67). -/
def execDoneComplete (le set : Nat) (s : State) : Host.Outcome State Fault Refusal :=
  let t := s.thOf le set
  if t.ending.isNone || s.ctx.stopped then .next s
  else if s.ownWaits le set || (s.el le).ops.any (fun o => o.set == set && o.mayTrap) then .next s
  else if (t.sendBuf.any (fun o => o.relScope.isSome) && s.setBusy le set) || (!t.sendBuf.isEmpty && s.backed le) then
    .next (s.updThOf le set (fun t => { t with ending := some 2 }))
  else .next (s.endActivation le set)

/-- The supervisor activation's own tokens end with it (R151). -/
def ThreadSet.dropSupTokens (e : Element) (t : ThreadSet) : ThreadSet :=
  { t with pending := t.pending.filter (fun p => !p.1 || e.ops.any (fun o => o.id == p.2.2)) }

/-- The suspended handler resumes in the issuing set (R346, R354). Where the supervisor has written another address into `tepc`, or a `tret 1`
passes the trapping instruction over, the set gives up the places that the instruction took at queues (R180). -/
def State.resumeHandler (past : Bool) (u : Suspended) (s : State) : State :=
  let e := s.el s.cur.1
  let s := if past || s.th.tepc != u.pc &&& 0x0001FFFFFFFFFFFC then s.leaveQueues s.cur.1 (.set s.cur.1 s.cur.2) else s
  ((s.muteOps s.cur.1 s.cur.2 true).dropSubPins s.cur.1 (s.cur.2 + 4)).updTh (fun t => (t.dropSupTokens e).resume u)

/-- The fault that waits for the handler strikes as it goes on (R155; log entry 70). -/
def State.strikeLate (u : Suspended) (s : State) : State :=
  match u.late with
  | some f => s.strike s.cur.1 s.cur.2 f
  | none => s

/-- The supervisor has an operation outstanding whose fault would still trap (R155). -/
def State.supWaits (s : State) : Bool := (s.el s.cur.1).ops.any (fun o => o.set == s.cur.2 && o.inSup && o.mayTrap)

/-- The writes of a held result as port uses. -/
def heldPushes (ws : List RegWrite) : List (Port × Nat) :=
  ws.filterMap (fun w => match w with
    | .port p xs => some (p, xs.length)
    | _ => none)

/-- `tret` of mode `m` in the supervisor trap handler (R354), which waits for the supervisor's loads, since none of their faults strikes once
it has ended (R155, R185); mode 1 of a doldrums trap retires the held result, and waits where a port
cannot serve it (R212). -/
def State.supReturn (m : Nat) (s : State) : Host.Outcome State Fault Refusal :=
  let le := s.cur.1
  let k := s.cur.2
  if s.supWaits then .next s
  else match s.th.susp with
  | none => .next (s.endSup le k)
  | some u =>
    if m = 0 then .next ((s.resumeHandler false u).strikeLate u)
    else if m = 1 then
      match u.held with
      | none => .next ((s.resumeHandler true u).advance.strikeLate u)
      | some h =>
        let needs := portNeeds h.pops (heldPushes h.writes)
        if needs.all (fun nd => s.portReady le k nd.1 nd.2.1 nd.2.2) then
          let s := (s.resumeHandler false u).popAll h.pops
          let s := h.writes.foldl (fun s w => s.write w) s
          .next (((s.updTh (·.raise h.flags)).advance).strikeLate u)
        else .next ((s.joinQueues le k needs).updTh (fun t => { t with blocked := needs }))
    else .next ((s.abortHandler le k).endSup le k)

/-- `DONE` (R185): no instruction of the set issues after it; in the supervisor trap handler it acts as `tret 2` (R354). -/
def execDone (s : State) : Host.Outcome State Fault Refusal :=
  if s.th.inSup then s.supReturn 2
  else .next (s.updTh (fun t => { t with ending := some 1, pend := [] }))

/-! ### Reading headers and ports -/

/-- `MID` (R186). -/
def execMid (d : Opnd) (s : State) : Host.Outcome State Fault Refusal :=
  withIssue [] [(.g, d)] (fun s => .next ((s.putG d (s.act.getD Act.idle).header).advance)) s

/-- Unread payload words of the triggering message (R187). -/
def ThreadSet.unread (t : ThreadSet) : Nat :=
  if t.inSup then 0 else match t.act with
    | some a => a.payload.length - a.read
    | none => 0

/-- The port that a number names, of the queues and links (R34). -/
def portOfNumber (n : Nat) : Option Port :=
  match n with
  | 34 => some (.q 0)
  | 35 => some (.q 1)
  | 36 => some (.q 2)
  | 37 => some (.q 3)
  | 40 => some .pn
  | 41 => some .pe
  | 42 => some .ps
  | 43 => some .pw
  | _ => none

/-- The writable and readable words of `alw` (R187); none for a value that names no port. -/
def State.alwWords (s : State) (n : Nat) : Option (Nat × Nat) :=
  let le := s.cur.1
  let e := s.el le
  if n = 0 then some (64 - e.ringCnt - e.ringRsv, e.ringCnt)
  else if n = 32 then some (0, s.th.unread)
  else if n = 33 then some (8 - s.th.pend.length, 0)
  else match portOfNumber n with
    | some p => some (s.outRoom le p, ((s.inFifo le p).map (fun q => q.words.length)).getD 0)
    | none => none

/-- `ALW` (R187): the words are counted before the instruction pops a word of its own (log entry 77). -/
def execAlw (d a : Opnd) (s : State) : Host.Outcome State Fault Refusal :=
  withIssue [(.g, a)] [(.g, d)] (fun s =>
    let x := s.takeG a
    match s.alwWords x.1.toNat with
    | none => s.trap 0x07 x.1
    | some (wr, rd) =>
      match (portOfNumber x.1.toNat).bind (fun p => s.absentLink s.cur.1 [(p, 1)]) with
      | some p => s.trap 0x11 (BitVec.ofNat 64 p.number)
      | none => .next ((x.2.putG d (BitVec.ofNat 64 (wr * 256 + rd))).advance)) s

/-- Entries at a `qwait` port (R188): the ready ring, the undispatched messages of the priority-0 queue, a queue or a link. -/
def State.qwaitCount (s : State) (le port : Nat) : Nat :=
  let e := s.el le
  if port = 0 then e.ringCnt
  else if port = 32 then (e.inb.filter (fun q => !q.taken && !hdrPri q.msg.header)).length
  else match portOfNumber port with
    | some p => ((s.inFifo le p).map (fun q => q.words.length)).getD 0
    | none => 0

/-- The entries with which the wait of set `k` of element `le` at a `qwait` port ends (R188): those at the tick that ended it, else those that stand
there now; none while it goes on. -/
def State.waitEnds (s : State) (le k port : Nat) : Option Nat :=
  match (s.thOf le k).waiting.bind (fun _ => (s.thOf le k).waited) with
  | some n => some n
  | none => if 0 < s.qwaitCount le port then some (s.qwaitCount le port) else none

/-- The set may issue: it runs, is not ending, yielded, parked in `ldv`, blocked at a port or in the cycle after a taken branch, and a
`qwait` has its entry (R160, R172, R173, R180, R185, R188, R358); after a double trap it stands (R348). -/
def State.canRun (s : State) (le k : Nat) : Bool :=
  let t := s.thOf le k
  s.ctx.present && !s.ctx.stopped && !s.ctx.halting.contains (le, k) && t.run != .free && t.ending.isNone && !t.yielded && t.blocked.isEmpty &&
  !t.bubble &&
  !(s.el le).ops.any (fun o => o.set == k && o.parked) &&
  (match t.waiting with
   | some w => (s.waitEnds le k w.2.1).isSome
   | none => true)

/-- `tval` of an expired `qwait` (R188). -/
def State.qwaitVal (s : State) (le port : Nat) : Word :=
  let e := s.el le
  let r : Nat × Nat :=
    if port = 0 then ((e.ringHead + e.ringCnt) % 64, e.ringHead)
    else if port = 32 then (e.entered % 32, e.gone % 32)
    else match portOfNumber port with
      | some p => match s.inFifo le p with
        | some q => if port < 40 then (q.written % 8, q.readCount % 8) else (q.written % 4, q.readCount % 4)
        | none => (0, 0)
      | none => (0, 0)
  BitVec.ofNat 64 (r.1 * 65536 + r.2 * 256 + port)

/-- `QWAIT` (R188): the wait starts at issue, when the set takes its places at the ports `b` and `d` (R180), and ends with an entry or, tested first,
with cause 0x0C, whose handler leaves it its places (log entry 74). -/
def execQwait (d : Opnd) (p : BitVec 6) (b : Opnd) (s : State) : Host.Outcome State Fault Refusal :=
  let port := p.toNat
  match (portOfNumber port).bind (fun p => s.absentLink s.cur.1 [(p, 1)]) with
  | some p => s.trap 0x11 (BitVec.ofNat 64 p.number)
  | none =>
    withIssue [(.g, b)] [(.g, d)] (fun s =>
      let x := s.takeG b
      let t0 := match s.th.waiting with
        | some w => w.1
        | none => s.tick
      match s.waitEnds s.cur.1 s.cur.2 port with
      | some n => .next (((x.2.updTh (fun t => { t with waiting := none, waited := none })).putG d (BitVec.ofNat 64 n)).advance)
      | none =>
        if x.1.toNat ≤ s.tick - t0 then s.trap 0x0C (s.qwaitVal s.cur.1 port)
        else .next ((s.holdPlaces s.cur.1 s.cur.2 (portNeeds (portUses [(.g, b)]) (portUses [(.g, d)]))).updTh
        (fun t => { t with waiting := some (t0, port, x.1.toNat), waited := none }))) s

/-- The limit of waiting set `k` of element `le` has passed with nothing at its port (R188). -/
def State.expireWait (le k : Nat) (s : State) : State :=
  match (s.thOf le k).waiting with
  | some (t0, port, limit) =>
    if (s.waitEnds le k port).isNone && limit ≤ s.tick - t0 then s.trapAt le k 0x0C (s.qwaitVal le port) none else s
  | none => s

/-- `QWAIT_EXPIRY` (R188): by this step or as the tick ends (`State.advanceTime`); a stop suspends the wait (R361). -/
def execQwaitExpiry (le set : Nat) (s : State) : Host.Outcome State Fault Refusal :=
  .next (if s.ctx.stopped then s else s.expireWait le set)

/-- What a tick that ends leaves of a wait (R188): it is over where its port holds an entry, and its limit strikes where that has come. -/
def State.closeWait (le k : Nat) (s : State) : State :=
  match (s.thOf le k).waiting with
  | some (_, port, _) =>
    match s.waitEnds le k port with
    | some n => s.updThOf le k (fun t => { t with waited := some n })
    | none => s.expireWait le k
  | none => s

/-- `PORT_UNBLOCK` (R180): a blocked set may issue again once its ports can serve it. -/
def execPortUnblock (le set : Nat) (s : State) : Host.Outcome State Fault Refusal :=
  if (s.thOf le set).blocked.all (fun nd => s.portReady le set nd.1 nd.2.1 nd.2.2) then
    .next (s.updThOf le set (fun t => { t with blocked := [] }))
  else .next s

/-! ### Spawned threads and codelets -/

/-- `SPAWN` (R116): the request leaves at once; the result is pending until the reply. -/
def execSpawn (d : RegNo) (a : Opnd) (b c : RegNo) (s : State) : Host.Outcome State Fault Refusal :=
  withIssue ((.g, a) :: (.g, .reg b) :: runUses c 4) [(.g, .reg d)] (fun s =>
    let pc := s.rg b
    let x := s.takeG a
    if pc.setWidth 2 ≠ (0 : BitVec 2) then s.trap 0x04 pc
    else if s.nLe ≤ x.1.toNat then s.trap 0x07 x.1
    else
      let i := x.2.newId
      .next (((i.2.launchFlight (.spawnReq (i.2.issuer i.1) x.1.toNat pc (s.runWords c 4))).mark (.g d) i.1).advance)) s

/-- `SPAWN_AT_TARGET` (R116). The thread's traversal stack and `scnt` are as its set last left them (log entry 74). -/
def execSpawnAtTarget (k : Nat) (s : State) : Host.Outcome State Fault Refusal :=
  match s.flight k with
  | some (.spawnReq who target pc args) =>
    if s.ctx.stopped then .next s
    else
      let s := s.dropFlight k
      match s.allotOfType target who.ttype with
      | some a =>
        match s.freeSetOf target a with
        | some j =>
          let s := s.noteRunnable target
          let act : Act := { Act.idle with
            kind := .spawn, allot := a.id, ttype := a.ttype, header := mkHeader 0 0 false none who.le 0 false }
          let s := s.startAct target j act pc
            [(1, args.getD 0 0), (2, args.getD 1 0), (3, args.getD 2 0), (4, args.getD 3 0), (5, BitVec.ofNat 64 who.le), (6, 0),
             (7, BitVec.ofNat 64 a.scratch)]
          let s := s.updEl target (fun e => { e with allots := e.allots.map (fun x => if x.id = a.id then { x with fresh := false } else x) })
          .next (s.launchFlight (.spawnReply who 1))
        | none => .next (s.launchFlight (.spawnReply who 0))
      | none => .next (s.launchFlight (.spawnReply who 0))
  | _ => .next s

/-- `SPAWN_REPLY` (R116). -/
def execSpawnReply (k : Nat) (s : State) : Host.Outcome State Fault Refusal :=
  match s.flight k with
  | some (.spawnReply who v) => .next ((s.dropFlight k).token who v)
  | _ => .next s

/-- `RDEC` (R119). -/
def execRdec (d a : RegNo) (s : State) : Host.Outcome State Fault Refusal :=
  withIssue [(.g, .reg a)] [(.g, .reg d)] (fun s =>
    let ea := (s.rg a).toNat
    let send := fun (owner off : Nat) =>
      let i := s.newId
      Host.Outcome.next (((i.2.launchFlight (.rdec (i.2.issuer i.1) owner off)).mark (.g d) i.1).advance)
    if ea % 8 ≠ 0 then s.trap 0x04 (s.rg a)
    else if s.opsFull s.cur.1 then .next s
    else if ea < 0x10000 then send s.cur.1 ea
    else if ea < 0x50000 then
      match s.leAt (s.physOf s.cur.1 / 4 * 4 + (ea - 0x10000) / 65536) with
      | some m => send m (ea % 65536)
      | none => s.trap 0x08 (s.rg a)
    else if 0x8000000000 ≤ ea && ea < 0x8400000000 then
      if s.nLe ≤ (ea - 0x8000000000) / 65536 then s.trap 0x07 (s.rg a)
      else send ((ea - 0x8000000000) / 65536) (ea % 65536)
    else s.trap 0x07 (s.rg a)) s

/-- `RDEC_AT_OWNER` (R119): a cumulative release at device scope, then the decrement at the owner, in arrival order. -/
def execRdecAtOwner (k : Nat) (s : State) : Host.Outcome State Fault Refusal :=
  match s.flight k with
  | some (.rdec who owner off) =>
    if s.busyBefore who.le who.set who.id then .next s
    else
      let s := (s.dropFlight k).release who.le .dv
      match s.counter who owner off with
      | none => .next (s.token who (tokErr 0x08))
      | some (a, at_) =>
        if a.size < off + 4 then .next (s.token who (tokErr 0x08))
        else
          let p := at_.key
          if (firstPoison s.poison p 4).isSome then .next (s.token who (tokErr 0x0F))
          else
            let c := leNat (s.peek p 4)
            if c = 0 then .next (s.token who (tokErr 0x31))
            else if c = 1 then
              match (s.poke p (leBytes 4 0)).ringPush owner (BitVec.ofNat 64 off) with
              | some s => .next (s.token who 0)
              | none => .next (s.token who (tokErr 0x32))
            else .next ((s.poke p (leBytes 4 (c - 1))).token who (BitVec.ofNat 64 (c - 1)))
  | _ => .next s

/-! ### Handler entries and the mask -/

/-- `HMASK` (R96): clear wins. A channel that was runnable till now restarts the tile's idle count (R121). -/
def execHmask (d a b : Opnd) (s : State) : Host.Outcome State Fault Refusal :=
  withIssue [(.g, a), (.g, b)] [(.g, d)] (fun s =>
    let x := s.takeG a
    let y := x.2.takeG b
    let old := (s.el s.cur.1).mask
    let s := (if s.runnable s.cur.1 then y.2.noteBusy s.cur.1 else y.2).updEl s.cur.1 (fun e => { e with mask := (old ||| x.1.setWidth 32) &&& ~~~(y.1.setWidth 32) })
    .next ((s.putG d (old.setWidth 64)).advance)) s

/-- A handler entry is malformed for `hset` (R97); bits [7:2] of `hflags` count as zero bytes do (log entry 69). -/
def badEntry (bs : List Byte) : Bool :=
  let rid := (bs.getD 24 0).toNat
  leNat (bs.take 8) % 4 != 0 || decide (1 < (bs.getD 25 0).toNat) || (decide (15 < rid) && rid != 255) ||
  ((bs.drop 8).take 16).any (· != 0) || decide (3 < (bs.getD 26 0).toNat) || ((bs.drop 27).take 5).any (· != 0)

/-- `HSET` (R97). On every 0x07, one met while the entry is read among them, `tval` holds the channel; on a 0x05 or 0x0F the address (R144). -/
def execHset (a b : RegNo) (s : State) : Host.Outcome State Fault Refusal :=
  if !s.th.inSup then s.trap 0x12 (instrVal (.hset a b))
  else
    withIssue [(.g, .reg a), (.g, .reg b)] [] (fun s =>
      let ea := (s.rg b).toNat
      let ch := (s.rg a).toNat
      let le := s.cur.1
      if ea % 32 ≠ 0 then s.trap 0x04 (s.rg b)
      else if s.structBehind ea 32 then .next s
      else match s.readStruct (s.issuer 0) ea 8 4 with
        | (.error (c, addr), s) => if c = 0x07 then s.trap 0x07 (s.rg a) else s.memTrap c addr
        | (.ok bs, s) =>
          if ch < 1 || 29 < ch || badEntry bs then s.trap 0x07 (s.rg a)
          else
            let old := Map.find ch (s.el le).handlers
            let owner := old.bind (·.owner)
            let h := handlerOf bs owner
            if (match old with
                | some o => o.stateful
                | none => false) || h.1.stateful then s.trap 0x07 (s.rg a)
            else if owner.isNone && h.1.hpc ≠ 0 && h.1.rid ≠ 255 then s.trap 0x07 (s.rg a)
            else
              let s := (s.noteRunnable le).updEl le (fun e =>
                if h.1.hpc = 0 && owner.isNone then
                  let e := e.unbind ch
                  if h.2 then { e with mask := e.mask ||| ((1 : BitVec 32) <<< ch) } else e
                else e.install ch h.1 h.2)
              .next s.advance) s

end Sys2Proof.Machine
end

