-- ==== Sys2Proof/Machine/Carousel.lean ====
section
/-! DEFINITION. Carousels (R214 to R230, R390, R397 to R399): subscription instructions, notifications, the arbiter's turns, slots, and
the tiles' window buffers with their passes. -/
namespace Sys2Proof.Machine

/-! ### Masks (R220) -/

/-- The mask of tile `t` for a carousel and segment. -/
def State.maskOf (s : State) (t car seg : Nat) : BitVec 64 := Map.get 0 s.ctx.masks (s.maskKey t car seg)

/-- The mask replaced, the arbiter notified where it changes between zero and nonzero (R220). -/
def State.setMask (t car seg : Nat) (m : BitVec 64) (s : State) : State :=
  let old := s.maskOf t car seg
  let key := s.maskKey t car seg
  let s := { s with ctx := { s.ctx with masks := if m = 0 then Map.drop key s.ctx.masks else Map.set key m s.ctx.masks } }
  if (old == 0) == (m == 0) then s else s.launchFlight (.notify car seg t (m != 0))

/-- An element's bit in its tile's masks. -/
def State.maskBit (s : State) (le : Nat) : BitVec 64 := (1 : BitVec 64) <<< (s.physOf le % 64)

/-! ### Instructions -/

/-- CarCheck: the value that fails it, if any. -/
def State.carFails (s : State) (c : Word) (seg : Option Word) : Option Word :=
  if 3 < c.toNat || !(s.car c.toNat).boundTo s.ctx.ctxid then some c
  else match seg with
    | some g => if 4095 < g.toNat then some g else none
    | none => none

/-- The segment is in the active table and valid. -/
def Carousel.hasSeg (c : Carousel) (seg : Nat) : Bool := decide (seg < c.clen) && (Map.find seg c.table).isSome

/-- The buffer of tile `t` that holds a segment resident: the lowest, where two do (R227; log entry 73). -/
def State.residentIn (s : State) (t car seg : Nat) : Option Nat :=
  (List.range 3).find? (fun b => (vget (s.tile t).bufs b).resident == some (car, seg))

/-- Buffer `b` of a tile changed. -/
def State.updBuf (t b : Nat) (f : WinBuf → WinBuf) (s : State) : State :=
  s.updTile t (fun tl => { tl with bufs := vset tl.bufs b (f (vget tl.bufs b)) })

/-- The `csub` pin of the issuing activation on buffer `b`, unless it pins the buffer already (R226). The supervisor's is an activation of
its own (R345). -/
def State.pinSub (b : Nat) (s : State) : State :=
  let le := s.cur.1
  let key := (le, if s.th.inSup then s.cur.2 + 4 else s.cur.2)
  let have_ := fun (w : WinBuf) => w.subPins.contains key ||
    (match s.act with
     | some a => !s.th.inSup && a.passPin == some b && w.passPins.contains (le, a.stamp)
     | none => false)
  s.updBuf (s.tileOf le) b (fun w => if have_ w then w else { w with subPins := w.subPins ++ [key] })

/-- The allotment of the issuing activation is among those that set the element's bit of a segment (R376 row 4). -/
def State.own (car seg : Nat) (s : State) : State :=
  let o := (car, seg, (s.act.getD Act.idle).allot)
  s.updEl s.cur.1 (fun e => if e.subOwners.contains o then e else { e with subOwners := e.subOwners ++ [o] })

/-- The element's bit of a segment is clear: no allotment set it (R376 row 4). -/
def State.disown (car seg : Nat) (s : State) : State :=
  s.updEl s.cur.1 (fun e => { e with subOwners := e.subOwners.filter (fun o => !(o.1 == car && o.2.1 == seg)) })

/-- `CSUB` (R227). -/
def execCsub (d : Opnd) (a b : RegNo) (s : State) : Host.Outcome State Fault Refusal :=
  withIssue [(.g, .reg a), (.g, .reg b)] [(.g, d)] (fun s =>
    match s.carFails (s.rg a) (some (s.rg b)) with
    | some v => s.trap 0x07 v
    | none =>
      let c := (s.rg a).toNat
      let seg := (s.rg b).toNat
      let le := s.cur.1
      let t := s.tileOf le
      if !(s.car c).hasSeg seg then .next ((s.putG d 2).advance)
      else
        let s := (s.setMask t c seg (s.maskOf t c seg ||| s.maskBit le)).own c seg
        match s.residentIn t c seg with
        | some b => .next (((s.pinSub b).putG d 1).advance)
        | none => .next ((s.putG d 0).advance)) s

/-- `CSKIP` (R228): an invalid or out-of-table index returns 0. -/
def execCskip (d : Opnd) (a b : RegNo) (s : State) : Host.Outcome State Fault Refusal :=
  withIssue [(.g, .reg a), (.g, .reg b)] [(.g, d)] (fun s =>
    match s.carFails (s.rg a) (some (s.rg b)) with
    | some v => s.trap 0x07 v
    | none =>
      let c := (s.rg a).toNat
      let seg := (s.rg b).toNat
      let t := s.tileOf s.cur.1
      let bit := s.maskBit s.cur.1
      let old := s.maskOf t c seg
      let was : Word := if old &&& bit = 0 || !(s.car c).hasSeg seg then 0 else 1
      .next ((((s.setMask t c seg (old &&& ~~~bit)).disown c seg).putG d was).advance)) s

/-- `CPROM` (R229). -/
def execCprom (d a b : RegNo) (s : State) : Host.Outcome State Fault Refusal :=
  withIssue [(.g, .reg a), (.g, .reg b)] [(.g, .reg d)] (fun s =>
    match s.carFails (s.rg a) (some (s.rg b)) with
    | some v => s.trap 0x07 v
    | none =>
      let i := s.newId
      .next (((i.2.launchFlight (.cprom (i.2.issuer i.1) (s.rg a).toNat (s.rg b).toNat)).mark (.g d) i.1).advance)) s

/-- The presence word of a tile (R230). -/
def Tile.presence (tl : Tile) (car : Nat) : Word :=
  BitVec.ofNat 64 ((List.range 3).foldl (fun x b => match (vget tl.bufs b).resident with
    | some (c, seg) => if c = car then x + (0x8000 + seg % 4096) * 2 ^ (16 * b) else x
    | none => x) 0)

/-- `CSTAT` (R230). -/
def execCstat (d : Opnd) (a : RegNo) (sel : BitVec 2) (s : State) : Host.Outcome State Fault Refusal :=
  withIssue [(.g, .reg a)] [(.g, d)] (fun s =>
    match s.carFails (s.rg a) none with
    | some v => s.trap 0x07 v
    | none =>
      let c := (s.rg a).toNat
      let tl := s.tile (s.tileOf s.cur.1)
      .next ((s.putG d (if sel = 0 then tl.presence c else if sel = 1 then vget tl.lastSlot c
        else (vget tl.misses c).setWidth 64)).advance)) s

/-! ### Tables and requests at the arbiter -/

/-- `CLEN_WRITE` (R215); with the firmware rejected only the mailbox answers (R384). -/
def execClenWrite (car : Nat) (v : BitVec 16) (s : State) : Host.Outcome State Fault Refusal :=
  .next (if s.recovery then s else s.clenPut car v.toNat)

/-- `NCMT_WRITE` (R215, R384). -/
def execNcmtWrite (car : Nat) (v : Byte) (s : State) : Host.Outcome State Fault Refusal :=
  .next (if s.recovery then s else s.ncmtPut car v.toNat)

/-- `TABLE_COPY_COMPLETE` (R215): the committed table is in the arbiter's store and takes effect at its next turn. -/
def execTableCopyComplete (car : Nat) (s : State) : Host.Outcome State Fault Refusal :=
  if (s.car car).copying.isNone then .next s
  else .next ((s.updCar car (fun c => { c with copied := true })).wakeCar car)

/-- Both are notifications of one tile to one arbiter: they arrive in the order sent (R220). -/
def sameTile (f g : Flight) : Bool :=
  match f, g with
  | .notify c1 _ t1 _, .notify c2 _ t2 _ => c1 == c2 && t1 == t2
  | _, _ => false

/-- The tiles whose last notification of a segment was nonzero (R220). -/
def Carousel.wanted (c : Carousel) (seg : Nat) : List Nat := Map.get [] c.counts seg

/-- `MASK_NOTIFICATION` (R220): it wakes an idle arbiter (R399). -/
def execMaskNotification (k : Nat) (s : State) : Host.Outcome State Fault Refusal :=
  match s.flight k with
  | some (.notify car seg tile nz) =>
    if s.ctx.stopped || (s.ctx.flights.takeWhile (fun f => f.1 != k)).any (fun f => sameTile f.2 (.notify car seg tile nz)) then .next s
    else
      let s := (s.dropFlight k).updCar car (fun c =>
        let ts := (c.wanted seg).filter (· != tile)
        let ts := if nz then ts ++ [tile] else ts
        { c with counts := if ts.isEmpty then Map.drop seg c.counts else Map.set seg ts c.counts })
      .next (s.wakeCar car)
  | _ => .next s

/-- `CPROM_AT_ARBITER` (R229). -/
def execCpromAtArbiter (k : Nat) (s : State) : Host.Outcome State Fault Refusal :=
  match s.flight k with
  | some (.cprom who car seg) =>
    if s.ctx.stopped then .next s
    else
      let s := s.dropFlight k
      let c := s.car car
      .next (if !c.hasSeg seg then s.token who (tokErr 0x34)
        else match c.fifo.findIdx? (· == seg) with
          | some i => s.token who (BitVec.ofNat 64 (i + 1))
          | none =>
            if Config.promoPlaces ≤ c.fifo.length then s.token who (tokErr 0x33)
            else (s.updCar car (fun c => { c with fifo := c.fifo ++ [seg] })).token who (BitVec.ofNat 64 (c.fifo.length + 1)))
  | _ => .next s

/-! ### Turns (R221) -/

/-- A committed table whose copy is complete takes effect (R215). -/
def Carousel.swap (c : Carousel) : Carousel :=
  match c.copying with
  | some (at_, n, tb) =>
    if c.copied then
      { c with
        ctab := at_, clen := n, table := tb, copying := none, copied := false, ncmt := false
        fifo := c.fifo.filter (fun x => decide (x < n) && (Map.find x tb).isSome) }
    else c
  | none => c

/-- The promotion entries popped at a turn: the segment of the promoted slot, and what is left (R221 step 1). -/
def Carousel.promoted (c : Carousel) : List Nat → Option Nat × List Nat
  | [] => (none, [])
  | x :: xs => if (c.wanted x).isEmpty then Carousel.promoted c xs else (some x, xs)

/-- The index of the next regular slot (R221 step 2). -/
def Carousel.regular (c : Carousel) : Option Nat :=
  ((List.range c.clen).map (fun i => (c.ptr + 1 + i) % max c.clen 1)).find? (fun i => c.hasSeg i && !(c.wanted i).isEmpty)

/-- What a turn decides (R221): the segment to open and whether it is promoted, and the arbiter afterwards; it idles where every count
is zero. -/
def Carousel.turn (c : Carousel) : Option (Nat × Bool) × Carousel :=
  let c := c.swap
  let p := if c.lastPromoted = some true then (none, c.fifo) else c.promoted c.fifo
  match p with
  | (some x, rest) => (some (x, true), { c with fifo := rest })
  | (none, rest) =>
    let c := { c with fifo := rest }
    match c.regular with
    | some i => (some (i, false), { c with ptr := i })
    | none => (none, { c with idle := true })

/-- The tick from which a running carousel may take its turn (R216, R218, R390, R399); none while it idles or its slot is open. -/
def State.carAt (s : State) (car : Nat) : Option Nat :=
  let c := s.car car
  if s.ctx.present && !s.ctx.stopped && c.boundTo s.ctx.ctxid && c.clen != 0 && !c.idle && c.slot.isNone then
    some (max c.wakeAt (match c.lastOpen with
      | some t => t + c.cgap
      | none => 0))
  else none

/-- The carousel runs and may open a slot now (R216, R218, R390, R399). -/
def State.carReady (s : State) (car : Nat) : Bool :=
  match s.carAt car with
  | some t => decide (t ≤ s.tick)
  | none => false

/-- The plane carries no slot (R217): none is open, and the last one's frames have passed. -/
def State.planeFree (s : State) : Bool := (List.range 4).all (fun k => (s.car k).slot.isNone) && decide (s.planeUntil ≤ s.tick)

/-- The plane is granted to `car`: it is free, and no carousel between the one granted last and it has a slot ready (R217). -/
def State.planeFor (s : State) (car : Nat) : Bool :=
  s.planeFree &&
  (((List.range 4).map (fun i => (s.planeLast + 1 + i) % 4)).find? (fun k =>
    s.carReady k && ((s.car k).turn.1.isSome || k == car))) == some car

/-- A slot opens (R218): the announcement goes to every tile of the partition, and its f frames take the plane for f ticks (R217). -/
def State.openSlot (car seg : Nat) (promoted : Bool) (s : State) : State :=
  let c := s.car car
  let d := (Map.find seg c.table).getD ⟨0, 0, 0⟩
  let s := s.updCar car (fun c => { c with
    slot := some ⟨seg, d.frames, c.cslots, 0, none⟩, cslots := c.cslots + 1, lastOpen := some s.tick, lastPromoted := some promoted })
  let s := { s with planeLast := car, planeUntil := s.tick + d.frames }
  s.ctx.tiles.foldl (fun s t => s.updTile t (fun tl => { tl with heard := tl.heard ++ [(car, seg, d.frames, c.cslots.toNat)] })) s

/-- Arbiter `car` takes its turn, where it is due (R221). -/
def State.takeTurn (car : Nat) (s : State) : State :=
  if 3 < car || !s.carReady car || !s.planeFor car then s
  else
    let r := (s.car car).turn
    let s := s.updCar car (fun _ => r.2)
    match r.1 with
    | some (seg, promoted) => s.openSlot car seg promoted
    | none => s

/-- `ARBITER_TURN` (R221). -/
def execArbiterTurn (car : Nat) (s : State) : Host.Outcome State Fault Refusal := .next (s.takeTurn car)

/-- The tick at which the next turn of an arbiter is due, as the state stands (R390): none while a slot is open. -/
def State.turnDue (s : State) : Option Nat :=
  if (List.range 4).all (fun k => (s.car k).slot.isNone) then
    match (List.range 4).filterMap s.carAt with
    | [] => none
    | t :: ts => some (max s.tick (max s.planeUntil (ts.foldl min t)))
  else none

/-! ### Windows (R223 to R226) -/

/-- A free buffer: no pin and no capture (R223). -/
def WinBuf.free (b : WinBuf) : Bool := b.capture.isNone && b.passPins.isEmpty && b.subPins.isEmpty

/-- Tile `tile` hears its oldest announcement (R223, R224): it takes its lowest free buffer for a segment that it wants, or misses it. -/
def State.hearSlot (tile : Nat) (s : State) : State :=
  match (s.tile tile).heard with
  | [] => s
  | (car, seg, frames, number) :: rest =>
    let s := s.updTile tile (fun tl => { tl with
      heard := rest, lastSlot := vset tl.lastSlot car (BitVec.ofNat 64 (number + 1)) })
    if s.maskOf tile car seg = 0 then s
    else match (List.range 3).find? (fun b => (vget (s.tile tile).bufs b).free) with
      | some b => s.updBuf tile b (fun w => { w with
          resident := none, capture := some ⟨car, seg, frames, BitVec.ofNat 64 number, false, none⟩ })
      | none => s.updTile tile (fun tl => { tl with misses := vset tl.misses car (vget tl.misses car + 1) })

/-- `SLOT_ANNOUNCEMENT` (R223, R224). -/
def execSlotAnnouncement (tile : Nat) (s : State) : Host.Outcome State Fault Refusal := .next (s.hearSlot tile)

/-- The frame of a slot as the sequencer reads it (R219): 256 bytes, zeros with the cause where the read fails. -/
def State.frameBytes (s : State) (car va : Nat) : List Byte × Option Nat :=
  match s.carBytes car va 256 with
  | .ok bs => (bs, none)
  | .error c => (List.replicate 256 0, some c)

/-- The next frame of the open slot is read and written into the buffers that capture it; the last one ends the slot (R219, R223). -/
def State.readFrame (car : Nat) (s : State) : State :=
  match (s.car car).slot with
  | none => s
  | some sl =>
    let d := (Map.find sl.seg (s.car car).table).getD ⟨0, 0, 0⟩
    let s := s.carSeen car (d.sva + 256 * sl.next) 256
    let fr := s.frameBytes car (d.sva + 256 * sl.next)
    let failed := match sl.failed, fr.2 with
      | none, some c => some (sl.next, c)
      | f, _ => f
    let last : Bool := sl.frames ≤ sl.next + 1
    let caught := s.tiles.flatMap (fun t => (List.range 3).filterMap (fun b =>
      match (vget t.2.bufs b).capture with
      | some c => if c.car = car && !c.full then some (t.1, b) else none
      | none => none))
    let s := caught.foldl (fun s p =>
      (s.poke (winPlace p.1 (65536 * p.2 + 256 * sl.next)) fr.1).updBuf p.1 p.2 (fun w => { w with
        capture := w.capture.map (fun c => { c with full := last, failed := failed }) })) s
    s.updCar car (fun c => { c with slot := if last then none else some { sl with next := sl.next + 1, failed := failed } })

/-- A tile has an announcement of carousel `car` to take. -/
def State.unheard (s : State) (car : Nat) : Bool := s.tiles.any (fun t => t.2.heard.any (fun h => h.1 == car))

/-- `FRAME_READ` (R219): a frame follows once every tile has taken the announcement. -/
def execFrameRead (car : Nat) (s : State) : Host.Outcome State Fault Refusal :=
  .next (if s.unheard car then s else s.readFrame car)

/-- The tick at which the open slot ends, f ticks after it opened (R217), as the state stands; none while no slot is open. -/
def State.slotEnd (s : State) : Option Nat :=
  if (List.range 4).all (fun k => (s.car k).slot.isNone) then none else some (max s.tick s.planeUntil)

/-- The open slot ends (R217): the tiles have heard it, and what is left of its frames is sent. -/
def State.endSlot (s : State) : State :=
  let s := s.tiles.foldl (fun s t => t.2.heard.foldl (fun s _ => s.hearSlot t.1) s) s
  (List.range 4).foldl (fun s k =>
    match (s.car k).slot with
    | none => s
    | some sl => (List.range (sl.frames - sl.next + 1)).foldl (fun s _ => s.readFrame k) s) s

/-- The timebase stops at tick `d`, and the rest of an advance by `n` is left on the agenda. -/
def State.stopAt (d n : Nat) (s : State) : State :=
  { s with tick := d, agenda := .advance (s.tick + n - d) :: s.agenda }

/-- The timebase advances by `n` ticks (R6, R15), but passes neither the end of the open slot (R217) nor a turn that is due: the slot ends and
the arbiter takes its turn at that tick, and the rest of the advance is left on the agenda (R390). -/
def State.advancePlane (n : Nat) (s : State) : State :=
  let whole : State := { s with tick := s.tick + n }
  match s.slotEnd, s.turnDue with
  | some d, _ => if d ≤ s.tick + n then (s.stopAt d n).endSlot else whole
  | none, some d =>
    if d ≤ s.tick + n then
      let s := if s.tick + n = d then whole else s.stopAt d n
      match ((List.range 4).map (fun i => (s.planeLast + 1 + i) % 4)).find? s.carReady with
      | some car => s.takeTurn car
      | none => s
    else whole
  | none, none => whole

/-- The tick at which the plane's next slot ends or its next turn is due. -/
def State.planeDue (s : State) : Option Nat :=
  match s.slotEnd with
  | some d => some d
  | none => s.turnDue

/-- The pass message of a capture for one element (R225). -/
def passMsg (le buf : Nat) (c : Capture) : Msg :=
  ⟨mkHeader 0 6 true none le 2 false,
   [BitVec.ofNat 64 c.car, BitVec.ofNat 64 c.seg, BitVec.ofNat 64 (0x80000 + buf * 0x10000), BitVec.ofNat 64 (256 * c.frames), c.number,
    match c.failed with
    | some (i, cause) => BitVec.ofNat 64 (i * 256 + cause)
    | none => 0],
   .data⟩

/-- `CAPTURE_COMPLETE` (R225): the buffer holds the segment resident, and every element whose bit is set receives a pass that pins it. -/
def execCaptureComplete (tile buf : Nat) (s : State) : Host.Outcome State Fault Refusal :=
  match (vget (s.tile tile).bufs buf).capture with
  | some c =>
    if !c.full then .next s
    else
      let s := s.updBuf tile buf (fun w => { w with capture := none, resident := some (c.car, c.seg) })
      let m := s.maskOf tile c.car c.seg
      let les := (List.range 64).filterMap (fun i => if m.getLsbD i then s.leAt (64 * tile + i) else none)
      .next (les.foldl (fun s le =>
        let k := s.nextId
        (s.launchFlight (.msg (2 ^ 21 + tile) le (passMsg le (buf % 3) c))).updBuf tile buf (fun w => { w with
          passPins := w.passPins ++ [(le, passKey k)] })) s)
  | none => .next s

end Sys2Proof.Machine
end

