-- ==== Sys2Proof/Machine/Groups.lean ====
section
/-! DEFINITION. The copy engines' queues (R252), barriers and group membership (R339, R340, R342), and the stage instructions with the steps of
cloning and merging (R99, R325 to R338). -/
namespace Sys2Proof.Machine

/-- The engine of a group. -/
def State.engine (s : State) (g : Nat) : GroupEngine := Map.get GroupEngine.start s.ctx.groups g

/-- The engine of group `g` replaced. -/
def State.setEngine (g : Nat) (x : GroupEngine) (s : State) : State :=
  { s with ctx := { s.ctx with groups := Map.set g x s.ctx.groups } }

/-! ### The copy engines' queues (R252) -/

/-- A command is a group contribution (R256). -/
def CopyCmd.isColl (c : CopyCmd) : Bool :=
  match c.kind with
  | .coll _ _ _ => true
  | _ => false

/-- A member's further contribution waits at its group's engine until the round completes (R257). -/
def State.collWaits (s : State) (c : CopyCmd) : Bool :=
  match c.kind with
  | .coll g _ _ => decide (g ≤ 255) && (s.engine g).collIn.contains c.who.le && (s.members g).contains c.who.le
  | _ => false

/-- The commands that the engine of tile `t` holds, oldest first (R252): a contribution that waits at its group's engine is not among them (log
entry 72). -/
def State.copyHeld (s : State) (t : Nat) : List CopyCmd := (s.tile t).copies.filter (fun c => !s.collWaits c)

/-- The queue of 32 of the issuing tile's engine is full: the set stalls (R252). -/
def State.copyFull (s : State) : Bool := decide (Config.copyPlaces ≤ (s.copyHeld (s.tileOf s.cur.1)).length)

/-- A command enters the queue of the issuing tile's engine (R252). -/
def State.queueCopy (c : CopyCmd) (s : State) : State :=
  s.updTile (s.tileOf s.cur.1) (fun tl => { tl with copies := tl.copies ++ [c] })

/-- Command `k` leaves the engine of tile `t`. -/
def State.dropCopy (t k : Nat) (s : State) : State :=
  s.updTile t (fun tl => { tl with copies := tl.copies.filter (fun c => c.who.id != k) })

/-- The commands that the engine of tile `t` runs: the oldest eight (R252). -/
def State.copyRunners (s : State) (t : Nat) : List CopyCmd := (s.copyHeld t).take Config.copyRunning

/-! ### Groups -/

/-- `GBAR` (R340): the arrival leaves for the group's engine; the first read of `g[d]` acquires. The supervisor's arrival counts as a spawned thread's
(log entry 74). -/
def execGbar (d a : RegNo) (s : State) : Host.Outcome State Fault Refusal :=
  withIssue [(.g, .reg a)] [(.g, .reg d)] (fun s =>
    if 255 < (s.rg a).toNat then s.trap 0x07 (s.rg a)
    else
      let act := s.act.getD Act.idle
      let i := s.newId
      let lone := s.th.inSup || act.kind == .spawn
      let s := i.2.launchFlight (.bar (i.2.issuer i.1) (s.rg a).toNat lone act.stamp act.gbars)
      let s := s.updTh (fun t => { t with
        act := t.act.map (fun a => if lone then a else { a with gbars := a.gbars + 1 })
        barTok := if d = 0 || t.barTok.contains (t.inSup, d) then t.barTok else t.barTok ++ [(t.inSup, d)] })
      .next ((s.mark (.g d) i.1).advance)) s

/-- What the engine has counted of a member. -/
def GroupEngine.countOf (e : GroupEngine) (le : Nat) : Counted := Map.get ⟨0, []⟩ e.counted le

/-- An arrival counted or joined (R339): the round it waits for, and the engine. A stamp and index counted already join their old round; an
arrival of no activation always counts. What was counted of one activation stays while others of the member arrive (log entry 73). -/
def GroupEngine.arrive (le : Nat) (lone : Bool) (stamp index : Nat) (e : GroupEngine) : Nat × GroupEngine :=
  let c := e.countOf le
  let n := c.rounds + 1
  if lone then (n, { e with counted := Map.set le { c with rounds := n } e.counted })
  else match c.seen.find? (fun x => x.1 == (stamp, index)) with
    | some x => (x.2, e)
    | none => (n, { e with counted := Map.set le ⟨n, c.seen ++ [((stamp, index), n)]⟩ e.counted })

/-- The rounds that every member has counted are complete: the tokens that wait for them take their round number (R340). -/
def State.closeRounds (g : Nat) (members : List Nat) (s : State) : State :=
  let e := s.engine g
  let full := fun (r : Nat) => members.all (fun m => decide (r ≤ (e.countOf m).rounds))
  let s := s.setEngine g { e with
    round := if full e.round then e.round + 1 else e.round
    waiting := e.waiting.filter (fun w => !full w.2) }
  (e.waiting.filter (fun w => full w.2)).foldl (fun s w => s.token w.1 (BitVec.ofNat 64 w.2)) s

/-- `GBAR_ARRIVAL` (R339, R340): a release at device scope once the set's earlier operations have completed, then the engine counts. -/
def execGbarArrival (k : Nat) (s : State) : Host.Outcome State Fault Refusal :=
  match s.flight k with
  | some (.bar who g lone stamp index) =>
    if s.ctx.stopped || s.busyBefore who.le who.set who.id then .next s
    else
      let s := ((s.dropFlight k).release who.le .dv).membersSeen g
      let ms := s.members g
      if !ms.contains who.le then .next (s.token who (tokErr 0x26))
      else
        let r := (s.engine g).arrive who.le lone stamp index
        .next ((s.setEngine g { r.2 with waiting := r.2.waiting ++ [(who, r.1)] }).closeRounds g ms)
  | _ => .next s

/-- The groups of an element in ascending number with its rank in each (R103). -/
def State.groupsOf (s : State) (le : Nat) : List (Nat × Nat) :=
  (List.range 256).filterMap (fun g => ((s.members g).findIdx? (· == le)).map (fun r => (g, r)))

/-- The group table and its member lists have been read at their homes (R154). -/
def State.groupsSeen (s : State) : State := if s.latent.isEmpty then s else (List.range 256).foldl (fun s g => s.membersSeen g) s

/-- `GID` (R342). -/
def execGid (d : Opnd) (i : BitVec 2) (s : State) : Host.Outcome State Fault Refusal :=
  withIssue [] [(.g, d)] (fun s =>
    let s := s.groupsSeen
    .next ((s.putG d (match (s.groupsOf s.cur.1)[i.toNat]? with
      | some (g, r) => BitVec.ofNat 64 (r * 2 ^ 32 + g)
      | none => 0xFFFFFFFFFFFFFFFF)).advance)) s

/-! ### Stage instructions -/

/-- A stage record is malformed (R99). -/
def badStage (bs : List Byte) : Bool :=
  let sp := leNat (bs.take 8)
  let mp := leNat ((bs.drop 8).take 8)
  let hi := (bs.getD 17 0).toNat
  let lo := (bs.getD 18 0).toNat
  sp == 0 || mp == 0 || sp % 4 != 0 || mp % 4 != 0 || decide (7 < (bs.getD 16 0).toNat) || !(decide (lo < hi) && decide (hi ≤ 32)) ||
  (bs.drop 19).any (· != 0)

/-- A stage with a twin, or with a clone or merge in progress, which counts as one (R99, R334). -/
def Stage.twinned (st : Stage) (home : Nat) : Bool := st.hasTwin home || st.op.isSome

/-- `STG` (R99). On a twin's own channel the element stays a twin to the samples of R323 (log entry 73); a withdrawal there drops its whole record of the
stage (log entry 77). -/
def execStg (a b : RegNo) (s : State) : Host.Outcome State Fault Refusal :=
  withIssue [(.g, .reg a), (.g, .reg b)] [] (fun s =>
    let ea := (s.rg b).toNat
    let ch := (s.rg a).toNat
    let le := s.cur.1
    if ea % 32 ≠ 0 then s.trap 0x04 (s.rg b)
    else if s.structBehind ea 32 then .next s
    else match s.readStruct (s.issuer 0) ea 8 4 with
      | (.error (c, addr), s) => s.memTrap c addr
      | (.ok bs, s) =>
        match Map.find ch (s.el le).handlers with
        | none => s.trap 0x07 1
        | some h =>
          if ch < 5 || 29 < ch || h.hpc = 0 || h.prio then s.trap 0x07 1
          else
            let st := s.stage le ch
            let twinned := h.stateful && (match st with
              | some st => st.twinned le
              | none => false)
            if leNat (bs.take 8) = 0 && leNat ((bs.drop 8).take 8) = 0 then
              if twinned then s.trap 0x07 4
              else .next ((s.updEl le (fun e => { e with
                handlers := Map.set ch { h with stateful := false, spc := 0, mpc := 0, key := 0, hiw := 0, low := 0 } e.handlers
                stages := if h.stateful then Map.drop ch e.stages else e.stages })).advance)
            else if badStage bs then s.trap 0x07 2
            else if !h.stateful && 4 ≤ ((s.el le).handlers.filter (fun x => x.2.stateful)).length then s.trap 0x07 3
            else if twinned then s.trap 0x07 4
            else
              let h' := { h with
                stateful := true, spc := BitVec.ofNat 64 (leNat (bs.take 8)), mpc := BitVec.ofNat 64 (leNat ((bs.drop 8).take 8))
                key := (bs.getD 16 0).toNat, hiw := (bs.getD 17 0).toNat, low := (bs.getD 18 0).toNat }
              let old := st.getD ⟨[], 0, none, none, 0, [], none⟩
              .next ((s.updEl le (fun e => { e with
                handlers := Map.set ch h' e.handlers
                stages := Map.set ch { old with overloads := 0, krt := if h.stateful then old.krt else [⟨0, le, 0⟩] } e.stages })).advance)) s

/-- `CLONE` (R335): refusals complete the token at once. -/
def execClone (d a : RegNo) (s : State) : Host.Outcome State Fault Refusal :=
  withIssue [(.g, .reg a)] [(.g, .reg d)] (fun s =>
    let ch := (s.rg a).toNat
    let le := s.cur.1
    let i := s.newId
    let s := (i.2.noteRunnable le).mark (.g d) i.1
    let fail := fun (code : Nat) => Host.Outcome.next ((s.token (s.issuer i.1) (tokErr code)).advance)
    if !s.isHome le ch then fail 0x38
    else match s.stage le ch with
      | none => fail 0x38
      | some st =>
        if st.op.isSome then fail 0x39
        else if 8 ≤ st.krt.length || (widest le st.krt).isNone then fail 0x3A
        else match s.cloneStart le ch (some (s.cur.2, i.1)) with
          | some s => .next s.advance
          | none => .next (((s.setStage le ch { st with overloads := 0 }).token (s.issuer i.1) (tokErr 0x3B)).advance)) s

/-- `MERGE` (R336). -/
def execMerge (d a : RegNo) (b : Opnd) (s : State) : Host.Outcome State Fault Refusal :=
  withIssue [(.g, .reg a), (.g, b)] [(.g, .reg d)] (fun s =>
    let ch := (s.rg a).toNat
    let le := s.cur.1
    let x := s.takeG b
    let i := x.2.newId
    let s := i.2.mark (.g d) i.1
    let fail := fun (code : Nat) => Host.Outcome.next ((s.token (s.issuer i.1) (tokErr code)).advance)
    if !s.isHome le ch then fail 0x38
    else match s.stage le ch with
      | none => fail 0x38
      | some st =>
        if st.op.isSome then fail 0x39
        else if x.1.toNat = le || !st.krt.any (fun k => k.own == x.1.toNat) then fail 0x3D
        else .next ((s.mergeStart le ch x.1.toNat (some (s.cur.2, i.1))).advance)) s

/-- A table entry as `krd` reads it (R337). -/
def KrtEntry.word (k : KrtEntry) : Word := BitVec.ofNat 64 (2 ^ 63 + k.kst * 2 ^ 50 + k.own * 2 ^ 32 + k.lo)

/-- `KRD` (R337). -/
def execKrd (d : Opnd) (a : RegNo) (i : BitVec 3) (s : State) : Host.Outcome State Fault Refusal :=
  withIssue [(.g, .reg a)] [(.g, d)] (fun s =>
    let ch := (s.rg a).toNat
    let le := s.cur.1
    .next ((s.putG d (if s.isHome le ch then
        match (s.stage le ch).bind (fun st => st.krt[i.toNat]?) with
        | some k => k.word
        | none => 0
      else 0)).advance)) s

/-- `XST` (R338): the copy engine of the issuer's tile carries the bytes to the partner. -/
def execXst (d a : RegNo) (b : Opnd) (s : State) : Host.Outcome State Fault Refusal :=
  withIssue [(.g, .reg a), (.g, b)] [(.g, .reg d)] (fun s =>
    let le := s.cur.1
    let addr := s.rg a
    if s.copyFull then .next s
    else
      let x := s.takeG b
      let i := x.2.newId
      let s := i.2.mark (.g d) i.1
      let fail := fun (code : Nat) => Host.Outcome.next ((s.token (s.issuer i.1) (tokErr code)).advance)
      let act := s.act.getD Act.idle
      if s.th.inSup || !(act.kind == .split || act.kind == .exportState) || act.xst != 0 then fail 0x3E
      else if addr.toNat % 8 ≠ 0 || x.1.toNat % 8 ≠ 0 then fail 0x04
      else if 0 < x.1.toNat && ((s.allotOf le act.allot).map (·.size)).getD 0 < addr.toNat + x.1.toNat then fail 0x08
      else
        let cmd : CopyCmd := ⟨s.issuer i.1, .xst addr x.1 act.partner act.stageCh (act.kind == .exportState)⟩
        let s := s.queueCopy cmd
        .next ((s.updTh (fun t => { t with act := t.act.map (fun a => { a with xst := 1, codelet := i.1 }) })).advance)) s

/-! ### The steps of cloning and merging -/

/-- The set's activation, or the stage it has left, learns how `xst` number `id` ended (R326, R331, R338). -/
def State.xstEnd (who : Issuer) (ch : Nat) (ok : Bool) (s : State) : State :=
  match (s.thOf who.le who.set).act with
  | some a =>
    if (a.kind == .split || a.kind == .exportState) && a.stageCh == ch && a.xst == 1 && a.codelet == who.id then
      s.updThOf who.le who.set (fun t => { t with act := some { a with xst := if ok then 2 else 0 } })
    else s.deferredXst who.le ch who.id ok
  | none => s.deferredXst who.le ch who.id ok

/-- `SPLIT_QUEUE` (R325): the running activation of the held channel has ended. The device messages on channels 30 and 31 take the priority-0 queue and wait
while it is full, and the stage hardware goes on between a stop and the save (R334; log entry 77). -/
def execSplitQueue (le ch : Nat) (s : State) : Host.Outcome State Fault Refusal :=
  match s.stage le ch with
  | some st =>
    match st.op with
    | some o =>
      if !o.isClone || o.queued || (s.el le).inbFull false ||
          (s.el le).inb.any (fun q => hdrChan q.msg.header == ch && q.taken) then .next s
      else
        let s := s.setStage le ch { st with op := some { o with queued := true } }
        .next (s.enqueue le ⟨mkHeader 0 0 true none le 30 false, [], .split ch o.low o.high o.mid o.partner⟩ false)
    | none => .next s
  | none => .next s

/-- `CLONE_INSTALL` (R326), in a stopped partition too (log entry 77). -/
def execCloneInstall (le ch : Nat) (s : State) : Host.Outcome State Fault Refusal := .next (s.install le ch)

/-- `MERGE_EXPORT_QUEUE` (R331): both markers have come and every record before the marker of its priority has ended. Where the supervisor has dropped
the message of an export (R354), a new one is queued (log entry 76); its queue and a stop: log entry 77. -/
def execMergeExportQueue (le ch : Nat) (s : State) : Host.Outcome State Fault Refusal :=
  match s.stage le ch with
  | some st =>
    match st.twinHome.bind (fun h => (s.stage h ch).bind (fun hs => hs.op.map (fun o => (h, o)))) with
    | some (home, o) =>
      let both := st.markers.any (fun m => m.1) && st.markers.any (fun m => !m.1)
      let left := (s.el le).inb.any (fun q => hdrChan q.msg.header == ch && !st.pastMarker q)
      let queued := (s.el le).inb.any (fun q => match q.msg.kind with
        | .merge true c _ _ _ => c == ch
        | _ => false)
      if o.isClone || !both || left || queued || (s.el le).inbFull false then .next s
      else .next (s.enqueue le ⟨mkHeader 0 0 true none le 31 false, [], .merge true ch o.low o.high home⟩ false)
    | none => .next s
  | none => .next s

/-- `MERGE_IMPORT_QUEUE` (R332); its queue and a stop: log entry 77. -/
def execMergeImportQueue (le ch : Nat) (s : State) : Host.Outcome State Fault Refusal :=
  match s.stage le ch with
  | some st =>
    match st.op with
    | some o =>
      if o.isClone || !o.shipped || o.queued || (s.el le).inbFull false then .next s
      else
        let s := s.setStage le ch { st with op := some { o with queued := true } }
        .next (s.enqueue le ⟨mkHeader 0 0 true none le 31 false, [], .merge false ch o.low o.high o.partner⟩ false)
    | none => .next s
  | none => .next s

end Sys2Proof.Machine
end

