-- ==== Sys2Proof/Machine/Engine.lean ====
section
/-! DEFINITION. What the engines share (R100 to R102, R244 to R250, R268): shape records, element addresses and types, and their reads and
writes of memory, planes and ports. -/
namespace Sys2Proof.Machine

/-! ### Shape records -/

/-- A signed 64-bit number. -/
def signed64 (n : Nat) : Int := (BitVec.ofNat 64 n).toInt

/-- The fields of a shape record (R100). -/
def shapeOf (bs : List Byte) : Shape where
  base := leNat (bs.take 8)
  dims := leWords 4 4 (bs.drop 8)
  strides := 1 :: (leWords 8 3 (bs.drop 24)).map signed64
  type := (bs.getD 48 0).toNat
  flags := (bs.getD 49 0).toNat
  lblk := (bs.getD 50 0).toNat
  zeros := leNat ((bs.drop 51).take 5)
  scale := leNat ((bs.drop 56).take 8)

/-- Flag bit 0: a port (R100). -/
def Shape.isPort (h : Shape) : Bool := h.flags % 2 == 1
/-- Flag bit 1: a trust plane. -/
def Shape.plane (h : Shape) : Bool := h.flags / 2 % 2 == 1
/-- Flag bit 2: a carousel window. -/
def Shape.window (h : Shape) : Bool := h.flags / 4 % 2 == 1
/-- Flag bit 3: block-scaled. -/
def Shape.scaled (h : Shape) : Bool := h.flags / 8 % 2 == 1

/-- The format of a floating type code (R58). -/
def typeFmt : Nat → Option Fmt
  | 0x00 => some fmtF64
  | 0x01 => some fmtF32
  | 0x02 => some fmtF16
  | 0x03 => some fmtBf16
  | 0x04 => some fmtE4m3
  | 0x05 => some fmtE5m2
  | 0x06 => some fmtE2m1
  | _ => none

/-- Width and sign of an integer type code (R57). -/
def typeInt : Nat → Option (Nat × Bool)
  | 0x08 => some (64, true)
  | 0x09 => some (32, true)
  | 0x0A => some (16, true)
  | 0x0B => some (8, true)
  | 0x0C => some (4, true)
  | 0x0D => some (32, false)
  | 0x0E => some (16, false)
  | 0x0F => some (8, false)
  | _ => none

/-- The width in bits of an element of a type code. -/
def typeBits (t : Nat) : Nat :=
  match typeFmt t, typeInt t with
  | some f, _ => f.w
  | none, some i => i.1
  | none, none => if t = 7 then 8 else 32

/-- The record is malformed (R102, error 0x22). -/
def Shape.malformed (h : Shape) : Bool :=
  decide (0x10 < h.type) || decide (16 ≤ h.flags) || h.zeros != 0 ||
  (h.isPort && !((decide (32 ≤ h.base) && decide (h.base ≤ 37)) || (decide (40 ≤ h.base) && decide (h.base ≤ 43)))) ||
  (h.window && !(decide (0x80000 ≤ h.base) && decide (h.base < 0xB0000))) ||
  (h.plane && (typeFmt h.type).isNone) || (h.scaled && h.lblk == 0) || decide (8 < h.lblk)

/-- The base is not aligned to the element size (R102, error 0x04). -/
def Shape.misaligned (h : Shape) : Bool := !h.isPort && h.base % (max 1 (typeBits h.type / 8)) != 0

/-- What R102 says of a record: an error code or none. -/
def Shape.error (h : Shape) : Option Nat := if h.malformed then some 0x22 else if h.misaligned then some 0x04 else none

/-- The number of elements. -/
def Shape.count (h : Shape) : Nat := h.dims.foldl (· * ·) 1

/-- The index tuple of the k-th element in iteration order, dim0 fastest. -/
def indexOf : List Nat → Nat → List Nat
  | [], _ => []
  | d :: ds, k => (k % max d 1) :: indexOf ds (k / max d 1)

/-- The element index of a tuple (R101). -/
def Shape.elem (h : Shape) (ix : List Nat) : Int :=
  (List.range 4).foldl (fun n j => n + (ix.getD j 0 : Int) * h.strides.getD j 0) 0

/-- The address of the first byte of an element, and for packed types whether it is the high nibble (R101, R57). -/
def Shape.addr (h : Shape) (ix : List Nat) : Nat × Bool :=
  let i := h.elem ix
  let b := typeBits h.type
  if b = 4 then ((((h.base : Int) + i / 2) % 2 ^ 64).toNat, i % 2 == 1)
  else ((((h.base : Int) + i * (b / 8 : Nat)) % 2 ^ 64).toNat, false)

/-- Bytes an element occupies. -/
def Shape.bytes (h : Shape) : Nat := max 1 (typeBits h.type / 8)

/-! ### Memory -/

/-- An engine's read of `n` bytes (R249): global memory through the issuing tile's L1, local memory at its banks. The error is a token
code (R151). -/
def State.engineLoad (who : Issuer) (ea n : Nat) (s : State) : Except Nat (List Byte) × State :=
  match s.resolve who .special false ea n with
  | (.error c, s) => (.error c, s)
  | (.ok t, s) =>
    match s.loadNow who t ea n with
    | (.error _, s) => (.error 0x0F, s)
    | (.ok bs, s) => (.ok bs, s)

/-- An engine's write (R249): global memory at the L2 home, the issuing tile's copy going first; local memory at its bank. `bump` says
whether the tracked word is bumped with it (R150). -/
def State.engineStore (who : Issuer) (ea : Nat) (bs : List Byte) (bump : Bool) (s : State) : Except Nat State :=
  match s.resolve who .special true ea bs.length with
  | (.error c, _) => .error c
  | (.ok t, s) =>
    let s := (s.flushOwn who.le t.place).homeStore t.place bs
    .ok (if bump then s.engineBump ea t.place else s)

/-- The records of a block: `n` shape records from `ea` (R244). The error is a token code. -/
def State.readShapes (who : Issuer) (ea n : Nat) (s : State) : Except Nat (List Shape) × State :=
  match s.readStruct who ea 8 (8 * n) with
  | (.error e, s) => (.error e.1, s)
  | (.ok bs, s) => (.ok ((List.range n).map (fun k => shapeOf ((bs.drop (64 * k)).take 64))), s)

/-- The record at `ea` as the issuing element reads it at issue (R255, R279, R375): none where it is misaligned, faults or is malformed. -/
def State.peekRecord (who : Issuer) (ea : Word) (s : State) : Option Shape × State :=
  if ea.toNat % 64 ≠ 0 then (none, s)
  else match s.readShapes who ea.toNat 1 with
    | (.ok (h :: _), s) => (if h.error.isNone then some h else none, s)
    | (_, s) => (none, s)

/-- An earlier operation of the issuing set on the record at `ea` is outstanding (R303). -/
def State.recordWaits (s : State) (ea : Word) : Bool := ea.toNat % 64 == 0 && s.structBehind ea.toNat 64

/-- The plane bytes of the granules that `n` bytes at `ea` cover, read as counts: the least, or `full` outside every window (R78). -/
def State.enginePlane (who : Issuer) (ea n full : Nat) (s : State) : Except Nat Nat × State :=
  (List.range ((n + 3) / 4)).foldl (fun (acc : Except Nat Nat × State) k =>
    match acc with
    | (.error c, s) => (.error c, s)
    | (.ok m, s) =>
      match s.planeOf (ea + 4 * k) with
      | none => (.ok m, s)
      | some pa =>
        match s.engineLoad who pa 1 with
        | (.error c, s) => (.error c, s)
        | (.ok bs, s) => (.ok (min m ((bs.getD 0 0).toNat % 64)), s)) (.ok full, s)

/-- The count `t` written to the plane bytes of the granules that `n` bytes at `ea` cover (R78). -/
def State.engineSetPlane (who : Issuer) (ea n t : Nat) (s : State) : Except Nat State :=
  (List.range ((n + 3) / 4)).foldl (fun (acc : Except Nat State) k =>
    match acc with
    | .error c => .error c
    | .ok s =>
      match s.planeOf (ea + 4 * k) with
      | none => .ok s
      | some pa => s.engineStore who pa [BitVec.ofNat 8 t] true) (.ok s)

/-! ### Block scales (R268) -/

/-- Block scaling goes only with e2m1 and blocks of 32 (R268, R395). -/
def Shape.badScaling (h : Shape) : Bool := h.scaled && (h.type != 6 || h.lblk != 5)

/-- The scale record of a block-scaled shape: 0x04 misaligned, 0x22 malformed. -/
def State.scaleRec (who : Issuer) (h : Shape) (s : State) : Except Nat ScaleRec × State :=
  if h.scale % 16 ≠ 0 then (.error 0x04, s)
  else match s.readStruct who h.scale 8 2 with
    | (.error e, s) => (.error e.1, s)
    | (.ok bs, s) =>
      let r : ScaleRec := ⟨leNat (bs.take 8), leNat ((bs.drop 8).take 2), leNat ((bs.drop 10).take 2), leNat ((bs.drop 12).take 4)⟩
      (if r.sper = 0 || r.slines = 0 || r.sstr < r.sper then .error 0x22 else .ok r, s)

/-- The scale byte of block `b` on line `l`. -/
def State.scaleByte (who : Issuer) (r : ScaleRec) (l b : Nat) (s : State) : Except Nat Nat × State :=
  match s.engineLoad who (r.scva + l * r.sstr + b) 1 with
  | (.error c, s) => (.error c, s)
  | (.ok bs, s) => (.ok (bs.getD 0 0).toNat, s)

/-- A two-digit binary format with a wide exponent, which holds every e2m1 value times a scale. -/
def fmtScaled : Fmt := ⟨13, 1, -1022, 1023, true, true, false, 0x06⟩

/-- An e2m1 pattern times 2^(x − 127), NaN for the scale 0xFF (R60). -/
def scaledVal (bits x : Nat) : Nat :=
  if x = 255 then fmtScaled.nanBits
  else match fmtE2m1.val bits with
    | .num neg n d => (fmtScaled.roundQ 0 0 neg (Q.mul ⟨if neg then -(n : Int) else n, d⟩ (Q.pow2 1 ((x : Int) - 127)))).bits
    | _ => 0

/-! ### Elements -/

/-- The count an element of a type has without a plane. -/
def typeFull (t : Nat) : Nat :=
  match typeFmt t with
  | some f => f.p
  | none => 0

/-- The line of scales of an element: its row number along dims 1 to 3. -/
def Shape.line (h : Shape) (ix : List Nat) : Nat :=
  ix.getD 1 0 + h.dims.getD 1 1 * (ix.getD 2 0 + h.dims.getD 2 1 * ix.getD 3 0)

/-- The scale byte of element `ix` of a block-scaled shape. -/
def State.readScale (who : Issuer) (h : Shape) (sr : Option ScaleRec) (ix : List Nat) (s : State) : Except Nat (Option Nat) × State :=
  match sr with
  | none => (.ok none, s)
  | some r =>
    match s.scaleByte who r (h.line ix) (ix.getD 0 0 / 32) with
    | (.error c, s) => (.error c, s)
    | (.ok e, s) => (.ok (some e), s)

/-- Element `ix` of a shape in memory: its bits, its count and, for a block-scaled shape, its scale; a scaled element has count 2 with or
without a plane (R395). -/
def State.readElem (who : Issuer) (h : Shape) (sr : Option ScaleRec) (ix : List Nat) (s : State) : Except Nat Elem × State :=
  let a := h.addr ix
  match s.engineLoad who a.1 h.bytes with
  | (.error c, s) => (.error c, s)
  | (.ok bs, s) =>
    let x := if typeBits h.type = 4 then leNat bs / (if a.2 then 16 else 1) % 16 else leNat bs
    let full := typeFull h.type
    let r : Except Nat Nat × State := if h.plane && sr.isNone then s.enginePlane who a.1 h.bytes full else (.ok full, s)
    match r with
    | (.error c, s) => (.error c, s)
    | (.ok t, s) =>
      match s.readScale who h sr ix with
      | (.error c, s) => (.error c, s)
      | (.ok sc, s) => (.ok ⟨x, t, sc⟩, s)

/-- Whether element `ix` of a shape shares a location with element `iy` of another (R130, R249): nibbles of one byte do not. -/
def Shape.meets (who : Issuer) (h : Shape) (ix : List Nat) (g : Shape) (iy : List Nat) (s : State) : Bool :=
  let a := h.addr ix
  let b := g.addr iy
  !(typeBits h.type == 4 && typeBits g.type == 4 && a.2 != b.2) && s.sharesPlace who a.1 h.bytes b.1 g.bytes

/-- Whether two elements that meet coincide: the same bytes, and the same nibble of a packed type. -/
def Shape.coincides (h : Shape) (ix : List Nat) (g : Shape) (iy : List Nat) : Bool :=
  let a := h.addr ix
  let b := g.addr iy
  a.1 % 65536 == b.1 % 65536 && a.2 == b.2 && typeBits h.type == typeBits g.type

/-- Element `ix` of a shape written, with its plane byte where the shape has flag bit 1 (R244). Where either fails, neither is written (log entry 76). -/
def State.writeElem (who : Issuer) (h : Shape) (ix : List Nat) (x t : Nat) (s : State) : Except Nat State :=
  let a := h.addr ix
  let done := fun (s : State) => if h.plane then s.engineSetPlane who a.1 h.bytes t else .ok s
  if typeBits h.type = 4 then
    match s.resolve who .special true a.1 1 with
    | (.error c, _) => .error c
    | (.ok tg, s) =>
      let s := (s.flushOwn who.le tg.place).correctLine tg.place.key
      let old := leNat (s.homeBytes tg.place 1)
      let new := if a.2 then old % 16 + 16 * (x % 16) else old / 16 * 16 + x % 16
      match s.engineStore who a.1 [BitVec.ofNat 8 new] true with
      | .error c => .error c
      | .ok s => done s
  else
    match s.engineStore who a.1 (leBytes h.bytes x) true with
    | .error c => .error c
    | .ok s => done s

/-- Whether the elements of a shape include bytes of the own local window (R375). -/
def Shape.inOwn (h : Shape) : Bool :=
  !h.isPort && (List.range h.count).any (fun k => decide ((h.addr (indexOf h.dims k)).1 < 0x10000))

/-! ### Ports (R249) -/

/-- The port that a record's base names. -/
def portOfBase (n : Nat) : Option Port :=
  if n = 32 then some .pi else if n = 33 then some .po else portOfNumber n

/-- The engine that runs a command waits at a port as its issuer's sets do (R180, R249). -/
def Issuer.waiter (who : Issuer) : Waiter := .engine who.id

/-- The next payload word for a command of a handler (R178): of its own message also while the supervisor runs on the set, which leaves the
message and the position with the suspended handler (R346); zero for a command of the supervisor (R347). -/
def State.popHandler (who : Issuer) (s : State) : Word × State :=
  match (s.thOf who.le who.set).act with
  | some a =>
    if who.inSup || a.payload.length ≤ a.read then (0, s)
    else (a.payload.getD a.read 0, s.updThOf who.le who.set (fun t => { t with act := some { a with read := a.read + 1 } }))
  | none => (0, s)

/-- The pending payload of the handler, or of the supervisor where `sup`: that of a suspended handler stands with it (R346), and that of one
that has ended is discarded (R179). -/
def ThreadSet.pendOf (sup : Bool) (t : ThreadSet) : List Word :=
  if t.inSup == sup then t.pend
  else match t.susp with
    | some u => if sup then [] else u.pend
    | none => []

/-- One word pushed onto that pending payload. -/
def ThreadSet.pushPend (sup : Bool) (w : Word) (t : ThreadSet) : ThreadSet :=
  if t.inSup == sup then { t with pend := t.pend ++ [w] }
  else if sup then t
  else { t with susp := t.susp.map (fun u => { u with pend := u.pend ++ [w] }) }

/-- One word popped by an engine for its issuer: none where the port is empty or a reader is ahead of it, and then it takes a place among
the readers (R180, R249). -/
def State.enginePop (who : Issuer) (n : Nat) (s : State) : Option Word × State :=
  match portOfBase n with
  | none | some .po => (some 0, s)
  | some .pi => let r := s.popHandler who; (some r.1, r.2)
  | some p =>
    if s.popReady who.waiter who.le p 1 then
      let r := s.popFifo who.waiter who.le p
      (some r.1, r.2)
    else (none, s.updIn who.le p (·.joinReader who.waiter))

/-- What an engine's push answers: done, blocked, or error 0x0B for a ninth pending word (R249). -/
inductive Pushed where
  | done (s : State)
  | blocked (s : State)
  | error (code : Nat)

/-- One word pushed by an engine for its issuer; where it has no room or a writer is ahead of it, it takes a place among the writers (R180,
R249). -/
def State.enginePush (who : Issuer) (n : Nat) (w : Word) (s : State) : Pushed :=
  match portOfBase n with
  | none | some .pi => .done s
  | some .po => if 8 ≤ ((s.thOf who.le who.set).pendOf who.inSup).length then .error 0x0B
      else .done (s.updThOf who.le who.set (·.pushPend who.inSup w))
  | some p =>
    if s.pushReady who.waiter who.le p 0 1 then .done (s.pushFifo who.waiter who.le p w)
    else .blocked (s.updOut who.le p (·.joinWriter who.waiter))

/-- A command ends: its engine gives up the places it may still hold, and its token is written (R151). -/
def State.endCommand (who : Issuer) (value : Word) (s : State) : State := (s.leaveQueues who.le who.waiter).token who value

/-- A link that does not exist, named by a record (R181). -/
def State.noLink (s : State) (le n : Nat) : Bool :=
  match portOfBase n with
  | some p => (s.absentLink le [(p, 1)]).isSome
  | none => false

/-- The earlier memory operations of the issuing set have completed (R249, R260). -/
def State.storesDone (s : State) (who : Issuer) : Bool :=
  !s.busyBefore who.le who.set who.id

end Sys2Proof.Machine
end

