-- ==== Sys2Proof/Machine/Fp.lean ====
section
/-! DEFINITION. Scalar floating-point instructions (R197 to R209): operands are read by R197, results are computed by Flags.lean, checked by
R82 and written with their flags, or held by a doldrums trap (R84). -/
namespace Sys2Proof.Machine

/-- An f operand seen in format `f` (R197). -/
def viewF (f : Fmt) (x : FReg) : Opv := ⟨f, x.bits.toNat % 2 ^ f.w, min x.tc f.p⟩

/-- A doldrums trap of the issuing set: the draws stay taken, nothing else has changed (R212). A set that waited at a queue keeps its
place among the readers or writers there while the trap is handled (log entry 69). -/
def State.doldrums (val : Word) (held : HeldResult) (s : State) : Host.Outcome State Fault Refusal :=
  .next (s.trapAt s.cur.1 s.cur.2 0x09 val (some held))

/-- The retirement of a checked scalar result `r`: the trap 0x09 from state `s0`, where nothing has been popped, when it fails (R82, R83),
else the write of `d`, the flags and the pc in state `s1`. `ts` are the counts of a, b and c, 63 where there is none. -/
def fpRetire (rds : List (Cls × Opnd)) (d : Opnd) (ts : Nat × Nat × Nat) (r : FpRes × Nat) (s0 s1 : State) :
    Host.Outcome State Fault Refusal :=
  let x : FReg := ⟨BitVec.ofNat 64 r.1.bits, r.2⟩
  if s0.th.fails r.2 then
    s0.doldrums (doldrumsVal ts.2.2 ts.2.1 ts.1 r.2 1 0 (Opnd.field d)) ⟨[outF d x], r.1.fl, portUses rds⟩
  else .next (((s1.putF d x).updTh (·.raise r.1.fl)).advance)

/-- A checked operation on one operand that rounds by `fcsr.rm` (R198, R200). -/
def fpOp1 (f : Fmt) (k : Nat → Nat → Opv → FpRes × Nat) (d a : Opnd) (s : State) : Host.Outcome State Fault Refusal :=
  withIssue [(.f, a)] [(.f, d)] (fun s =>
    let rm := s.th.rm
    let dr := s.draws rm 1
    let x := dr.2.takeF f.p a
    let vx := viewF f x.1
    fpRetire [(.f, a)] d (vx.t, 63, 63) (k rm (dr.1.headD 0) vx) dr.2 x.2) s

/-- A checked operation on two operands that rounds by `fcsr.rm` (R198, R200). -/
def fpOp2 (f : Fmt) (k : Nat → Nat → Opv → Opv → FpRes × Nat) (d a b : Opnd) (s : State) : Host.Outcome State Fault Refusal :=
  withIssue [(.f, a), (.f, b)] [(.f, d)] (fun s =>
    let rm := s.th.rm
    let dr := s.draws rm 1
    let x := dr.2.takeF f.p a
    let y := x.2.takeF f.p b
    let vx := viewF f x.1
    let vy := viewF f y.1
    fpRetire [(.f, a), (.f, b)] d (vx.t, vy.t, 63) (k rm (dr.1.headD 0) vx vy) dr.2 y.2) s

/-- A move of one operand's bits: a NaN gets count 0 (R199). -/
def fpMove1 (f : Fmt) (k : Nat → Nat) (d a : Opnd) (s : State) : Host.Outcome State Fault Refusal :=
  withIssue [(.f, a)] [(.f, d)] (fun s =>
    let x := s.takeF f.p a
    let vx := viewF f x.1
    .next ((x.2.putF d ⟨BitVec.ofNat 64 (k vx.bits), if vx.v.isNaN then 0 else vx.t⟩).advance)) s

/-- A choice between two operands or of their bits, never checked, without flags (R200, R201). -/
def fpMove2 (f : Fmt) (k : Opv → Opv → Nat × Nat) (d a b : Opnd) (s : State) : Host.Outcome State Fault Refusal :=
  withIssue [(.f, a), (.f, b)] [(.f, d)] (fun s =>
    let x := s.takeF f.p a
    let y := x.2.takeF f.p b
    let r := k (viewF f x.1) (viewF f y.1)
    .next ((y.2.putF d ⟨BitVec.ofNat 64 r.1, r.2⟩).advance)) s

/-- The magnitude bits of a pattern. -/
def Fmt.mag (f : Fmt) (bits : Nat) : Nat := bits % 2 ^ (f.w - 1)

/-- The sign bit of a pattern. -/
def Fmt.sign (f : Fmt) (bits : Nat) : Nat := bits / 2 ^ (f.w - 1) % 2

/-- `FADD` (R200). -/
def execFadd (t : FType) (d a b : Opnd) (s : State) : Host.Outcome State Fault Refusal :=
  fpOp2 (ftypeFmt t) (fpAdd (ftypeFmt t)) d a b s
/-- `FSUB` (R200): x + (−y), whose trust floor is that of y. -/
def execFsub (t : FType) (d a b : Opnd) (s : State) : Host.Outcome State Fault Refusal :=
  fpOp2 (ftypeFmt t) (fun rm dr x y => fpAdd (ftypeFmt t) rm dr x y.negate) d a b s
/-- `FMUL` (R200). -/
def execFmul (t : FType) (d a b : Opnd) (s : State) : Host.Outcome State Fault Refusal :=
  fpOp2 (ftypeFmt t) (fpMul (ftypeFmt t)) d a b s
/-- `FDIV` (R200). -/
def execFdiv (t : FType) (d a b : Opnd) (s : State) : Host.Outcome State Fault Refusal :=
  fpOp2 (ftypeFmt t) (fpDiv (ftypeFmt t)) d a b s
/-- `FSQRT` (R200). -/
def execFsqrt (t : FType) (d a : Opnd) (s : State) : Host.Outcome State Fault Refusal :=
  fpOp1 (ftypeFmt t) (fpSqrt (ftypeFmt t)) d a s
/-- `FMIN` (R201). -/
def execFmin (t : FType) (d a b : Opnd) (s : State) : Host.Outcome State Fault Refusal :=
  fpMove2 (ftypeFmt t) (fpPick (ftypeFmt t) false) d a b s
/-- `FMAX` (R201). -/
def execFmax (t : FType) (d a b : Opnd) (s : State) : Host.Outcome State Fault Refusal :=
  fpMove2 (ftypeFmt t) (fpPick (ftypeFmt t) true) d a b s
/-- A pattern with its sign set to `neg`; a NaN's bits stay (R61, R199). -/
def Fmt.setSign (f : Fmt) (neg : Bool) (bits : Nat) : Nat := if (f.val bits).isNaN then bits else f.signed neg (f.mag bits)

/-- `FABS` (R200). -/
def execFabs (t : FType) (d a : Opnd) (s : State) : Host.Outcome State Fault Refusal :=
  fpMove1 (ftypeFmt t) (fun x => (ftypeFmt t).setSign false x) d a s
/-- `FNEG` (R200). -/
def execFneg (t : FType) (d a : Opnd) (s : State) : Host.Outcome State Fault Refusal :=
  fpMove1 (ftypeFmt t) (fun x => (ftypeFmt t).setSign ((ftypeFmt t).sign x == 0) x) d a s
/-- `FSGN` (R200): the magnitude of x and the sign of y, with x's count; a NaN x unchanged (R199), a NaN y by its stored sign bit (log entry 74). -/
def execFsgn (t : FType) (d a b : Opnd) (s : State) : Host.Outcome State Fault Refusal :=
  fpMove2 (ftypeFmt t) (fun x y => ((ftypeFmt t).setSign ((ftypeFmt t).sign y.bits == 1) x.bits,
    if x.v.isNaN then 0 else x.t)) d a b s
/-- `FCLASS` (R202). -/
def execFclass (t : FType) (d a : Opnd) (s : State) : Host.Outcome State Fault Refusal :=
  withIssue [(.f, a)] [(.g, d)] (fun s =>
    let x := s.takeF (ftypeFmt t).p a
    .next ((x.2.putG d (BitVec.ofNat 64 (fpClass (ftypeFmt t) (viewF (ftypeFmt t) x.1).bits))).advance)) s
/-- `FRND` (R203). -/
def execFrnd (t : FType) (d a : Opnd) (s : State) : Host.Outcome State Fault Refusal :=
  fpOp1 (ftypeFmt t) (fpRnd (ftypeFmt t)) d a s
/-- `FMOV` (R200). -/
def execFmov (t : FType) (d a : Opnd) (s : State) : Host.Outcome State Fault Refusal :=
  fpMove1 (ftypeFmt t) (fun x => x) d a s

/-- `FFMA` (R205), f64 where `dbl`, else f32. -/
def execFfma (dbl : Bool) (d a b c : Opnd) (s : State) : Host.Outcome State Fault Refusal :=
  let f := if dbl then fmtF64 else fmtF32
  withIssue [(.f, a), (.f, b), (.f, c)] [(.f, d)] (fun s =>
    let rm := s.th.rm
    let dr := s.draws rm 1
    let x := dr.2.takeF f.p a
    let y := x.2.takeF f.p b
    let z := y.2.takeF f.p c
    let vx := viewF f x.1
    let vy := viewF f y.1
    let vz := viewF f z.1
    fpRetire [(.f, a), (.f, b), (.f, c)] d (vx.t, vy.t, vz.t) (fpFma f rm (dr.1.headD 0) vx vy vz) dr.2 z.2) s

/-- The value and flags of `fcmp` (R206). -/
def fpCmp (cond : FCond) (x y : Fp) : Bool × FpFlags :=
  if x.isNaN || y.isNaN then
    match cond with
    | .un => (true, 0)
    | .eq => (false, 0)
    | _ => (false, flNV)
  else
    match cond, fpOrd x y with
    | .un, _ => (false, 0)
    | .eq, o => (o == none, 0)
    | .lt, o => (o == some true, 0)
    | .le, o => (o != some false, 0)

/-- `FCMP` (R206). -/
def execFcmp (t : FType) (cond : FCond) (d a b : Opnd) (s : State) : Host.Outcome State Fault Refusal :=
  withIssue [(.f, a), (.f, b)] [(.g, d)] (fun s =>
    let x := s.takeF (ftypeFmt t).p a
    let y := x.2.takeF (ftypeFmt t).p b
    let r := fpCmp cond (viewF (ftypeFmt t) x.1).v (viewF (ftypeFmt t) y.1).v
    .next (((y.2.putG d (if r.1 then 1 else 0)).updTh (·.raise r.2)).advance)) s

/-- A floating type of `fcvt`. -/
def cvtFmt : CvtType → Option Fmt
  | .f64 => some fmtF64
  | .f32 => some fmtF32
  | .f16 => some fmtF16
  | .bf16 => some fmtBf16
  | _ => none

/-- The bounds of an integer type of `fcvt`. -/
def cvtBounds : CvtType → Int × Int
  | .i64 => (-2 ^ 63, 2 ^ 63 - 1)
  | .n64 => (0, 2 ^ 64 - 1)
  | .i32 => (-2 ^ 31, 2 ^ 31 - 1)
  | _ => (0, 2 ^ 32 - 1)

/-- The integer that `fcvt` reads (R207). -/
def cvtSource (t : CvtType) (x : Word) : Int :=
  match t with
  | .i64 => x.toInt
  | .i32 => (x.setWidth 32 : BitVec 32).toInt
  | .n32 => ((x.setWidth 32 : BitVec 32).toNat : Int)
  | _ => (x.toNat : Int)

/-- The mode of an `fcvt` (R207). -/
def ThreadSet.cvtMode (rm : RmField) (t : ThreadSet) : Nat :=
  match rm with
  | .mode .rne => 0
  | .mode .rna => 1
  | .mode .rtz => 2
  | .mode .rdn => 3
  | .mode .rup => 4
  | .mode .sr => 5
  | .dyn => t.rm

/-- `FCVT` (R207). -/
def execFcvt (dst src : CvtType) (rm : RmField) (d a : Opnd) (s : State) : Host.Outcome State Fault Refusal :=
  match cvtFmt src, cvtFmt dst with
  | some fs, some fd =>
    withIssue [(.f, a)] [(.f, d)] (fun s =>
      let m := s.th.cvtMode rm
      let dr := s.draws m 1
      let x := dr.2.takeF fs.p a
      let vx := viewF fs x.1
      fpRetire [(.f, a)] d (vx.t, 63, 63) (fpConv fd m (dr.1.headD 0) vx) dr.2 x.2) s
  | none, some fd =>
    withIssue [(.g, a)] [(.f, d)] (fun s =>
      let m := s.th.cvtMode rm
      let dr := s.draws m 1
      let x := dr.2.takeG a
      fpRetire [(.g, a)] d (fd.p, 63, 63) (intConv fd m (dr.1.headD 0) (cvtSource src x.1)) dr.2 x.2) s
  | some fs, none =>
    withIssue [(.f, a)] [(.g, d)] (fun s =>
      let m := s.th.cvtMode rm
      let dr := s.draws m 1
      let x := dr.2.takeF fs.p a
      let b := cvtBounds dst
      let r := fpToInt m (dr.1.headD 0) b.1 b.2 (viewF fs x.1)
      .next (((x.2.putG d (BitVec.ofInt 64 r.1)).updTh (·.raise r.2)).advance)) s
  | none, none => s.trap 0x01 (instrVal (.fcvt dst src rm d a))

/-- `FMOVI` (R208, R52). -/
def execFmovi (d : Opnd) (i : BitVec 12) (s : State) : Host.Outcome State Fault Refusal :=
  withIssue [] [(.f, d)] (fun s => .next ((s.putF d ⟨BitVec.ofNat 64 (i.toNat * 2 ^ 20), 24⟩).advance)) s

/-- `FTC` (R209): the stored count of `f[a]`, or of slot `lane` of `v[a]` where `v`. -/
def execFtc (d : Opnd) (a : RegNo) (v : Bool) (lane : BitVec 2) (s : State) : Host.Outcome State Fault Refusal :=
  withIssue [(if v then .v else .f, .reg a)] [(.g, d)] (fun s =>
    let c := if v then vget (s.rv a).tc lane.toNat else (s.rf a).tc
    .next ((s.putG d (BitVec.ofNat 64 c)).advance)) s

/-- `FSTC` (R209): the count of `f[d]`, or of slot `lane` of `v[d]`, set to `g[a]` or the ceiling; the data stay. To R352 it is
a write of the whole register (log entry 74). -/
def execFstc (d : RegNo) (a : Opnd) (v : Bool) (lane : BitVec 2) (s : State) : Host.Outcome State Fault Refusal :=
  withIssue [(.g, a)] [(if v then .v else .f, .reg d)] (fun s =>
    let x := s.takeG a
    .next ((if v then
        let r := x.2.rv d
        x.2.updTh (·.wv d { r with tc := vset r.tc lane.toNat (min x.1.toNat 24) })
      else
        let r := x.2.rf d
        x.2.updTh (·.wf d { r with tc := min x.1.toNat 53 })).advance)) s

end Sys2Proof.Machine
end

