-- ==== Sys2Proof/Machine/Vec.lean ====
section
/-! DEFINITION. Short-vector instructions (R238 to R243): lanes of the v registers, the floating lanes by the scalar rules with one draw for
each rounding, the doldrums check of R241, and the quad unit's turn among w-ops (R248). -/
namespace Sys2Proof.Machine

/-! ### Lanes (R238) -/

/-- The format of a floating lane type. -/
def laneFmt : LaneType → Option Fmt
  | .f32 => some fmtF32
  | .bf16 => some fmtBf16
  | .f16 => some fmtF16
  | _ => none

/-- Bits of a lane. -/
def laneW : LaneType → Nat
  | .f32 | .i32 | .n32 => 32
  | .bf16 | .f16 | .i16 | .n16 => 16
  | .i8 | .n8 => 8

/-- Lanes of a type. -/
def laneN (t : LaneType) : Nat := 128 / laneW t

/-- A `.i` lane type. -/
def laneSigned : LaneType → Bool
  | .i32 | .i16 | .i8 => true
  | _ => false

/-- The 32-bit slot that holds the count of lane `q`. -/
def laneSlot (t : LaneType) (q : Nat) : Nat := q * laneW t / 32

/-- The bits of lane `q`. -/
def laneBits (t : LaneType) (v : VReg) (q : Nat) : Nat := v.bits.toNat / 2 ^ (laneW t * q) % 2 ^ laneW t

/-- The stored count of lane `q`, clamped to `p` (R209). -/
def laneCount (t : LaneType) (p : Nat) (v : VReg) (q : Nat) : Nat := min (vget v.tc (laneSlot t q)) p

/-- Floating lane `q` as an operand. -/
def laneOpv (t : LaneType) (f : Fmt) (v : VReg) (q : Nat) : Opv := ⟨f, laneBits t v q, laneCount t f.p v q⟩

/-- The integer that lane bits stand for. -/
def laneInt (t : LaneType) (x : Nat) : Int :=
  if laneSigned t && 2 ^ (laneW t - 1) ≤ x then (x : Int) - 2 ^ laneW t else x

/-- The low bits of an integer as lane bits. -/
def laneOfInt (w : Nat) (x : Int) : Nat := (x % 2 ^ w).toNat

/-- Lanes put together, lane 0 lowest. -/
def packLanes (w : Nat) (xs : List Nat) : Quad128 := BitVec.ofNat 128 (xs.foldr (fun x acc => x + 2 ^ w * acc) 0)

/-- The slot counts of a written register from its lanes' counts: the least of a slot's lanes (R74), 24 for integer lanes (R238). -/
def slotCounts (t : LaneType) (cs : List Nat) : Vector Nat 4 :=
  match laneFmt t with
  | none => Vector.replicate 4 24
  | some f => Vector.ofFn (fun k =>
      ((List.range (laneN t)).filter (fun q => laneSlot t q == k.val)).foldl (fun c q => min c (cs.getD q f.p)) f.p)

/-- A register of lanes, each with its count. -/
def vregOf (t : LaneType) (xs : List (Nat × Nat)) : VReg := ⟨packLanes (laneW t) (xs.map (·.1)), slotCounts t (xs.map (·.2))⟩

/-- The full count of a lane type: p, and 24 for integer lanes. -/
def laneFull (t : LaneType) : Nat :=
  match laneFmt t with
  | some f => f.p
  | none => 24

/-- The count of moved bits: that of the lane, 0 for a NaN (R76). -/
def movedCount (t : LaneType) (x c : Nat) : Nat :=
  match laneFmt t with
  | some f => if (f.val x).isNaN then 0 else c
  | none => c

/-! ### Issue -/

/-- The issuing element uses up its grant in quad `qd` (R248). -/
def State.takeGrant (qd : Nat) (s : State) : State :=
  let q := Map.get Quad.start s.quads qd
  { s with quads := Map.set qd { q with grants := q.grants.filter (· != s.cur.1) } s.quads }

/-- A v-instruction: while w-ops hold the quad's unit it waits for its turn after the next quantum (R248). -/
def withVec (rds wrs : List (Cls × Opnd)) (k : State → Host.Outcome State Fault Refusal) (s : State) :
    Host.Outcome State Fault Refusal :=
  let qd := s.quadOf s.cur.1
  let q := Map.get Quad.start s.quads qd
  if q.wops.isEmpty then withIssue rds wrs k s
  else if !q.grants.contains s.cur.1 then .next s
  else withIssue rds wrs (fun s => k (s.takeGrant qd)) s

/-- One lane of a checked result: its value and count, and the counts of a, b and c (63 for none). -/
structure LaneRes where
  r : FpRes × Nat
  ta : Nat
  tb : Nat
  tc : Nat
  deriving DecidableEq, Repr

/-- The retirement of a checked vector result (R241): the trap 0x09 with the lowest failing slot, else the write. `tcr` of a failing 16-bit
lane is that lane's own count, not the count its shared slot would have stored (R83 does not say which; log entry 65). -/
def vRetire (t : LaneType) (rds : List (Cls × Opnd)) (d : Opnd) (rs : List LaneRes) (s0 s1 : State) :
    Host.Outcome State Fault Refusal :=
  let x := vregOf t (rs.map (fun l => (l.r.1.bits, l.r.2)))
  let fl := rs.foldl (fun (a : FpFlags) l => a ||| l.r.1.fl) 0
  let check := s0.th.sigctl.getLsbD 9
  match (List.range rs.length).find? (fun q => match rs[q]? with
      | some l => check && s0.th.fails l.r.2
      | none => false) with
  | some q =>
    let l := rs.getD q ⟨(⟨0, 0, false, false⟩, 0), 63, 63, 63⟩
    s0.doldrums (doldrumsVal l.tc l.tb l.ta l.r.2 2 (laneSlot t q) (Opnd.field d)) ⟨[outV d x], fl, portUses rds⟩
  | none => .next (((s1.putV d x).updTh (·.raise fl)).advance)

/-- A floating or integer lane operation that is checked and drawn for (R240): `kf` for floating lanes, `ki` on lane integers. -/
def vArith (t : LaneType) (kf : Fmt → Nat → Nat → Opv → Opv → FpRes × Nat) (ki : Int → Int → Int) (d a b : Opnd) (s : State) :
    Host.Outcome State Fault Refusal :=
  withVec [(.v, a), (.v, b)] [(.v, d)] (fun s =>
    match laneFmt t with
    | some f =>
      let rm := s.th.rm
      let dr := s.draws rm (laneN t)
      let x := dr.2.takeV f.p a
      let y := x.2.takeV f.p b
      vRetire t [(.v, a), (.v, b)] d ((List.range (laneN t)).map (fun q =>
        let vx := laneOpv t f x.1 q
        let vy := laneOpv t f y.1 q
        ⟨kf f rm (dr.1.getD q 0) vx vy, vx.t, vy.t, 63⟩)) dr.2 y.2
    | none =>
      let x := s.takeV 24 a
      let y := x.2.takeV 24 b
      .next ((y.2.putV d (vregOf t ((List.range (laneN t)).map (fun q =>
        (laneOfInt (laneW t) (ki (laneInt t (laneBits t x.1 q)) (laneInt t (laneBits t y.1 q))), 24))))).advance)) s

/-- A lane operation on two sources without rounding or check: `k` gives lane `q`'s bits and count from the two registers. -/
def vMove2 (t : LaneType) (k : VReg → VReg → Nat → Nat × Nat) (fl : VReg → VReg → FpFlags) (d a b : Opnd) (s : State) :
    Host.Outcome State Fault Refusal :=
  withVec [(.v, a), (.v, b)] [(.v, d)] (fun s =>
    let x := s.takeV (laneFull t) a
    let y := x.2.takeV (laneFull t) b
    .next (((y.2.putV d (vregOf t ((List.range (laneN t)).map (k x.1 y.1)))).updTh (·.raise (fl x.1 y.1))).advance)) s

/-- The same on one source. -/
def vMove1 (t : LaneType) (k : VReg → Nat → Nat × Nat) (d a : Opnd) (s : State) : Host.Outcome State Fault Refusal :=
  withVec [(.v, a)] [(.v, d)] (fun s =>
    let x := s.takeV (laneFull t) a
    .next ((x.2.putV d (vregOf t ((List.range (laneN t)).map (k x.1)))).advance)) s

/-- `VADD` (R240). -/
def execVadd (t : LaneType) (d a b : Opnd) (s : State) : Host.Outcome State Fault Refusal :=
  vArith t fpAdd (fun x y => x + y) d a b s
/-- `VSUB` (R240). -/
def execVsub (t : LaneType) (d a b : Opnd) (s : State) : Host.Outcome State Fault Refusal :=
  vArith t (fun f rm dr x y => fpAdd f rm dr x y.negate) (fun x y => x - y) d a b s
/-- `VMUL` (R240). -/
def execVmul (t : LaneType) (d a b : Opnd) (s : State) : Host.Outcome State Fault Refusal :=
  vArith t fpMul (fun x y => x * y) d a b s

/-- Lane `q` of `vmin` or `vmax` (R240). -/
def vPickLane (t : LaneType) (wantMax : Bool) (x y : VReg) (q : Nat) : Nat × Nat :=
  match laneFmt t with
  | some f => fpPick f wantMax (laneOpv t f x q) (laneOpv t f y q)
  | none =>
    let p := laneInt t (laneBits t x q)
    let r := laneInt t (laneBits t y q)
    (if (if wantMax then p < r else r < p) then laneBits t y q else laneBits t x q, 24)

/-- `VMIN` (R240). -/
def execVmin (t : LaneType) (d a b : Opnd) (s : State) : Host.Outcome State Fault Refusal :=
  vMove2 t (vPickLane t false) (fun _ _ => 0) d a b s
/-- `VMAX` (R240). -/
def execVmax (t : LaneType) (d a b : Opnd) (s : State) : Host.Outcome State Fault Refusal :=
  vMove2 t (vPickLane t true) (fun _ _ => 0) d a b s

/-- Lane bits with `kf` done to a floating pattern, `ki` to an integer. -/
def vSignLane (t : LaneType) (kf : Fmt → Nat → Nat) (ki : Int → Int) (x : VReg) (q : Nat) : Nat × Nat :=
  match laneFmt t with
  | some f => (kf f (laneBits t x q), movedCount t (laneBits t x q) (laneCount t f.p x q))
  | none => (laneOfInt (laneW t) (ki (laneInt t (laneBits t x q))), 24)

/-- `VABS` (R240). -/
def execVabs (t : LaneType) (d a : Opnd) (s : State) : Host.Outcome State Fault Refusal :=
  vMove1 t (vSignLane t (fun f x => f.setSign false x) (fun x => x.natAbs)) d a s
/-- `VNEG` (R240). -/
def execVneg (t : LaneType) (d a : Opnd) (s : State) : Host.Outcome State Fault Refusal :=
  vMove1 t (vSignLane t (fun f x => f.setSign (f.sign x == 0) x) (fun x => -x)) d a s

/-- A bitwise or shift operation on integer lanes. -/
def vBits (t : LaneType) (k : Nat → Nat → Nat) (d a b : Opnd) (s : State) : Host.Outcome State Fault Refusal :=
  vMove2 t (fun x y q => (k (laneBits t x q) (laneBits t y q) % 2 ^ laneW t, 24)) (fun _ _ => 0) d a b s

/-- `VAND` (R240). -/
def execVand (t : LaneType) (d a b : Opnd) (s : State) : Host.Outcome State Fault Refusal := vBits t (fun x y => x &&& y) d a b s
/-- `VOR` (R240). -/
def execVor (t : LaneType) (d a b : Opnd) (s : State) : Host.Outcome State Fault Refusal := vBits t (fun x y => x ||| y) d a b s
/-- `VXOR` (R240). -/
def execVxor (t : LaneType) (d a b : Opnd) (s : State) : Host.Outcome State Fault Refusal := vBits t (fun x y => x ^^^ y) d a b s
/-- `VSHL` (R240): by the low log2 w bits. -/
def execVshl (t : LaneType) (d a b : Opnd) (s : State) : Host.Outcome State Fault Refusal :=
  vBits t (fun x y => x * 2 ^ (y % laneW t)) d a b s
/-- `VSHR` (R240): arithmetic for `.i`, logical for `.n`. -/
def execVshr (t : LaneType) (d a b : Opnd) (s : State) : Host.Outcome State Fault Refusal :=
  vBits t (fun x y => laneOfInt (laneW t) (laneInt t x / 2 ^ (y % laneW t))) d a b s

/-- A lane moved with its count. -/
def laneMoved (t : LaneType) (x : VReg) (q : Nat) : Nat × Nat :=
  (laneBits t x q, movedCount t (laneBits t x q) (laneCount t (laneFull t) x q))

/-- `VPERM` (R240): lane index from the low log2 N bits of y. -/
def execVperm (t : LaneType) (d a b : Opnd) (s : State) : Host.Outcome State Fault Refusal :=
  vMove2 t (fun x y q => laneMoved t x (laneBits t y q % laneN t)) (fun _ _ => 0) d a b s

/-- The class of the scalar of `vbc`, `vins` and `vext` (R43). -/
def scalarCls (t : LaneType) : Cls := if (laneFmt t).isSome then .f else .g

/-- The scalar operand of `vbc` and `vins` as lane bits with its count (R240). -/
def State.takeScalar (t : LaneType) (a : Opnd) (s : State) : (Nat × Nat) × State :=
  match laneFmt t with
  | some f =>
    let x := s.takeF f.p a
    let v := viewF f x.1
    ((v.bits, movedCount t v.bits v.t), x.2)
  | none =>
    let x := s.takeG a
    ((x.1.toNat % 2 ^ laneW t, 24), x.2)

/-- `VBC` (R240). -/
def execVbc (t : LaneType) (d a : Opnd) (s : State) : Host.Outcome State Fault Refusal :=
  withVec [(scalarCls t, a)] [(.v, d)] (fun s =>
    let x := s.takeScalar t a
    .next ((x.2.putV d (vregOf t (List.replicate (laneN t) x.1))).advance)) s

/-- The sum of floating lanes in ascending order, each addition rounded (R240). -/
def vredSum (t : LaneType) (f : Fmt) (rm : Nat) (draws : List Nat) (x : VReg) : FpRes × Nat :=
  let o := laneOpv t f x 0
  (List.range (laneN t - 1)).foldl (fun (acc : FpRes × Nat) q =>
    let r := fpAdd f rm (draws.getD q 0) ⟨f, acc.1.bits, acc.2⟩ (laneOpv t f x (q + 1))
    ({ r.1 with fl := r.1.fl ||| acc.1.fl }, r.2)) (⟨o.bits, 0, false, false⟩, o.t)

/-- `VRED` (R240). -/
def execVred (t : LaneType) (d a : Opnd) (s : State) : Host.Outcome State Fault Refusal :=
  withVec [(.v, a)] [(.v, d)] (fun s =>
    match laneFmt t with
    | some f =>
      let rm := s.th.rm
      let dr := s.draws rm (laneN t - 1)
      let x := dr.2.takeV f.p a
      let z : LaneRes := ⟨(f.zeroRes false, f.p), 63, 63, 63⟩
      vRetire t [(.v, a)] d (⟨vredSum t f rm dr.1 x.1, laneCount t f.p x.1 0, 63, 63⟩ :: List.replicate (laneN t - 1) z) dr.2 x.2
    | none =>
      let x := s.takeV 24 a
      let sum := ((List.range (laneN t)).map (laneBits t x.1)).sum % 2 ^ laneW t
      .next ((x.2.putV d (vregOf t ((sum, 24) :: List.replicate (laneN t - 1) (0, 24)))).advance)) s

/-- `VINS` (R240): lane `l` of `v[d]`; the other lanes stay. On 16-bit lanes the counts of the slots it leaves are written as `v[d]` reads them, at most p (log
entry 74). -/
def execVins (t : LaneType) (d : RegNo) (a : Opnd) (l : BitVec 6) (s : State) : Host.Outcome State Fault Refusal :=
  withVec [(scalarCls t, a), (.v, .reg d)] [(.v, .reg d)] (fun s =>
    let x := s.takeScalar t a
    let old := x.2.rv d
    .next ((x.2.updTh (·.wv d (vregOf t ((List.range (laneN t)).map (fun q =>
      if q = l.toNat then x.1 else (laneBits t old q, laneCount t (laneFull t) old q)))))).advance)) s

/-- `VEXT` (R240). -/
def execVext (t : LaneType) (d a : Opnd) (l : BitVec 6) (s : State) : Host.Outcome State Fault Refusal :=
  withVec [(.v, a)] [(scalarCls t, d)] (fun s =>
    let x := s.takeV (laneFull t) a
    let m := laneMoved t x.1 l.toNat
    .next ((match laneFmt t with
      | some _ => x.2.putF d ⟨BitVec.ofNat 64 m.1, m.2⟩
      | none => x.2.putG d (BitVec.ofInt 64 (laneInt t m.1))).advance)) s

/-- The exact sum of products of floating operands rounded once to f32, with its count (R240 `vdot`). The floor of a zero product of 16-bit
lanes takes the lane format's emin, not f32's (R74, R75 leave it open; log entry 65). -/
def fpDot (rm draw : Nat) (ps : List (Opv × Opv)) : FpRes × Nat :=
  let f := fmtF32
  let bad := ps.any (fun p => (p.1.v.isInf && p.2.v.isZero) || (p.1.v.isZero && p.2.v.isInf))
  let isNan := ps.any (fun p => p.1.v.isNaN || p.2.v.isNaN)
  let sgn := fun (p : Opv × Opv) => p.1.v.isNeg != p.2.v.isNeg
  let infs := ps.filter (fun p => p.1.v.isInf || p.2.v.isInf)
  let zero := fun (p : Opv × Opv) => p.1.v.isZero || p.2.v.isZero
  let s0 := (ps.head?.map sgn).getD false
  let r : FpRes :=
    if bad then f.nanRes flNV
    else if isNan then f.nanRes 0
    else if infs.any sgn && infs.any (fun p => !sgn p) then f.nanRes flNV
    else match infs with
      | p :: _ => f.infRes (sgn p) 0
      | [] => f.roundQ rm draw (if ps.all zero && ps.all (fun p => sgn p == s0) then s0 else rm == 3)
          (ps.foldl (fun q p => q.add (p.1.v.q.mul p.2.v.q)) ⟨0, 1⟩)
  let floorOf := fun (p : Opv × Opv) => (if zero p then p.1.f.emin else match p.1.v, p.2.v with
    | .num _ n1 d1, .num _ n2 d2 => expOf (n1 * n2) (d1 * d2)
    | _, _ => p.1.f.emin) - (min p.1.t p.2.t : Nat) + 1
  let floorW := match ps with
    | [] => 0
    | p :: rest => rest.foldl (fun m q => max m (floorOf q)) (floorOf p)
  (r, f.count r (f.addCount r floorW) (ps.any zero) (ps.all (fun p => p.1.t == p.1.f.p && p.2.t == p.2.f.p))
    (ps.foldl (fun m p => min m (min p.1.t p.2.t)) f.p))

/-- `VDOT` (R240). -/
def execVdot (t : LaneType) (d a b : Opnd) (s : State) : Host.Outcome State Fault Refusal :=
  withVec [(.v, a), (.v, b)] [(.v, d)] (fun s =>
    match laneFmt t with
    | some f =>
      let rm := s.th.rm
      let dr := s.draws rm 1
      let x := dr.2.takeV f.p a
      let y := x.2.takeV f.p b
      let r := fpDot rm (dr.1.headD 0) ((List.range (laneN t)).map (fun q => (laneOpv t f x.1 q, laneOpv t f y.1 q)))
      let z : LaneRes := ⟨(fmtF32.zeroRes false, 24), 63, 63, 63⟩
      vRetire .f32 [(.v, a), (.v, b)] d [⟨r, laneCount t f.p x.1 0, laneCount t f.p y.1 0, 63⟩, z, z, z] dr.2 y.2
    | none =>
      let x := s.takeV 24 a
      let y := x.2.takeV 24 b
      let sum := ((List.range (laneN t)).map (fun q => laneInt t (laneBits t x.1 q) * laneInt t (laneBits t y.1 q))).sum
      .next ((y.2.putV d ⟨BitVec.ofNat 128 (laneOfInt 32 sum), Vector.replicate 4 24⟩).advance)) s

/-- `VCMP` (R240): all ones for below, 1 for equal, 0 else; NV for any NaN lane. -/
def execVcmp (t : LaneType) (d a b : Opnd) (s : State) : Host.Outcome State Fault Refusal :=
  match laneFmt t with
  | some f =>
    vMove2 t (fun x y q =>
        let p := (laneOpv t f x q).v
        let r := (laneOpv t f y q).v
        (if p.isNaN || r.isNaN then 0 else match fpOrd p r with
          | some true => 2 ^ laneW t - 1
          | none => 1
          | some false => 0, 0))
      (fun x y => if (List.range (laneN t)).any (fun q => (laneOpv t f x q).v.isNaN || (laneOpv t f y q).v.isNaN) then flNV else 0)
      d a b s
  | none =>
    vMove2 t (fun x y q =>
        let p := laneInt t (laneBits t x q)
        let r := laneInt t (laneBits t y q)
        (if p < r then 2 ^ laneW t - 1 else if p = r then 1 else 0, 24)) (fun _ _ => 0) d a b s

/-- `VSEL` (R240): x where the top bit of lane q of `v[d]` is set, else y. -/
def execVsel (t : LaneType) (d : RegNo) (a b : Opnd) (s : State) : Host.Outcome State Fault Refusal :=
  withVec [(.v, a), (.v, b), (.v, .reg d)] [(.v, .reg d)] (fun s =>
    let x := s.takeV (laneFull t) a
    let y := x.2.takeV (laneFull t) b
    let z := y.2.rv d
    .next ((y.2.updTh (·.wv d (vregOf t ((List.range (laneN t)).map (fun q =>
      if 2 ^ (laneW t - 1) ≤ laneBits t z q then laneMoved t x.1 q else laneMoved t y.1 q))))).advance)) s

/-- `vfma` on lanes of type `t` (R242). -/
def vfmaOp (t : LaneType) (f : Fmt) (d a b c : Opnd) (s : State) : Host.Outcome State Fault Refusal :=
  withVec [(.v, a), (.v, b), (.v, c)] [(.v, d)] (fun s =>
    let rm := s.th.rm
    let dr := s.draws rm (laneN t)
    let x := dr.2.takeV f.p a
    let y := x.2.takeV f.p b
    let z := y.2.takeV f.p c
    vRetire t [(.v, a), (.v, b), (.v, c)] d ((List.range (laneN t)).map (fun q =>
      let vx := laneOpv t f x.1 q
      let vy := laneOpv t f y.1 q
      let vz := laneOpv t f z.1 q
      ⟨fpFma f rm (dr.1.getD q 0) vx vy vz, vx.t, vy.t, vz.t⟩)) dr.2 z.2) s

/-- `VFMA_F32` (R242). -/
def execVfmaF32 (d a b c : Opnd) (s : State) : Host.Outcome State Fault Refusal := vfmaOp .f32 fmtF32 d a b c s
/-- `VFMA_BF16` (R242). -/
def execVfmaBf16 (d a b c : Opnd) (s : State) : Host.Outcome State Fault Refusal := vfmaOp .bf16 fmtBf16 d a b c s

/-- The least and greatest integers of a lane type. -/
def laneBounds (t : LaneType) : Int × Int :=
  if laneSigned t then (-2 ^ (laneW t - 1), 2 ^ (laneW t - 1) - 1) else (0, 2 ^ laneW t - 1)

/-- An integer saturated to bounds. -/
def clampInt (b : Int × Int) (x : Int) : Int := if x < b.1 then b.1 else if b.2 < x then b.2 else x

/-- Lane `q` converted (R243), with its flags. A negative integer lane into a natural type gives 0 at every width, a wider one too (R243 leaves that
open; log entry 75), and a natural lane above the maximum of a signed type of its width gives that maximum (log entry 76). -/
def vcvtLane (dst src : LaneType) (rm draw : Nat) (x : VReg) (q : Nat) : LaneRes :=
  match laneFmt src, laneFmt dst with
  | some fs, some fd =>
    let v := laneOpv src fs x q
    ⟨fpConv fd rm draw v, v.t, 63, 63⟩
  | none, some fd => ⟨intConv fd rm draw (laneInt src (laneBits src x q)), fd.p, 63, 63⟩
  | some fs, none =>
    let b := laneBounds dst
    let r := fpToInt rm draw b.1 b.2 (laneOpv src fs x q)
    ⟨(⟨laneOfInt (laneW dst) r.1, r.2, false, false⟩, 24), 63, 63, 63⟩
  | none, none =>
    ⟨(⟨laneOfInt (laneW dst) (clampInt (laneBounds dst) (laneInt src (laneBits src x q))), 0, false, false⟩, 24), 63, 63, 63⟩

/-- `VCVT` (R243): lanes beyond the source's become zero with the full count. A conversion that reads or writes floating lanes takes one
draw for each lane converted (R73). -/
def execVcvt (dst src : LaneType) (d a : Opnd) (s : State) : Host.Outcome State Fault Refusal :=
  withVec [(.v, a)] [(.v, d)] (fun s =>
    let n := min (laneN dst) (laneN src)
    let rm := s.th.rm
    let dr := s.draws rm (if (laneFmt src).isSome || (laneFmt dst).isSome then n else 0)
    let x := dr.2.takeV (laneFull src) a
    let rs := (List.range n).map (fun q => vcvtLane dst src rm (dr.1.getD q 0) x.1 q) ++
      List.replicate (laneN dst - n) ⟨(⟨0, 0, false, false⟩, laneFull dst), 63, 63, 63⟩
    match laneFmt dst with
    | some _ => vRetire dst [(.v, a)] d rs dr.2 x.2
    | none =>
      let fl := rs.foldl (fun (f : FpFlags) l => f ||| l.r.1.fl) 0
      .next (((x.2.putV d (vregOf dst (rs.map (fun l => (l.r.1.bits, 24))))).updTh (·.raise fl)).advance)) s

end Sys2Proof.Machine
end

