-- ==== Sys2Proof/Machine/Wop.lean ====
section
/-! DEFINITION. Shape-iterated operations of the quad vector unit (R244 to R251): issue with the draws reserved, the checks of R246 and R247,
and the run element by element, which a port may block. -/
namespace Sys2Proof.Machine

/-! ### What a sub-operation uses -/

/-- The sub-operation reads Y (R246). -/
def WSub.usesY : WSub → Bool
  | .add | .sub | .mul | .fma | .min | .max => true
  | _ => false

/-- The sub-operation moves bits (R246). -/
def WSub.moves : WSub → Bool
  | .cpy | .trn => true
  | _ => false

/-- Roundings for each element of D (R73): X's dim0 for `wred`; none for moved bits, for integers, and for `wmin` and `wmax` of one
type, which a block-scaled source is not (R395). -/
def WSub.roundings (sub : WSub) (d x y : Shape) : Nat :=
  let fl := fun (h : Shape) => (typeFmt h.type).isSome
  match sub with
  | .cpy | .trn => 0
  | .red => if fl d then x.dims.headD 0 else 0
  | .cvt => if fl d || fl x then 1 else 0
  | .min | .max => if fl d && [x, y].any (fun h => h.type != d.type || h.scaled) then 1 else 0
  | _ => if fl d then 1 else 0

/-- A source dim of `sd` against the dim `dd` of D: iterated or broadcast (R245). -/
def dimOk (sd dd : Nat) : Bool := sd == dd || sd == 1

/-- The dims of a source fit those of D (R245). -/
def WSub.dimsOk (sub : WSub) (d h : Shape) : Bool :=
  let g := fun (x : Shape) (j : Nat) => x.dims.getD j 0
  match sub with
  | .red => dimOk (g h 1) (g d 1) && dimOk (g h 2) (g d 2) && dimOk (g h 3) (g d 3)
  | .trn => dimOk (g h 0) (g d 1) && dimOk (g h 1) (g d 0) && dimOk (g h 2) (g d 2) && dimOk (g h 3) (g d 3)
  | _ => (List.range 4).all (fun j => dimOk (g h j) (g d j))

/-- A port that a source may name, and one that D may name (R247). -/
def srcPort (n : Nat) : Bool := n == 32 || (decide (34 ≤ n) && decide (n ≤ 37)) || (decide (40 ≤ n) && decide (n ≤ 43))
def dstPort (n : Nat) : Bool := (decide (33 ≤ n) && decide (n ≤ 37)) || (decide (40 ≤ n) && decide (n ≤ 43))

/-- The checks of R246 and R247 on the used records: error 0x23 where they fail. A `wfma` whose D is a port pops its addend from that port, and so D may
not be port 33, which cannot be read (R247 does not say; log entry 75). -/
def WSub.refuses (sub : WSub) (d x y : Shape) : Bool :=
  let fl := fun (h : Shape) => (typeFmt h.type).isSome
  let it := fun (h : Shape) => (typeInt h.type).isSome
  let res := fun (h : Shape) => h.type == 0x10
  let used := if sub.usesY then [d, x, y] else [d, x]
  let srcs := if sub.usesY then [x, y] else [x]
  let types : Bool := match sub with
    | .add | .sub | .mul | .fma | .min | .max | .red => used.all fl || used.all it
    | .exp | .rsq | .act | .scl => used.all fl
    | .cpy => x.type == d.type && x.type != 7
    | .trn => x.type == d.type && x.type != 7 && !res x
    | .cvt => used.all (fun h => h.type != 7) && !((fl d && res x) || (res d && fl x))
  !types || d.window || d.scaled || srcs.any Shape.badScaling || (d.isPort && !dstPort d.base) || srcs.any (fun h => h.isPort && !srcPort h.base) ||
  (sub == .fma && d.isPort && !srcPort d.base) || !srcs.all (sub.dimsOk d) || (sub == .red && d.dims.headD 0 != 1)

/-- The source index for an index of D, and `k` along the reduction (R245). -/
def WSub.srcIndex (sub : WSub) (h d : Shape) (ix : List Nat) (k : Nat) : List Nat :=
  let pick := fun (j i : Nat) => if h.dims.getD j 0 = 1 then 0 else ix.getD i 0
  match sub with
  | .red => [k, pick 1 1, pick 2 2, pick 3 3]
  | .trn => [pick 0 1, pick 1 0, pick 2 2, pick 3 3]
  | _ => (List.range 4).map (fun j => if h.dims.getD j 0 = d.dims.getD j 0 then ix.getD j 0 else 0)

/-! ### Values -/

/-- A floating element as an operand: a scaled one as its e2m1 value times its scale (R395), where a zero keeps the format of e2m1, whose emin
its floor takes (R74). -/
def elemOpv (h : Shape) (e : Elem) : Opv :=
  match e.sc with
  | none => ⟨(typeFmt h.type).getD fmtF32, e.bits, e.t⟩
  | some x => if e.bits % 8 = 0 && x != 255 then ⟨fmtE2m1, e.bits, e.t⟩ else ⟨fmtScaled, scaledVal e.bits x, e.t⟩

/-- The integer of an element (R57, R64). -/
def elemInt (h : Shape) (e : Elem) : Int :=
  match typeInt h.type with
  | some (w, true) => if 2 ^ (w - 1) ≤ e.bits then (e.bits : Int) - 2 ^ w else e.bits
  | some (_, false) => e.bits
  | none => residueVal e.bits

/-- A Taylor sum of e^r from term `n`, in units of 2^−`b`. -/
def taylor (b : Nat) (r : Nat) : Nat → Nat → Nat → Nat → Nat
  | 0, _, _, acc => acc
  | fuel + 1, n, term, acc => let t := term * r / (2 ^ b * (n + 1)); taylor b r fuel (n + 1) t (acc + t)

/-- A number squared `k` times, in units of 2^−`b`. -/
def squares (b : Nat) : Nat → Nat → Nat
  | 0, x => x
  | k + 1, x => squares b k (x * x / 2 ^ b)

/-- e^x as a fraction, to more than 200 bits for |x| below 1,200; beyond, a value past every format's range. A nonzero |x| below 2^−250 gives a
fraction on the same side of 1 and as near to it, so that no rounding takes e^x for exact. -/
def expFrac (x : Q) : Nat × Nat :=
  if x.num = 0 then (1, 1)
  else if (1200 : Int) * x.den ≤ x.num then (2 ^ 1100, 1)
  else if x.num ≤ (-1200 : Int) * x.den then (1, 2 ^ 1500)
  else if x.num.natAbs * 2 ^ 250 < x.den then (if x.num < 0 then 2 ^ 250 - 1 else 2 ^ 250 + 1, 2 ^ 250)
  else
    let b := 320
    let r := x.num.natAbs * 2 ^ b / (x.den * 2 ^ 20)
    let e := squares b 20 (taylor b r 40 0 (2 ^ b) (2 ^ b))
    if x.num < 0 then (2 ^ b, e) else (e, 2 ^ b)

/-- A positive result within 1 ulp: the value of the format above or below the exact one, infinity or saturation where it overflows. -/
def Fmt.roundFree (f : Fmt) (upper : Bool) (x : Mag) : FpRes :=
  let near := f.round 0 0 false x
  let r := f.round (if upper then 4 else 2) 0 false x
  if near.fl &&& flOF != 0 || r.fl &&& flOF != 0 then near else r

/-- e^X in D's format (R246), with its count; the clamp at p − 1 takes a subnormal result's own bits for p (R76 case 4). -/
def wexpOf (dt xt : Nat) (f : Fmt) (x : Opv) : FpRes × Nat :=
  let r : FpRes := match x.v with
    | .nan => f.nanRes 0
    | .inf true => f.zeroRes false
    | .inf false => f.infRes false 0
    | .num neg n d =>
      let e := expFrac ⟨if neg then -(n : Int) else n, d⟩
      f.roundFree (Config.expUpper dt xt x.bits) (.frac e.1 e.2)
  (r, f.count r (min (max 0 (-x.floorW)) (f.ownBits r.bits - 1)) x.v.isZero (x.t == x.f.p) x.t)

/-- 1/√X in D's format (R246), with its count; the cap at p − 1 takes a subnormal result's own bits for p (R76 case 4). -/
def wrsqOf (dt xt : Nat) (f : Fmt) (x : Opv) : FpRes × Nat :=
  let r : FpRes := match x.v with
    | .nan => f.nanRes 0
    | .inf true => f.nanRes flNV
    | .inf false => f.zeroRes false
    | .num neg n d =>
      if n = 0 then f.infRes neg flDZ
      else if neg then f.nanRes flNV
      else f.roundFree (Config.rsqUpper dt xt x.bits) (.root d n)
  (r, f.count r (min ((x.t : Int) + 1) (f.ownBits r.bits - 1)) x.v.isZero (x.t == x.f.p) x.t)

/-- A floating value taken into D's format: unchanged in its own, else converted (R207). One of D's own type keeps its count, a subnormal one too (log
entry 74). -/
def wmoveTo (f : Fmt) (rm draw : Nat) (x : Opv) : FpRes × Nat :=
  if x.f == f then (⟨x.bits, 0, false, false⟩, if x.v.isNaN then 0 else min x.t f.p) else fpConv f rm draw x

/-- The operand is an infinity. -/
def Opv.isInf (x : Opv) : Bool :=
  match x.v with
  | .inf _ => true
  | _ => false

/-- The value is an infinity of its format. -/
def Fmt.isInf (f : Fmt) (bits : Nat) : Bool := (⟨f, bits, 0⟩ : Opv).isInf

/-- The element that `wmin` or `wmax` returns, in D's format: an infinity returned as one keeps its count (R76 case 1). -/
def wpick (f : Fmt) (rm draw : Nat) (x : Opv) : FpRes × Nat :=
  let r := wmoveTo f rm draw x
  if x.isInf && f.isInf r.1.bits then (r.1, min x.t f.p) else r

/-- A floating result of a sub-operation from its sources in reading order and the draws of its roundings (R246). -/
def wopFloat (sub : WSub) (d x : Shape) (f : Fmt) (rm : Nat) (dr : List Nat) (scalar : FReg) (es : List Opv) : FpRes × Nat :=
  let dw := dr.headD 0
  let z : Opv := ⟨f, 0, f.p⟩
  let a := es.getD 0 z
  let b := es.getD 1 z
  let sc := viewF (if f.w < 16 then fmtF32 else f) scalar
  match sub with
  | .add => fpAdd f rm dw a b
  | .sub => fpAdd f rm dw a b.negate
  | .mul => fpMul f rm dw a b
  | .fma => fpFma f rm dw a b (es.getD 2 z)
  | .min =>
    if a.v.isNaN && b.v.isNaN then (f.nanRes 0, 0)
    else wpick f rm dw (if a.v.isNaN then b else if b.v.isNaN then a else if fpBelow b.v a.v then b else a)
  | .max =>
    if a.v.isNaN && b.v.isNaN then (f.nanRes 0, 0)
    else wpick f rm dw (if a.v.isNaN then b else if b.v.isNaN then a else if fpBelow a.v b.v then b else a)
  | .cvt => fpConv f rm dw a
  | .red =>
    match es with
    | [] => (f.zeroRes false, f.p)
    | e :: rest =>
      (List.range rest.length).foldl (fun (acc : FpRes × Nat) k =>
        let r := fpAdd f rm (dr.getD (k + 1) 0) ⟨f, acc.1.bits, acc.2⟩ (rest.getD k z)
        ({ r.1 with fl := r.1.fl ||| acc.1.fl }, r.2)) (fpConv f rm dw e)
  | .exp => wexpOf d.type x.type f a
  | .rsq => wrsqOf d.type x.type f a
  | .act =>
    let pos : Bool := match a.v with
      | .nan => false
      | .inf s => !s
      | .num s n _ => !s || n == 0
    if a.isInf && pos then (f.infRes false 0, 0) else if pos then wmoveTo f rm dw a else fpMul f rm dw a sc
  | .scl => fpMul f rm dw a sc
  | .cpy | .trn => (⟨a.bits, 0, false, false⟩, if a.v.isNaN then 0 else a.t)

/-- An integer saturated to an element type, with OF where it changes (R247). -/
def saturate (lo hi x : Int) : Int × FpFlags := if x < lo then (lo, flOF) else if hi < x then (hi, flOF) else (x, 0)

/-- The bounds of an integer type code, and of residue words (R57, R63). -/
def typeBounds (t : Nat) : Int × Int :=
  match typeInt t with
  | some (w, true) => (-2 ^ (w - 1), 2 ^ (w - 1) - 1)
  | some (w, false) => (0, 2 ^ w - 1)
  | none => (-8388480, 8388479)

/-- The bits of an integer in an element type, residues for residue words. -/
def typePack (t : Nat) (x : Int) : Nat := if t = 0x10 then residueOf x else laneOfInt (typeBits t) x

/-- A result with an integer or residue D (R246, R247). -/
def wopInt (sub : WSub) (d x : Shape) (rm draw : Nat) (es : List Elem) (y : Shape) : Nat × FpFlags :=
  let a := elemInt x (es.getD 0 ⟨0, 0, none⟩)
  let b := elemInt y (es.getD 1 ⟨0, 0, none⟩)
  let wrap := fun (v : Int) => (typePack d.type v, (0 : FpFlags))
  match sub with
  | .add => wrap (a + b)
  | .sub => wrap (a - b)
  | .mul => wrap (a * b)
  | .fma => wrap (a * b + elemInt d (es.getD 2 ⟨0, 0, none⟩))
  | .min => wrap (min a b)
  | .max => wrap (max a b)
  | .red => wrap (es.foldl (fun n e => n + elemInt x e) 0)
  | .cvt =>
    let bd := typeBounds d.type
    match typeFmt x.type with
    | some _ => let r := fpToInt rm draw bd.1 bd.2 (elemOpv x (es.getD 0 ⟨0, 0, none⟩)); (typePack d.type r.1, r.2)
    | none => let r := saturate bd.1 bd.2 a; (typePack d.type r.1, r.2)
  | _ => ((es.getD 0 ⟨0, 0, none⟩).bits, 0)

/-! ### The run -/

/-- What reading an element's sources gives. -/
inductive WRead where
  | ok (es : List Elem) (s : State)
  | blocked (got : List Word) (s : State)
  | err (code : Nat) (s : State)

/-- The sources of one element read in order; words popped before a block are in `prior` and are used first. A port source gives one word for
each element of D, also where it is broadcast or transposed: R101 has elements come from the port in iteration order (log entry 64). -/
def State.readSrcs (who : Issuer) : List (Shape × Option ScaleRec × List Nat) → List Word → List Word → List Elem → State → WRead
  | [], _, _, es, s => .ok es s
  | (h, sr, ix) :: rest, prior, all, es, s =>
    if h.isPort then
      match s.readScale who h sr ix with
      | (.error c, s) => .err c s
      | (.ok sc, s) =>
        let take := fun (w : Word) => (⟨w.toNat % 2 ^ typeBits h.type, typeFull h.type, sc⟩ : Elem)
        match prior with
        | w :: ws => State.readSrcs who rest ws all (es ++ [take w]) s
        | [] =>
          match s.enginePop who h.base with
          | (some w, s) => State.readSrcs who rest [] (all ++ [w]) (es ++ [take w]) s
          | (none, s) => .blocked all s
    else match s.readElem who h sr ix with
      | (.ok e, s) => State.readSrcs who rest prior all (es ++ [e]) s
      | (.error c, s) => .err c s

/-- The source elements that element `i` of D reads in order: of X and of Y (R246). -/
def WJob.sources (j : WJob) (sub : WSub) (i : Nat) : List (Shape × Option ScaleRec × List Nat) :=
  let ix := indexOf j.d.dims i
  match sub with
  | .red => (List.range (j.x.dims.headD 0)).map (fun k => (j.x, j.sx, sub.srcIndex j.x j.d ix k))
  | _ =>
    (j.x, j.sx, sub.srcIndex j.x j.d ix 0) ::
    (if sub.usesY then [(j.y, j.sy, sub.srcIndex j.y j.d ix 0)] else [])

/-- The reads of element `i` of D in order: its sources, and D as addend for `wfma` (R246). -/
def WJob.reads (j : WJob) (sub : WSub) (i : Nat) : List (Shape × Option ScaleRec × List Nat) :=
  j.sources sub i ++ (if sub == .fma then [(j.d, none, indexOf j.d.dims i)] else [])

/-- Whether element `i` of D overlaps a source element other than one that coincides with it at the same index (R249), in whatever window or
mapping (R130). -/
def WJob.overlaps (j : WJob) (who : Issuer) (sub : WSub) (i : Nat) (s : State) : Bool :=
  let ix := indexOf j.d.dims i
  !j.d.isPort && (List.range j.d.count).any (fun k =>
    ((j.reads sub k).filter (fun r => !r.1.isPort)).any (fun r =>
      j.d.meets who ix r.1 r.2.2 s && !(k == i && j.d.coincides ix r.1 r.2.2)))

/-- NV where a source element has a scale of 0xFF (R395). -/
def scaleNV (es : List Elem) : FpFlags := if es.any (fun e => e.sc == some 255) then flNV else 0

/-- Element `i` computed: bits, count and flags, and the generator state after its draws. -/
def WJob.compute (j : WJob) (c : WCmd) (es : List Elem) : (Nat × Nat × FpFlags) × Word :=
  let n := if c.rm = 5 then c.sub.roundings j.d j.x j.y else 0
  let dr := (List.range n).foldl (fun (acc : List Nat × Word) _ =>
    let r := drawFrom acc.2
    (acc.1 ++ [r.2], r.1)) ([], c.seed)
  let shapes := match c.sub with
    | .fma => [j.x, j.y, j.d]
    | .red => es.map (fun _ => j.x)
    | _ => [j.x, j.y]
  ((match typeFmt j.d.type with
    | some f =>
      if (typeFmt j.x.type).isSome then
        let opv := fun h (e : Elem) => elemOpv h (if c.sub.moves then { e with sc := none } else e)
        let os := (List.range es.length).map (fun k => opv (shapes.getD k j.x) (es.getD k ⟨0, 0, none⟩))
        let r := wopFloat c.sub j.d j.x f c.rm dr.1 c.scalar os
        (r.1.bits, r.2, r.1.fl ||| scaleNV es)
      else
        let r := intConv f c.rm (dr.1.headD 0) (elemInt j.x (es.getD 0 ⟨0, 0, none⟩))
        (r.1.bits, r.2, r.1.fl)
    | none =>
      let r := wopInt c.sub j.d j.x c.rm (dr.1.headD 0) es j.y
      (r.1, 0, r.2 ||| scaleNV es)), dr.2)

/-- The command with the scalar that one element takes: where its register was written after the issue, the old value or the new one, which
is free (R250; log entry 32). -/
def State.scalarOf (c : WCmd) (s : State) : WCmd × State :=
  match c.sreg with
  | none => (c, s)
  | some n =>
    let now := rget (s.thOf c.who.le c.who.set).f n
    if now = c.scalar then (c, s)
    else
      let r := s.freshFree
      (if Config.freeBit r.1 then { c with scalar := now } else c, r.2)

/-- A free value as element of `d`, bits and count, by the counter `n` (R10). -/
def freeElem (d : Shape) (n : Nat) : Nat × Nat :=
  ((List.range d.bytes).foldl (fun x k => x + (Config.freeByte n k).toNat * 256 ^ k) 0 % 2 ^ typeBits d.type,
   (Config.freeByte n 8).toNat % (typeFull d.type + 1))

/-- Word `k` of the free values at counter `n`. -/
def freeWordAt (n k : Nat) : Word := BitVec.ofNat 64 (leNat ((List.range 8).map (fun i => Config.freeByte n (8 * k + i))))

/-- The token of a command that ends with `v`: `v`, or a free word where a record or source has changed (R10, R244). -/
def State.tokenOf (c : WCmd) (v : Word) (s : State) : Word × State :=
  if c.broken then (let f := s.freshFree; (freeWordAt f.1 0, f.2)) else (v, s)

/-- The token at the end of a run: the flags and the count of elements (R244). -/
def WJob.token (j : WJob) (c : WCmd) (s : State) : Word × State :=
  s.tokenOf c (BitVec.ofNat 64 (c.flags.toNat * 2 ^ 58 + j.d.count))

/-- The elements of D from the command's progress on: the state with the progress so far, and how the run ended: none while a port
blocks it, else the token's value. -/
def State.wopElems (j : WJob) : Nat → WCmd → State → WCmd × Option Word × State
  | 0, c, s => let v := j.token c s; (c, some v.1, v.2)
  | n + 1, c, s =>
    if j.d.count ≤ c.doneCount then (let v := j.token c s; (c, some v.1, v.2))
    else match s.readSrcs c.who (j.reads c.sub c.doneCount) c.got c.got [] with
      | .err code s => let v := s.tokenOf c (tokErr code); (c, some v.1, v.2)
      | .blocked got s => ({ c with got := got }, none, s)
      | .ok es s' =>
        let sc := s'.scalarOf c
        let s' := sc.2
        let r := j.compute sc.1 es
        let got := if (j.reads c.sub c.doneCount).any (fun r => r.1.isPort) then
            ((j.reads c.sub c.doneCount).zip es).filterMap (fun p => if p.1.1.isPort then some (BitVec.ofNat 64 p.2.bits) else none)
          else []
        let fr := s'.freshFree
        let next := { c with doneCount := c.doneCount + 1, flags := c.flags ||| r.1.2.2, got := [], seed := r.2 }
        let w : Nat × Nat × State := if c.broken || j.overlaps c.who c.sub c.doneCount s' then
            ((freeElem j.d fr.1).1, (freeElem j.d fr.1).2, fr.2)
          else (r.1.1, r.1.2.1, s')
        if j.d.isPort then
          match w.2.2.enginePush c.who j.d.base (BitVec.ofNat 64 w.1) with
          | .blocked s => ({ c with got := got }, none, s)
          | .error code => let v := s'.tokenOf c (tokErr code); (c, some v.1, v.2)
          | .done s => State.wopElems j n next s
        else
          match w.2.2.writeElem c.who j.d (indexOf j.d.dims c.doneCount) w.1 w.2.1 with
          | .error code => let v := w.2.2.tokenOf c (tokErr code); (c, some v.1, v.2)
          | .ok s => State.wopElems j n next s

/-- The scale record of a block-scaled source (R247, R395). -/
def State.wopScales (who : Issuer) (used : Bool) (h : Shape) (s : State) : Except Nat (Option ScaleRec) × State :=
  if !used || !h.scaled then (.ok none, s)
  else match s.scaleRec who h with
    | (.error c, s) => (.error c, s)
    | (.ok r, s) => (.ok (some r), s)

/-- A scale record that holds too few scales for its source: error 0x21 (R395). -/
def Shape.fewScales (h : Shape) (r : Option ScaleRec) : Bool :=
  match r with
  | none => false
  | some r => decide (r.sper < ceilDiv (h.dims.headD 0) 32) ||
      decide (r.slines < h.dims.getD 1 0 * h.dims.getD 2 0 * h.dims.getD 3 0)

/-- The job that a w-op's records make: they are checked in the order D, X, Y, each by R102 whole (log entry 64). A port that the element does not have
makes a record inconsistent (log entry 52). -/
def State.wopShapes (c : WCmd) (hs : List Shape) (s : State) : Except Nat WJob × State :=
  let z := shapeOf []
  let d := hs.getD 0 z
  let x := hs.getD 1 z
  let y := hs.getD 2 z
  match (if c.sub.usesY then [d, x, y] else [d, x]).findSome? Shape.error with
  | some e => (.error e, s)
  | none =>
    if c.sub.refuses d x y || (if c.sub.usesY then [d, x, y] else [d, x]).any (fun h => h.isPort && s.noLink c.who.le h.base) then (.error 0x23, s)
    else match s.wopScales c.who true x with
      | (.error e, s) => (.error e, s)
      | (.ok sx, s) =>
        match s.wopScales c.who c.sub.usesY y with
        | (.error e, s) => (.error e, s)
        | (.ok sy, s) => if x.fewScales sx || y.fewScales sy then (.error 0x21, s) else (.ok ⟨d, x, y, sx, sy⟩, s)

/-- A w-op run from its records (R244): an error code, or its job. -/
def State.wopJob (c : WCmd) (s : State) : Except Nat WJob × State :=
  match c.job with
  | some j => (.ok j, s)
  | none =>
  match s.readShapes c.who c.block 3 with
  | (.error e, s) => (.error e, s)
  | (.ok hs, s) => s.wopShapes c hs

/-- The outstanding memory operations that set `who.set` issued before the command, performed: what the command finds then (R249). -/
def State.settled (who : Issuer) (s : State) : State :=
  let ids := ((s.el who.le).ops.filter (fun o => o.set == who.set && decide (o.id < who.id))).map (·.id)
  (ids ++ ids).foldl (fun s id => s.completeOp who.le id) { s with choices := [] }

/-- The values that stand for the byte at place `p` while no program writes it: what tile `t` holds of it, what the other tiles have stored and not
yet written back, and what its home holds unless the tile's own store goes there (R137, R312). -/
def State.liveByte (t p : Nat) (s : State) : List Byte :=
  if 2 ^ 48 ≤ p then s.peek p 1
  else
    let lines := s.tiles.filterMap (fun e => (s.holder e.1 p).map (fun b => (e.1 == t, vget b.lines (p / 64 % 4))))
    (lines.filter (fun l => l.1 || l.2.stored.getLsbD (p % 64))).map (fun l => l.2.byte (p % 64)) ++
    (if lines.any (fun l => l.1 && l.2.stored.getLsbD (p % 64)) then [] else s.peek p 1)

/-- The values that stand for each of `n` bytes at `ea`, all of one page, by their address; none where the address names no location, or one in a
window buffer, which the plane writes and no program (R132, R219). -/
def State.liveAt (who : Issuer) (s : State) (r : Nat × Nat) : Option (Nat × List (List Byte)) :=
  match s.locate who r.1 with
  | some p => if 2 ^ 50 ≤ p then none else some (r.1, (List.range r.2).map (fun k => s.liveByte (s.tileOf who.le) (p + k)))
  | none => none

/-- Some byte noted in `snap` has a value that did not stand for it then: a program has written it. -/
def State.differs (who : Issuer) (snap : List (Nat × List (List Byte))) (s : State) : Bool :=
  let s := if snap.isEmpty then s else s.settled who
  snap.any (fun e => match s.liveAt who (e.1, e.2.length) with
    | some now => !(now.2.zip e.2).all (fun b => b.1.all (fun x => b.2.contains x))
    | none => false)

/-- What the reading of an element touches in memory, by address and length: its bytes, unless it comes from a port, its plane bytes and its scale (R78,
R268). -/
def State.elemRanges (s : State) (r : Shape × Option ScaleRec × List Nat) : List (Nat × Nat) :=
  let h := r.1
  let a := (h.addr r.2.2).1
  (if h.isPort then [] else (a, h.bytes) ::
    (if h.plane && r.2.1.isNone then (List.range ((h.bytes + 3) / 4)).filterMap (fun k => (s.planeOf (a + 4 * k)).map (fun p => (p, 1))) else [])) ++
  (match r.2.1 with
    | some sr => [(sr.scva + h.line r.2.2 * sr.sstr + r.2.2.getD 0 0 / 32, 1)]
    | none => [])

/-- The sources in memory of the command's records as they stood at its issue, with their planes and scales, and the values that stand for them once
the set's earlier operations are performed (R250). -/
def State.wopSources (c : WCmd) (s : State) : List (Nat × List (List Byte)) :=
  match c.recs with
  | [] => []
  | hs =>
    match (s.settled c.who).wopShapes c hs with
    | (.ok j, s) =>
      (((if j.x.scaled then [(j.x.scale, 16)] else []) ++ (if c.sub.usesY && j.y.scaled then [(j.y.scale, 16)] else []) ++
        (List.range j.d.count).flatMap (fun i => (j.sources c.sub i).flatMap s.elemRanges)).filterMap (s.liveAt c.who))
    | (.error _, _) => []

/-- The records that the command uses, and the values that stand for them (R244). -/
def State.wopRecords (c : WCmd) (s : State) : List (Nat × List (List Byte)) :=
  let s := s.settled c.who
  (List.range (if c.sub.usesY then 3 else 2)).filterMap (fun k => s.liveAt c.who (c.block + 64 * k, 64))

/-- A record of the command is not what it was (R244; log entry 71). -/
def State.recordsDiffer (c : WCmd) (s : State) : Bool := s.differs c.who c.recSnap

/-- A source of it in memory is not what it was (R250; log entry 71). -/
def State.sourcesDiffer (c : WCmd) (s : State) : Bool := s.differs c.who c.snap

/-- The command, marked where a record or a source of it has changed. -/
def State.noteChange (s : State) (c : WCmd) : WCmd := { c with broken := c.broken || s.recordsDiffer c || s.sourcesDiffer c }

/-- R250 is broken where no rule says what follows: a source has changed, or a record after the engine has read it. R244 says what follows where a record
changes before that. -/
def State.lawless (s : State) (c : WCmd) : Bool := s.sourcesDiffer c || (c.job.isSome && s.recordsDiffer c)

/-- Every queued w-op is held against its records and sources as they stand: the program must change none of
them until the token is written (R250; log entry 71). -/
def State.watchWops (s : State) : State :=
  if s.quads.all (fun q => q.2.wops.isEmpty) then s
  else { s with
    quads := s.quads.map (fun q => (q.1, { q.2 with wops := q.2.wops.map s.noteChange })),
    ctx := { s.ctx with unspec := s.ctx.unspec || s.quads.any (fun q => q.2.wops.any s.lawless) } }

/-! ### Broken obligations (R10) -/

/-- As many free words as `xs` has, by the counter `n`, from word `k` on. -/
def freeWords (n k : Nat) (xs : List Word) : List Word := (List.range xs.length).map (fun i => freeWordAt n (k + i))

/-- A message in a send buffer with free payload. -/
def OutMsg.unspecify (n k : Nat) : OutMsg → OutMsg
  | .one dst m => .one dst { m with payload := freeWords n k m.payload }
  | .group g m => .group g { m with payload := freeWords n k m.payload }

/-- A queue or link with free words. -/
def Fifo.unspecify (n k : Nat) (q : Fifo) : Fifo := { q with words := freeWords n k q.words }

/-- Free `g` registers beside `g0`, as it is (R34). -/
def freeG (n k : Nat) (g : Vector Word 32) : Vector Word 32 := Vector.ofFn (fun i => if i.val = 0 then g[0] else freeWordAt n (k + i.val))

/-- Free `f` registers with counts up to 53 (R74). -/
def freeF (n k : Nat) : Vector FReg 32 := Vector.ofFn (fun i => ⟨freeWordAt n (k + i.val), (freeWordAt n (k + 32 + i.val)).toNat % 54⟩)

/-- Free `v` registers with slot counts up to 24 (R74). -/
def freeV (n k : Nat) : Vector VReg 32 := Vector.ofFn (fun i => ⟨freeWordAt n (k + i.val) ++ freeWordAt n (k + 32 + i.val),
  Vector.ofFn (fun q => (freeWordAt n (k + 64 + 4 * i.val + q.val)).toNat % 25)⟩)

/-- A free `fcsr` with a rounding mode that can stand there (R67, R56). -/
def freeFcsr (x : Word) : Word := if 6 ≤ (x.setWidth 3 : BitVec 3).toNat then x &&& 0xFD else x &&& 0xFF

/-- Free control registers of a set, each with the bits that its layout gives it (R67, R81, R236, R344), and free entries of its stack. -/
def ThreadSet.unspecifyCsrs (n k : Nat) (t : ThreadSet) : ThreadSet :=
  let x := fun (i : Nat) => freeWordAt n (k + i)
  { t with
    fcsr := freeFcsr (x 0), sigctl := x 1 &&& 0x73F
    scnt := (x 2).setWidth 16, scap := (x 3).setWidth 16, sbase := (x 4).setWidth 16, stack := freeWords n (k + 10) t.stack
    tcause := x 5 &&& 0x3FF, tepc := x 6 &&& 0x0001FFFFFFFFFFFC, tval := x 7, tmsg := x 8, tstat := x 9 &&& 0xBFF00 }

/-- Free values where a program sees values in a set: its registers but `g0`, its control registers, the payload of its activation, and the words
that it has pending and has sent to its buffer; by the counter `n` and words from `k` on (R10). Where the trap entry is the program's `own`, the
supervisor's bank is among them; else that bank, and the control registers while the runtime's handler runs, are none of the program's (R391). -/
def ThreadSet.unspecify (own : Bool) (n k : Nat) (t : ThreadSet) : ThreadSet :=
  let u : ThreadSet := { t with
    g := freeG n k t.g, f := freeF n (k + 32), v := freeV n (k + 96)
    sg := if own then freeG n (k + 512) t.sg else t.sg
    act := t.act.map (fun a => { a with payload := freeWords n (k + 288) a.payload })
    pend := freeWords n (k + 300) t.pend
    sendBuf := (t.sendBuf.zip (List.range t.sendBuf.length)).map (fun m => m.1.unspecify n (k + 320 + 8 * m.2)) }
  if own || !t.inSup then u.unspecifyCsrs n (k + 544) else u

/-- Free values where a program sees values in an element: its sets, its generator, and the words in its queues and inbound links (R10). -/
def Element.unspecify (own : Bool) (n k : Nat) (e : Element) : Element :=
  let seed := freeWordAt n (k + 4160)
  { e with
    sets := Vector.ofFn (fun i => (e.sets[i]).unspecify own n (k + 1024 * i.val))
    srseed := if seed = 0 then 1 else seed
    queues := Vector.ofFn (fun i => (e.queues[i]).unspecify n (k + 4096 + 8 * i.val))
    links := Vector.ofFn (fun i => (e.links[i]).unspecify n (k + 4128 + 8 * i.val)) }

/-- The 64 KiB pieces of memory that a context's tables map where `p` holds of the page (R140 to R142). -/
def State.mapped (s : State) (c : Ctx) (p : TlbEntry → Bool) : List Nat :=
  (List.range (2 ^ 24)).filterMap (fun k =>
    match s.walk c.asid c.root (2 ^ 40 + 65536 * k) with
    | some e => if p e then (match e.place (2 ^ 40 + 65536 * k) with
        | some (.phys pa) => some pa
        | _ => none) else none
    | none => none)

/-- The memory that is the running context's program's own, by place and length: the local memories and window buffers of its partition, and what
its writable pages map, but for what a saved context maps too (R10, R127). -/
def State.ownMemory (s : State) : List (Nat × Nat) :=
  let others := s.saved.flatMap (fun v => s.mapped v.ctx (fun _ => true))
  (List.range s.nLe).map (fun le => (locPlace le 0, Config.localBytes)) ++ s.ctx.tiles.map (fun t => (winPlace t 0, 3 * 65536)) ++
  ((s.mapped s.ctx (fun e => e.wr && (!e.sup || !s.ctx.ownEntry))).filter (fun pa => !others.contains pa)).map (fun pa => (pa, 65536))

/-- Free bytes at place `a` up, by the counter `n`. -/
def freeBytes (n a len : Nat) : List Byte := (List.range len).map (fun k => Config.freeByte n (2 ^ 40 + a + k))

/-- The line at place `pa` with free data, the same as at its home (R10). -/
def Line.unspecify (n pa : Nat) (l : Line) : Line := { l with data := BitVec.ofNat 512 (leNat (freeBytes n pa 64)) }

/-- Place `pa` lies in one of the ranges. -/
def inRanges (own : List (Nat × Nat)) (pa : Nat) : Bool := own.any (fun r => decide (r.1 ≤ pa) && decide (pa < r.1 + r.2))

/-- A line of code fetched from the ranges `own` holds the free bytes that stand there. -/
def State.codeUnspecify (s : State) (own : List (Nat × Nat)) (n : Nat) (l : CodeLine) : CodeLine :=
  match (s.walk s.ctx.asid s.ctx.root (64 * l.va)).bind (fun e => e.place (64 * l.va)) with
  | some (.phys pa) => if l.asid == s.ctx.asid && inRanges own pa then { l with bytes := freeBytes n pa 64 } else l
  | _ => l

/-- The copies that a tile holds of lines in the ranges `own`, in its L1, its instruction cache and its sampler's cache, hold the free bytes that stand
at their homes. -/
def State.tileUnspecify (s : State) (own : List (Nat × Nat)) (n : Nat) (tl : Tile) : Tile :=
  { tl with
    icache := tl.icache.map (s.codeUnspecify own n)
    l1 := tl.l1.map (fun b => if inRanges own b.pa then
      { b with lines := Vector.ofFn (fun i => (b.lines[i]).unspecify n (b.pa + 64 * i.val)) } else b)
    sampler := tl.sampler.map (fun l => (l.1, if inRanges own (64 * l.1) then freeBytes n (64 * l.1) 64 else l.2)) }

/-- Where the running context's program has broken an obligation with no stated consequence, every value that it can see is unspecified (R10): those
in its registers, queues and memory, in whatever tile of its partition a copy stands, are free values before each step; a version changes by R150
alone (log entry 71). -/
def State.unspecify (s : State) : State :=
  if s.ctx.unspec then
    let r := s.freshFree
    let own := s.ownMemory
    { r.2 with
      tiles := s.tiles.map (fun t => (t.1, if s.ctx.tiles.contains t.1 then s.tileUnspecify own r.1 t.2 else t.2))
      mem := own.foldl (fun m p => Mem.writeN p.1 (freeBytes r.1 p.1 p.2) m) s.mem
      ctx := { s.ctx with elems := s.ctx.elems.map (fun e =>
        let x := e.2.unspecify (!s.ctx.ownEntry) r.1 (8192 * e.1)
        (e.1, { x with fetchBuf := x.fetchBuf.map (s.codeUnspecify own r.1) })) } }
  else s

/-- What holds before each step of the machine: the changes under the queued w-ops are noted, and what they leave unspecified is free. -/
def State.noted (s : State) : State := s.watchWops.unspecify

/-- What a w-op of the quad wrote is no change of a source to itself or to the ones behind it, which run after it (R248, R250). -/
def State.resnap (after : State) (c : WCmd) : WCmd := { c with snap := after.wopSources c }

/-- A record or source has changed while a port blocked the command: the elements in memory that it had written are unspecified too (R10, R250;
log entry 71). -/
def State.wopUndo (j : WJob) (c : WCmd) (s : State) : State :=
  if c.broken && !j.d.isPort then
    (List.range c.doneCount).foldl (fun s i =>
      let f := s.freshFree
      match f.2.writeElem c.who j.d (indexOf j.d.dims i) (freeElem j.d f.1).1 (freeElem j.d f.1).2 with
      | .ok s => s
      | .error _ => f.2) s
  else s

/-- `WOP_EXECUTE` (R244): the oldest w-op of a quad runs to its token, or as far as its ports let it (R249); `step` has
noted before it whether a record or source has changed. -/
def execWopExecute (quad : Nat) (s : State) : Host.Outcome State Fault Refusal :=
  let q := Map.get Quad.start s.quads quad
  match q.wops with
  | [] => .next s
  | c :: rest =>
    if !s.storesDone c.who || (s.ctx.stopped && !s.fenced (q.wops.map (·.who.id))) then .next s
    else
      let put := fun (ws : List WCmd) (s : State) => { s with
        quads := Map.set quad { Map.get Quad.start s.quads quad with wops := ws } s.quads }
      match s.wopJob c with
      | (.error e, s) => (let v := s.tokenOf c (tokErr e); .next ((put rest v.2).endCommand c.who v.1))
      | (.ok j, s) =>
        match (s.wopUndo j c).wopElems j (j.d.count + 1) { c with job := some j } with
        | (c', none, t) => .next (put ((c' :: rest).map t.resnap) t)
        | (_, some v, t) => .next ((put (rest.map t.resnap) t).endCommand c.who v)

/-- `WOP_QUANTUM_END` (R248): every element of the quad may issue one waiting v-instruction before the next quantum. -/
def execWopQuantumEnd (quad : Nat) (s : State) : Host.Outcome State Fault Refusal :=
  .next { s with quads := Map.set quad { Map.get Quad.start s.quads quad with
    grants := (List.range 4).filterMap (fun k => s.leAt (4 * quad + k)) } s.quads }

/-! ### Issue -/

/-- The generator state after `n` draws. -/
def drawsAfter (x : Word) : Nat → Word
  | 0 => x
  | n + 1 => drawsAfter (drawFrom x).1 n

/-- A w-op enters the queue of quad `qd` (R248). -/
def State.queueWop (qd : Nat) (c : WCmd) (s : State) : State :=
  let q := Map.get Quad.start s.quads qd
  { s with quads := Map.set qd { q with wops := q.wops ++ [c] } s.quads }

/-- A w-op issued (R244): the records are read to count draws and decide the wait of R375, after the earlier operations of the set on them
(R303); the queue of 4 stalls a fifth (R248). What stands for its records and sources then is kept, to see a change (R250). -/
def wopIssue (sub : WSub) (d a : RegNo) (b : List Opnd) (s : State) : Host.Outcome State Fault Refusal :=
  withIssue ((.g, .reg a) :: b.map (fun o => (.f, o))) [(.g, .reg d)] (fun s =>
    let ea := s.rg a
    let qd := s.quadOf s.cur.1
    if ea.toNat % 64 ≠ 0 then s.trap 0x04 ea
    else if Config.wopPlaces ≤ (Map.get Quad.start s.quads qd).wops.length then .next s
    else if s.structBehind ea.toNat 192 then .next s
    else
      let sc : FReg × State := match b with
        | o :: _ => s.takeF 53 o
        | [] => (⟨0, 53⟩, s)
      let i := sc.2.newId
      let s := i.2
      let rm := s.th.rm
      let who := s.issuer i.1
      match s.readShapes who ea.toNat 3 with
      | (r, s) =>
        let z := shapeOf []
        let info : Nat × Bool := match r with
          | .error _ => (0, false)
          | .ok hs =>
            let dh := hs.getD 0 z
            let used := if sub.usesY then hs else hs.take 2
            if used.any (fun h => h.error.isSome) then (0, false)
            else (dh.count * sub.roundings dh (hs.getD 1 z) (hs.getD 2 z), dh.inOwn)
        let le := s.drawLe
        let seed := (s.el le).srseed
        let s := if rm = 5 then s.updEl le (fun e => { e with srseed := drawsAfter seed info.1 }) else s
        let sreg := b.findSome? (fun o => match o with
          | .reg n => some n
          | .port _ => none)
        let recs := match r with
          | .ok hs => hs.take (if sub.usesY then 3 else 2)
          | .error _ => []
        let cmd : WCmd := ⟨{ who with ownDst := info.2 }, sub, ea.toNat, sc.1, rm, seed, 0, 0, [], sreg, recs, [], [], false, none⟩
        .next (((s.queueWop qd { cmd with recSnap := s.wopRecords cmd, snap := s.wopSources cmd }).mark (.g d) i.1).advance)) s

/-- `WADD` (R246). -/
def execWadd (d a : RegNo) (s : State) : Host.Outcome State Fault Refusal := wopIssue .add d a [] s
/-- `WSUB` (R246). -/
def execWsub (d a : RegNo) (s : State) : Host.Outcome State Fault Refusal := wopIssue .sub d a [] s
/-- `WMUL` (R246). -/
def execWmul (d a : RegNo) (s : State) : Host.Outcome State Fault Refusal := wopIssue .mul d a [] s
/-- `WFMA` (R246). -/
def execWfma (d a : RegNo) (s : State) : Host.Outcome State Fault Refusal := wopIssue .fma d a [] s
/-- `WMIN` (R246). -/
def execWmin (d a : RegNo) (s : State) : Host.Outcome State Fault Refusal := wopIssue .min d a [] s
/-- `WMAX` (R246). -/
def execWmax (d a : RegNo) (s : State) : Host.Outcome State Fault Refusal := wopIssue .max d a [] s
/-- `WCVT` (R246). -/
def execWcvt (d a : RegNo) (s : State) : Host.Outcome State Fault Refusal := wopIssue .cvt d a [] s
/-- `WRED` (R246). -/
def execWred (d a : RegNo) (s : State) : Host.Outcome State Fault Refusal := wopIssue .red d a [] s
/-- `WEXP` (R246). -/
def execWexp (d a : RegNo) (s : State) : Host.Outcome State Fault Refusal := wopIssue .exp d a [] s
/-- `WRSQ` (R246). -/
def execWrsq (d a : RegNo) (s : State) : Host.Outcome State Fault Refusal := wopIssue .rsq d a [] s
/-- `WACT` (R246): the scalar is read between the issue and completion (R250). -/
def execWact (d a : RegNo) (b : Opnd) (s : State) : Host.Outcome State Fault Refusal := wopIssue .act d a [b] s
/-- `WSCL` (R246): the scalar is read between the issue and completion (R250). -/
def execWscl (d a : RegNo) (b : Opnd) (s : State) : Host.Outcome State Fault Refusal := wopIssue .scl d a [b] s
/-- `WCPY` (R246). -/
def execWcpy (d a : RegNo) (s : State) : Host.Outcome State Fault Refusal := wopIssue .cpy d a [] s
/-- `WTRN` (R246). -/
def execWtrn (d a : RegNo) (s : State) : Host.Outcome State Fault Refusal := wopIssue .trn d a [] s

end Sys2Proof.Machine
end

