-- ==== Sys2Proof/Machine/Copy.lean ====
section
/-! DEFINITION. The tiles' copy engines (R252 to R255, R338) and group reductions (R256, R257). A command is queued at issue, after which
`COPY_COMMAND_COMPLETE` performs it whole. -/
namespace Sys2Proof.Machine

/-! ### Issue -/

/-- A copy of bytes has its destination in the own local window (R375). -/
def ownCopy (dst n : Word) : Bool := decide (dst.toNat < 0x10000) && n != 0

/-- A copy that reports by message (R253, R254): `g[d]` takes an issue id drawn from the counter of call ids. -/
def copyByMessage (kind : Word → Word → Word → Word → CopyKind) (d : Opnd) (a b : RegNo) (c : Opnd) (s : State) :
    Host.Outcome State Fault Refusal :=
  withIssue [(.g, .reg a), (.g, .reg b), (.g, c)] [(.g, d)] (fun s =>
    if s.copyFull then .next s
    else
      let n := s.takeG c
      let i := n.2.newId
      let issue : Word := s.th.callctr.setWidth 64
      let cmd : CopyCmd := ⟨{ i.2.issuer i.1 with ownDst := ownCopy (s.rg a) n.1 }, kind (s.rg a) (s.rg b) n.1 issue⟩
      let s := (i.2.queueCopy cmd).updTh (fun t => { t with callctr := t.callctr + 1 })
      .next ((s.putG d issue).advance)) s

/-- `CPY` (R253). -/
def execCpy (d a b : RegNo) (c : Opnd) (s : State) : Host.Outcome State Fault Refusal :=
  withIssue [(.g, .reg a), (.g, .reg b), (.g, c)] [(.g, .reg d)] (fun s =>
    if s.copyFull then .next s
    else
      let n := s.takeG c
      let i := n.2.newId
      let cmd : CopyCmd := ⟨{ i.2.issuer i.1 with ownDst := ownCopy (s.rg a) n.1 }, .cpy (s.rg a) (s.rg b) n.1⟩
      .next (((i.2.queueCopy cmd).mark (.g d) i.1).advance)) s

/-- `CPYM` (R253). -/
def execCpym (d : Opnd) (a b : RegNo) (c : Opnd) (s : State) : Host.Outcome State Fault Refusal :=
  copyByMessage .cpym d a b c s

/-- `RBR` (R254). -/
def execRbr (d : Opnd) (a b : RegNo) (c : Opnd) (s : State) : Host.Outcome State Fault Refusal :=
  copyByMessage .rbr d a b c s

/-- `gath` and `scat` issued (R255); the destination record says whether `done` waits (R375; log entry 30). -/
def indexedCopy (kind : Word → Word → Word → CopyKind) (d a b c : RegNo) (s : State) : Host.Outcome State Fault Refusal :=
  withIssue [(.g, .reg a), (.g, .reg b), (.g, .reg c)] [(.g, .reg d)] (fun s =>
    if s.copyFull || s.recordWaits (s.rg b) then .next s
    else
      let i := s.newId
      let who := i.2.issuer i.1
      let r := i.2.peekRecord who (s.rg b)
      let cmd : CopyCmd := ⟨{ who with ownDst := (r.1.map Shape.inOwn).getD false }, kind (s.rg a) (s.rg b) (s.rg c)⟩
      .next (((r.2.queueCopy cmd).mark (.g d) i.1).advance)) s

/-- `GATH` (R255). -/
def execGath (d a b c : RegNo) (s : State) : Host.Outcome State Fault Refusal := indexedCopy .gath d a b c s

/-- `SCAT` (R255). -/
def execScat (d a b c : RegNo) (s : State) : Host.Outcome State Fault Refusal := indexedCopy .scat d a b c s

/-! ### Copies of bytes -/

/-- What a copy finds for one byte: the source byte, the destination's address and place, or the code of a fault. -/
inductive CopyByte where
  | ok (b : Byte) (ea : Nat) (dst : Place)
  | bad (code : Nat)
  deriving DecidableEq, Repr

/-- Byte `k` of a copy from `src` to `dst`. -/
def State.copyByte (who : Issuer) (dst src k : Nat) (s : State) : CopyByte × State :=
  match s.resolve who .special false (src + k) 1 with
  | (.error c, s) => (.bad c, s)
  | (.ok t, s) =>
    match s.loadNow who t (src + k) 1 with
    | (.error _, s) => (.bad 0x0F, s)
    | (.ok bs, s) =>
      match s.resolve who .special true (dst + k) 1 with
      | (.error c, s) => (.bad c, s)
      | (.ok u, s) => (.ok (bs.getD 0 0) (dst + k) u.place, s)

/-- The `n` bytes of a copy, all read before any is written. -/
def State.copyBytes (who : Issuer) (dst src n : Nat) (s : State) : List CopyByte × State :=
  (List.range n).foldl (fun (acc : List CopyByte × State) k =>
    let r := acc.2.copyByte who dst src k
    (acc.1 ++ [r.1], r.2)) ([], s)

/-- The locations of the source of a copy, also of bytes that it cannot read or has nowhere to write (R130, R253). -/
def State.copySources (who : Issuer) (src n : Nat) (s : State) : List Nat := (List.range n).filterMap (fun k => s.locate who (src + k))

/-- The codes of the faults of a copy. -/
def copyFaults (bs : List CopyByte) : List Nat :=
  bs.filterMap (fun b => match b with
    | .bad c => some c
    | .ok _ _ _ => none)

/-- A word that a copy touched: an address of it, its place, and its bytes that the copy wrote, one bit each. -/
structure CopyWord where
  ea : Nat
  place : Place
  wrote : Nat
  deriving DecidableEq, Repr

/-- One byte of a copy written (R253): an overlapped destination byte is free; where some byte faulted, whether it is written is free
too. The words touched are gathered. -/
def State.copyPut (who : Issuer) (srcs : List Nat) (faulty : Bool) (b : CopyByte) (acc : State × Map CopyWord) : State × Map CopyWord :=
  match b with
  | .bad _ => acc
  | .ok x ea p =>
    let r := acc.1.freshFree
    if faulty && !Config.freeBit r.1 then (r.2, acc.2)
    else
      let y := if srcs.contains p.key then Config.freeByte r.1 0 else x
      let old := (Map.find (p.key / 8) acc.2).map (·.wrote)
      ((r.2.flushOwn who.le p).homeStore p [y], Map.set (p.key / 8) ⟨ea, p, old.getD 0 ||| 2 ^ (p.key % 8)⟩ acc.2)

/-- A word that a copy has touched: one it wrote every byte of has no error left (R155), and its version is bumped once (R150). -/
def State.copyWord (w : CopyWord) (s : State) : State :=
  let s := if w.wrote = 255 then
      { s with poison := cleanPoison (w.place.key / 8 * 8) 8 s.poison, latent := cleanPoison (w.place.key / 8 * 8) 8 s.latent }
    else s
  s.engineBump w.ea w.place

/-- A copy of bytes performed (R252, R253), with what follows for each touched word: its result in token layout. Nothing past a poisoned source byte
is written (R155). -/
def State.copyRun (who : Issuer) (dst src : Word) (n : Nat) (s : State) : Word × State :=
  let r := s.copyBytes who dst.toNat src.toNat n
  let bad := copyFaults r.1
  let srcs := r.2.copySources who src.toNat n
  let w := (r.1.takeWhile (· != .bad 0x0F)).foldl (fun acc b => State.copyPut who srcs (!bad.isEmpty) b acc) (r.2, [])
  let s := w.2.foldl (fun s e => s.copyWord e.2) w.1
  if bad.isEmpty then (BitVec.ofNat 64 n, s)
  else
    let f := s.freshFree
    (tokErr (bad.getD ((Config.freeByte f.1 0).toNat % bad.length) 0), f.2)

/-- A destination byte lies in the aperture (R253). -/
def inAperture (dst n : Nat) : Bool := decide (0 < n) && decide (dst < 0xC0000) && decide (0x80000 < dst + n)

/-- The checks of R253, and for `rbr` that the destination lies in the own local window (R254), then the copy. -/
def State.copyResult (who : Issuer) (own : Bool) (dst src n : Word) (s : State) : Word × State :=
  if 2 ^ 32 ≤ n.toNat then (tokErr 0x24, s)
  else if inAperture dst.toNat n.toNat || (own && 0x10000 ≤ dst.toNat) then (tokErr 0x07, s)
  else s.copyRun who dst src n.toNat

/-- The completion message of `cpym` and `rbr` (R253). -/
def State.copyMessage (who : Issuer) (issue result dst : Word) (s : State) : State :=
  s.launchFlight (.msg (2 ^ 20 + s.tileOf who.le) who.le
    ⟨mkHeader 0 3 true none who.le 3 false, [issue, result, dst], .data⟩)

/-! ### Gathering and scattering -/

/-- One of the three records of `gath` and `scat`: 64-aligned, readable and well-formed (R100, R102). -/
def State.copyShape (who : Issuer) (ea : Word) (s : State) : Except Nat Shape × State :=
  if ea.toNat % 64 ≠ 0 then (.error 0x04, s)
  else match s.readShapes who ea.toNat 1 with
    | (.error e, s) => (.error e, s)
    | (.ok hs, s) =>
      let h := hs.headD (shapeOf [])
      match h.error with
      | some e => (.error e, s)
      | none => (.ok h, s)

/-- The checks of R255 beyond the records' own: error 0x23 where they fail. -/
def indexedOk (gather : Bool) (i d x : Shape) : Bool :=
  (i.type == 0x08 || i.type == 0x09 || i.type == 0x0D) && d.type == x.type && i.flags == 0 && d.flags == 0 &&
  (x.flags == 0 || (gather && x.flags == 4)) && i.dims == (if gather then d else x).dims

/-- The index that element `e` of an index record holds. -/
def indexVal (i : Shape) (e : Elem) : Int :=
  match typeInt i.type with
  | some (w, true) => if 2 ^ (w - 1) ≤ e.bits then (e.bits : Int) - 2 ^ w else e.bits
  | _ => e.bits

/-- Whether an element of D overlaps an element of a source other than one that coincides with it at the same index (R249, R252), in whatever window
or mapping (R130). -/
def Shape.overlapsIn (who : Issuer) (d h : Shape) (k : Nat) (s : State) : Bool :=
  let ix := indexOf d.dims k
  (List.range h.count).any (fun j =>
    let iy := indexOf h.dims j
    d.meets who ix h iy s && !(j == k && d.coincides ix h iy))

/-- The moves of `gath` and `scat` in iteration order (R255): the token, and the state after the elements moved before an error. -/
def State.indexedRun (who : Issuer) (gather : Bool) (i d x : Shape) : List Nat → State → Word × State
  | [], s => (BitVec.ofNat 64 i.count, s)
  | m :: ms, s =>
    match s.readElem who i none (indexOf i.dims m) with
    | (.error c, s) => (tokErr c, s)
    | (.ok e, s) =>
      let k := indexVal i e
      let bound := if gather then x.count else d.count
      if k < 0 || (bound : Int) ≤ k then (tokErr 0x25, s)
      else
        let src := if gather then k.toNat else m
        let dst := if gather then m else k.toNat
        match s.readElem who x none (indexOf x.dims src) with
        | (.error c, s) => (tokErr c, s)
        | (.ok v, s) =>
          let f := s.freshFree
          let w : Nat × State := if d.overlapsIn who i dst s || d.overlapsIn who x dst s then
              ((List.range d.bytes).foldl (fun y b => y + (Config.freeByte f.1 b).toNat * 256 ^ b) 0, f.2)
            else (v.bits, s)
          match w.2.writeElem who d (indexOf d.dims dst) w.1 0 with
          | .error c => (tokErr c, w.2)
          | .ok s => State.indexedRun who gather i d x ms s

/-- `gath` or `scat` performed (R255). -/
def State.indexedResult (who : Issuer) (gather : Bool) (idx dst src : Word) (s : State) : Word × State :=
  match s.copyShape who idx with
  | (.error e, s) => (tokErr e, s)
  | (.ok i, s) =>
    match s.copyShape who dst with
    | (.error e, s) => (tokErr e, s)
    | (.ok d, s) =>
      match s.copyShape who src with
      | (.error e, s) => (tokErr e, s)
      | (.ok x, s) =>
        if indexedOk gather i d x then s.indexedRun who gather i d x (List.range i.count) else (tokErr 0x23, s)

/-! ### State shipped between a stage's elements -/

/-- The partner's allotment that `xst` fills (R338): the twin's in a split, the home's in an export. -/
def State.xstTarget (s : State) (who : Issuer) (partner ch : Nat) (out : Bool) : Option Allot :=
  if out then s.ownerOf partner ch else s.twinAllot partner who.le ch

/-- `xst` performed (R338): the bytes read at the issuer's allotment and written at the same offsets of the partner's. -/
def State.xstRun (who : Issuer) (a n : Word) (partner ch : Nat) (out : Bool) (s : State) : Word × Bool × State :=
  if n = 0 then (0, true, s)
  else match s.allotOf who.le who.allot, s.xstTarget who partner ch out with
    | some own, some far =>
      let p := locPlace who.le (own.base + a.toNat)
      if far.size < a.toNat + n.toNat then (tokErr 0x08, false, s)
      else if (firstPoison s.poison p n.toNat).isSome then (tokErr 0x0F, false, s)
      else (n, true, s.poke (locPlace partner (far.base + a.toNat)) (s.peek p n.toNat))
    | _, _ => (tokErr 0x08, false, s)

/-! ### Completion -/

/-- A command of the engine performed with its report (R253, R254, R255, R338); a group contribution is performed by its own step. -/
def State.copyPerform (c : CopyCmd) (s : State) : State :=
  match c.kind with
  | .cpy dst src n => let r := s.copyResult c.who false dst src n; r.2.token c.who r.1
  | .cpym dst src n issue => let r := s.copyResult c.who false dst src n; r.2.copyMessage c.who issue r.1 dst
  | .rbr dst src n issue => let r := s.copyResult c.who true dst src n; r.2.copyMessage c.who issue r.1 dst
  | .gath idx dst src => let r := s.indexedResult c.who true idx dst src; r.2.token c.who r.1
  | .scat idx dst src => let r := s.indexedResult c.who false idx dst src; r.2.token c.who r.1
  | .xst a n partner ch out =>
    let r := s.xstRun c.who a n partner ch out
    (r.2.2.token c.who r.1).xstEnd c.who ch r.2.1
  | .coll _ _ _ => s

/-- `COPY_COMMAND_COMPLETE` (R253): command `k`, one of the eight that run (R252), once the earlier memory operations of its set have
completed. -/
def execCopyCommandComplete (tile k : Nat) (s : State) : Host.Outcome State Fault Refusal :=
  match (s.copyRunners tile).find? (fun c => c.who.id == k) with
  | some c => if !s.storesDone c.who || c.isColl then .next s else .next ((s.dropCopy tile k).copyPerform c)
  | none => .next s

/-! ### Group reductions -/

/-- `COLL` (R256): a collective record that is not 32-aligned raises 0x04; the command enters the queue of the tile's copy engine (R46, R252). -/
def execColl (d a b : RegNo) (op : CollOp) (s : State) : Host.Outcome State Fault Refusal :=
  withIssue [(.g, .reg a), (.g, .reg b)] [(.g, .reg d)] (fun s =>
    let ea := s.rg b
    if ea.toNat % 32 ≠ 0 then s.trap 0x04 ea
    else if s.copyFull then .next s
    else
      let i := s.newId
      .next (((i.2.queueCopy ⟨i.2.issuer i.1, .coll (s.rg a).toNat ea op⟩).mark (.g d) i.1).advance)) s

/-- A collective record (R256). -/
structure CollRec where
  csrc : Nat
  cdst : Nat
  ccnt : Nat
  zero : Nat
  cdone : Nat
  deriving DecidableEq, Repr

/-- Its fields. -/
def collRecOf (bs : List Byte) : CollRec :=
  ⟨leNat (bs.take 8), leNat ((bs.drop 8).take 8), leNat ((bs.drop 16).take 4), leNat ((bs.drop 20).take 4), leNat ((bs.drop 24).take 8)⟩

/-- Bytes of an element (R256). -/
def CollOp.size : CollOp → Nat
  | .addF32 => 4
  | _ => 8

/-- What R256 and R257 say of a record: an error code or none. A misaligned `csrc`, `cdst` or `cdone` is 0x04, not the 0x22 of a malformed record (R257
leaves it open; log entry 75). -/
def State.collError (s : State) (op : CollOp) (r : CollRec) : Option Nat :=
  let n := CollOp.size op
  if r.ccnt = 0 || 65536 < r.ccnt || r.zero != 0 then some 0x22
  else if r.csrc % n ≠ 0 || r.cdst % n ≠ 0 || r.cdone % 8 ≠ 0 then some 0x04
  else if !s.isTracked r.cdone || !(List.range r.ccnt).all (fun k => s.isTracked (r.cdst + n * k)) then some 0x07
  else none

/-- Two elements combined (R257). -/
def collCombine (op : CollOp) (old new : Nat) : Nat :=
  match op with
  | .addI64 => (old + new) % 2 ^ 64
  | .addF32 => (fpAdd fmtF32 0 0 ⟨fmtF32, old, 24⟩ ⟨fmtF32, new, 24⟩).1.bits
  | .minI64 => if atomSlt 8 new old then new else old
  | .maxI64 => if atomSlt 8 old new then new else old
  | .minnN64 => Nat.min old new
  | .maxnN64 => Nat.max old new

/-- The member's contribution and the places of the result, all found before anything is combined: an error code otherwise. -/
def State.collRead (who : Issuer) (n : Nat) (r : CollRec) : List Nat → State → Except Nat (List (Nat × Nat × Place)) × State
  | [], s => (.ok [], s)
  | k :: ks, s =>
    match s.engineLoad who (r.csrc + n * k) n with
    | (.error c, s) => (.error c, s)
    | (.ok bs, s) =>
      match s.resolve who .special true (r.cdst + n * k) n with
      | (.error c, s) => (.error c, s)
      | (.ok t, s) =>
        if (firstPoison s.poison t.place.key n).isSome then (.error 0x0F, s)
        else match State.collRead who n r ks s with
          | (.error c, s) => (.error c, s)
          | (.ok rest, s) => (.ok ((leNat bs, r.cdst + n * k, t.place) :: rest), s)

/-- One element combined at its home and its word bumped (R257). -/
def State.collPut (who : Issuer) (op : CollOp) (e : Nat × Nat × Place) (s : State) : State :=
  let n := CollOp.size op
  let s := (s.flushOwn who.le e.2.2).correctLine e.2.2.key
  (s.homeStore e.2.2 (leBytes n (collCombine op (leNat (s.homeBytes e.2.2 n)) e.1))).bump e.2.2.key

/-- The round counted (R257): when every member has contributed, `cdone` is bumped once, that of the record of the contribution that completes the round
(R257 does not say whose; log entry 75). -/
def State.collCount (who : Issuer) (g : Nat) (ms : List Nat) (done : Place) (s : State) : State :=
  let e := s.engine g
  let ins := e.collIn ++ [who.le]
  if ms.all (fun m => ins.contains m) then (s.setEngine g { e with collIn := [], collDone := e.collDone + 1 }).bump done.key
  else s.setEngine g { e with collIn := ins }

/-- A contribution performed (R257). -/
def State.collRun (who : Issuer) (g : Nat) (ms : List Nat) (block : Word) (op : CollOp) (s : State) : State :=
  match s.readStruct who block.toNat 8 4 with
  | (.error e, s) => s.token who (tokErr e.1)
  | (.ok bs, s) =>
    let r := collRecOf bs
    match s.collError op r with
    | some e => s.token who (tokErr e)
    | none =>
      match s.resolve who .special true r.cdone 8 with
      | (.error c, s) => s.token who (tokErr c)
      | (.ok done, s) =>
        match s.collRead who (CollOp.size op) r (List.range r.ccnt) with
        | (.error c, s) => s.token who (tokErr c)
        | (.ok es, s) =>
          let s := es.foldl (fun s e => s.collPut who op e) s
          (s.token who (BitVec.ofNat 64 r.ccnt)).collCount who g ms done.place

/-- The tile whose copy engine holds command `k`, and the command. -/
def State.copyAt (s : State) (k : Nat) : Option (Nat × CopyCmd) :=
  s.tiles.findSome? (fun t => (t.2.copies.find? (fun c => c.who.id == k)).map (fun c => (t.1, c)))

/-- `COLL_CONTRIBUTION` (R257): the contribution of command `k`, one of the eight that its engine runs (R252), once the earlier memory operations of
its set have completed; a member's second one waits for the round to complete. A group number above 255 names a group without members (log entry 74), and an issuer
outside the group gets 0x26 whatever its record holds (log entry 76). -/
def execCollContribution (k : Nat) (s : State) : Host.Outcome State Fault Refusal :=
  match s.copyAt k with
  | some (t, ⟨who, .coll g block op⟩) =>
    if !s.storesDone who || !(s.copyRunners t).any (fun c => c.who.id == k) then .next s
    else
      let ms := if 255 < g then [] else s.members g
      let s := if 255 < g then s.dropCopy t k else (s.dropCopy t k).membersSeen g
      .next (if ms.contains who.le then s.collRun who g ms block op else s.token who (tokErr 0x26))
  | _ => .next s

end Sys2Proof.Machine
end

