-- ==== Sys2Proof/Machine/Fetch.lean ====
section
/-! DEFINITION. Instruction fetch: global memory only, through the element's fetch buffer and the tile's instruction cache, with the faults
of R133; neither is coherent with stores (R134). -/
namespace Sys2Proof.Machine

/-- A held line that serves a fetch: its address and ASID match, and a `sup` line serves only the supervisor (R133). -/
def CodeLine.serves (l : CodeLine) (asid : BitVec 12) (va : Nat) (inSup : Bool) : Bool :=
  l.va == va / 64 && l.asid == asid && (!l.sup || inSup)

/-- The word at `pc` in a line. -/
def CodeLine.word (l : CodeLine) (pc : Nat) : Code := BitVec.ofNat 32 (leNat ((l.bytes.drop (pc % 64)).take 4))

/-- The line of `pc` brought into the fetch buffer of element `le` for a set that runs in the supervisor or not (R133): from the
instruction cache, else translated and filled from its home. The error is a cause with its `tval`. -/
def State.fetchLine (le : Nat) (inSup : Bool) (pc : Nat) (s : State) : Except (Nat × Nat) CodeLine × State :=
  if rowOf pc ≠ .global then (.error (0x07, pc), s)
  else
    let asid := s.ctx.asid
    let t := s.tileOf le
    let keep := fun (l : CodeLine) (s : State) => s.updEl le (fun e => { e with
      fetchBuf := (l :: e.fetchBuf.filter (fun m => !(m.va == l.va && m.asid == l.asid))).take 2 })
    match (s.el le).fetchBuf.find? (fun l => l.serves asid pc inSup) with
    | some l => (.ok l, s)
    | none =>
      match (s.tile t).icache.find? (fun l => l.serves asid pc inSup) with
      | some l => (.ok l, keep l s)
      | none =>
        match s.translate t pc with
        | (none, s) => (.error (0x05, pc), s)
        | (some e, s) =>
          if !e.ex || (e.sup && !inSup) then (.error (0x07, pc), s)
          else match e.place (pc / 64 * 64) with
            | some (.phys pa) =>
              match firstPoison s.poison pa 64 with
              | some a => (.error (0x0F, pc / 64 * 64 + (a - pa)), s)
              | none =>
                let s := s.correctLine pa
                let l : CodeLine := ⟨asid, pc / 64, e.sup, s.peek pa 64⟩
                (.ok l, keep l (s.updTile t (fun tl => { tl with
                  icache := (l :: tl.icache.filter (fun m => !(m.va == l.va && m.asid == l.asid))).take Config.icacheLines })))
            | _ => (.error (0x07, pc), s)

/-- The instruction word at `pc`. -/
def State.fetchWord (le : Nat) (inSup : Bool) (pc : Nat) (s : State) : Except (Nat × Nat) Code × State :=
  match s.fetchLine le inSup pc with
  | (.ok l, s) => (.ok (l.word pc), s)
  | (.error e, s) => (.error e, s)

end Sys2Proof.Machine
end

