-- ==== Sys2Proof/Machine/Device.lean ====
section
/-! DEFINITION. The device around the elements: translations and shootdowns (R143, R146), soft errors and scrubbing (R154, R155), the host
link and the mailbox (R380 to R385), Slipstream samples and losses (R372, R373), the Foehn governor (R386 to R388), and power (R18,
R389). -/
namespace Sys2Proof.Machine

/-! ### Translations and instruction lines -/

/-- `PAGE_WALK` (R143): a walk for a global address fills the tile's edge TLB, or fills nothing where it faults. -/
def execPageWalk (tile va : Nat) (s : State) : Host.Outcome State Fault Refusal :=
  if !s.ctx.present || rowOf va ≠ .global then .next s else .next (s.translate tile va).2

/-- Whether `n` bytes at `a` meet `m` bytes at `b`. -/
def rangesMeet (a n b m : Nat) : Bool := decide (a < b + m) && decide (b < a + n)

/-- The superblocks of a range written back and invalidated in tile `t` (R146). -/
def State.dropRange (t va len : Nat) (s : State) : State :=
  ((s.tile t).l1.filter (fun b => b.asid == s.ctx.asid && rangesMeet (256 * b.tag) 256 va len)).foldl (fun s b => s.evict t b) s

/-- An outstanding operation holds a translation of an address in the range; a `vrst` does of its whole range till its last word is reset, in
whatever order they are (R162). -/
def MemOp.translatedIn (o : MemOp) (va len : Nat) : Bool :=
  let global := fun (p : Place) => match p with
    | .phys _ | .ctl _ => true
    | _ => false
  (global o.place && rangesMeet o.ea o.n va len) || o.planes.any (fun q => match q with
    | some (pb, t) => global t.place && rangesMeet pb 1 va len
    | none => false)

/-- A parked `ldv` goes on waiting through the new mapping, or traps where that forbids it (R144, R146). -/
def State.remap (le : Nat) (o : MemOp) (s : State) : State :=
  let s := s.walkSeen s.ctx.root o.ea
  let fail := fun c => (s.dropOp le o.id).lateTrap le o c o.ea
  match s.walk s.ctx.asid s.ctx.root o.ea with
  | none => fail 0x05
  | some e =>
    if !e.rd || (e.sup && !o.inSup) then fail 0x07
    else match e.place o.ea with
      | some (.phys pa) => s.updEl le (fun x => { x with
          ops := x.ops.map (fun p => if p.id = o.id then { p with place := .phys pa, wr := e.wr, supPage := e.sup } else p) })
      | _ => fail 0x07

/-- `SHOOTDOWN` (R146): on every tile of the partition the edge TLB, the L1 and the instruction cache drop the range, and the elements'
fetch buffers with it. It completes once no outstanding operation uses the old mapping; a parked `ldv` takes the new one (log entry 63). -/
def execShootdown (va len : Nat) (s : State) : Host.Outcome State Fault Refusal :=
  if s.ctx.elems.any (fun e => e.2.ops.any (fun o => !o.parked && o.translatedIn va len)) then .next s else
  let asid := s.ctx.asid
  let keep := fun (l : CodeLine) => !(l.asid == asid && rangesMeet (64 * l.va) 64 va len)
  let s : State := s.ctx.tiles.foldl (fun (s : State) t =>
    (s.dropRange t va len).updTile t (fun tl => { tl with
      tlb := tl.tlb.filter (fun e => !(e.asid == asid && rangesMeet e.va e.size va len))
      icache := tl.icache.filter keep })) s
  let s : State := { s with ctx := { s.ctx with
    elems := s.ctx.elems.map (fun (e : Nat × Element) => (e.1, { e.2 with fetchBuf := e.2.fetchBuf.filter keep })) } }
  .next (s.ctx.elems.foldl (fun (s : State) (e : Nat × Element) =>
    (e.2.ops.filter (fun o => o.translatedIn va len)).foldl (fun (s : State) o => s.remap e.1 o) s) s)

/-- `FETCH_LINE_FILL` (R133): the line at the set's pc is brought into its element's fetch buffer. A fault is taken where the set fetches its
instruction now, and not by one whose instruction has been fetched and waits. -/
def execFetchLineFill (le set : Nat) (s : State) : Host.Outcome State Fault Refusal :=
  let t := s.thOf le set
  if !s.ctx.present || s.ctx.stopped || t.run == .free || t.ending.isSome || t.yielded || t.frame.isSome then .next s
  else match s.fetchLine le t.inSup t.pc.toNat with
    | (.ok _, s) => .next s
    | (.error e, u) => .next (if s.canRun le set then u.trapAt le set e.1 (BitVec.ofNat 64 e.2) none else u)

/-! ### Soft errors -/

/-- The 8-byte words of the 64-byte line of place `a`. -/
def lineWords (a : Nat) : List Nat := (List.range 8).map (a / 64 * 8 + ·)

/-- A word of GDDR 7 or L2 struck (R154, R155): a single-bit error stays until a read of its line or a scrub corrects and counts it; a second
one before that, or an uncorrectable one, poisons the line. -/
def State.strikeLine (pa : Nat) (fatal : Bool) (s : State) : State :=
  if fatal || s.latent.contains (pa / 8) then
    { s with
      poison := s.poison ++ (lineWords pa).filter (fun w => !s.poison.contains w)
      latent := s.latent.filter (fun w => !(lineWords pa).contains w) }
  else { s with latent := s.latent ++ [pa / 8] }

/-- The quad whose SRAM domain holds the L1 set of superblock `b` in tile `t`: the spec does not say which (log entry 44). -/
def l1Quad (t : Nat) (b : Superblock) : Nat := 16 * t + Config.l1Domain t (b.tag % 128) % 16

/-- A line that the L1 of tile `t` holds struck (R154): a single-bit error is corrected and counted; a clean line is refetched, a dirty one
is written back poisoned, all of it. -/
def State.strikeL1 (t pa : Nat) (fatal : Bool) (s : State) : State :=
  match s.holder t pa with
  | none => s
  | some b =>
    if !fatal then s.countFixes (l1Quad t b) 1
    else
      let dirty := (vget b.lines (pa / 64 % 4)).dirty
      let s := (s.flushLine t pa).railUp (l1Quad t b)
      if dirty then { s with poison := s.poison ++ (lineWords pa).filter (fun w => !s.poison.contains w) } else s

/-- A register struck (R154, R352): its parity fails at the next read; an uncorrectable error leaves nothing in the operand log to
mend it, whose places for its writes stay taken, by `g0`, which is no storage (R34). -/
def State.strikeReg (le set : Nat) (r : Bool × RegKey) (fatal : Bool) (s : State) : State :=
  if r.2 = .g 0 then s else s.updThOf le set (fun t => { t with
    badRegs := if t.badRegs.contains r then t.badRegs else t.badRegs ++ [r]
    oplog := if fatal then t.oplog.map (fun q => if q == r then (false, .g 0) else q) else t.oplog })

/-- `SOFT_ERROR` (R154). -/
def execSoftError (at_ : ErrorPlace) (fatal : Bool) (s : State) : Host.Outcome State Fault Refusal :=
  match at_ with
  | .localMem le off =>
    let w := locPlace le (off % Config.localBytes) / 8
    if fatal then .next ({ s with poison := if s.poison.contains w then s.poison else s.poison ++ [w] }.railUp (s.quadOf le))
    else .next (s.countFixes (s.quadOf le) 1)
  | .l1 tile pa => .next (s.strikeL1 tile pa fatal)
  | .l2 pa => .next (s.strikeLine pa fatal)
  | .gddr pa => if pa < Config.gddrBytes then .next (s.strikeLine pa fatal) else .next s
  | .icache tile va => .next (s.updTile tile (fun tl => { tl with icache := tl.icache.filter (fun l => l.va != va / 64) }))
  | .gReg le set sup n => .next (s.strikeReg le set (sup, .g n) fatal)
  | .fReg le set n => .next (s.strikeReg le set (false, .f n) fatal)
  | .vReg le set n => .next (s.strikeReg le set (false, .v n) fatal)

/-- `SCRUB` (R155): a single-bit error in GDDR 7 or L2 is corrected and counted (R154). -/
def execScrub (pa : Nat) (s : State) : Host.Outcome State Fault Refusal :=
  if s.latent.contains (pa / 8) then
    .next { s with latent := s.latent.filter (· != pa / 8), corrected := s.corrected + 1 }
  else .next s

/-! ### The host -/

/-- What the host reads reaches it. -/
def State.toHost (bs : List Byte) (s : State) : State := { s with hostLog := s.hostLog ++ [bs] }

/-- `HOST_MEM_ACCESS` (R382): performed at the L2 home, once the link is up (R389). -/
def execHostMemAccess (acc : HostAccess) (s : State) : Host.Outcome State Fault Refusal :=
  match acc with
  | .read pa n => if s.mailbox.ready && pa + n ≤ Config.gddrBytes then .next ((s.correctRange pa n).toHost (s.peek pa n)) else .next s
  | .write pa bytes =>
    if s.mailbox.ready && pa + bytes.length ≤ Config.gddrBytes then .next (s.homeWrite pa bytes) else .next s

/-- `CXL_CACHE_REQUEST` (R148): the host reads or writes a host line that the L2 keeps coherent with it. -/
def execCxlCacheRequest (acc : HostAccess) (s : State) : Host.Outcome State Fault Refusal :=
  match acc with
  | .read pa n =>
    if s.mailbox.ready && pa + n ≤ 2 ^ 46 then .next ((s.correctRange (hostPlace pa) n).toHost (s.peek (hostPlace pa) n)) else .next s
  | .write pa bytes =>
    if s.mailbox.ready && pa + bytes.length ≤ 2 ^ 46 then .next (s.homeWrite (hostPlace pa) bytes) else .next s

/-- `REGISTER_WRITE` (R214, R371, R380): a write into the control space. -/
def execRegisterWrite (off : Nat) (bytes : List Byte) (s : State) : Host.Outcome State Fault Refusal := .next (s.ctlWrite off bytes)

/-- `MBCMD_WRITE` (R380). -/
def execMbcmdWrite (v : Word) (s : State) : Host.Outcome State Fault Refusal := .next (s.mbcmdPut v)

/-- `MAILBOX_COMMAND_COMPLETE` (R380): what a command does, and so its result, is free. -/
def execMailboxCommandComplete (s : State) : Host.Outcome State Fault Refusal :=
  if s.mailbox.busy then
    let r := s.freshFree
    .next { r.2 with mailbox := { s.mailbox with busy := false, result := Config.mailboxResult r.1 s.mailbox.cmd } }
  else .next s

/-- The row-disable maps of the tiles' matrix units, in the order of their numbers (R12, R258, R385). -/
def rowMaps : List Byte :=
  (List.range 4096).flatMap (fun t => leBytes 8 (Config.rowDisableMap t).toNat)

/-- The measurements (R385): the digests of the boot ROM, the firmware image, the fuse configuration and the row-disable maps. -/
def State.measurements (s : State) : List (List Byte) :=
  [Config.bootRom, Config.firmwareBody s.resets, Config.fuseConfig s.resets, rowMaps].map Config.measure

/-- The response to an SPDM request: the message with its signature by the identity key (R385). -/
def State.spdmAnswer (s : State) (n : Nat) (nonce : Word) : List Byte :=
  let m := Config.spdmMessage n nonce s.measurements
  m ++ Config.ed448Sign Config.identityKey m

/-- `SPDM_REQUEST` (R385); in recovery only the mailbox answers (R384). -/
def execSpdmRequest (nonce : Word) (s : State) : Host.Outcome State Fault Refusal :=
  if s.recovery then .next s
  else
    let r := s.freshFree
    .next { r.2 with spdm := s.spdm ++ [s.spdmAnswer r.1 nonce] }

/-! ### Slipstream -/

/-- The next instruction of set `k` of element `le`: of its frame, else the word at its pc. -/
def State.peekInstr (s : State) (le k : Nat) : Option Instr :=
  let t := s.thOf le k
  let w := match t.frame with
    | some fr => some fr.word
    | none => match (s.fetchWord le t.inSup t.pc.toNat).1 with
      | .ok w => some w
      | .error _ => none
  w.bind (fun w => match decode w with
    | .ok i => some i
    | .error _ => none)

/-- Set `k` of element `le` waits at a read of a pending token, an `fwait` among them, or at a `yld` for its tokens and operations (R361). -/
def State.waitsToken (s : State) (le k : Nat) : Bool :=
  let t := s.thOf le k
  let token := fun (n : RegNo) => t.pending.any (fun p => p.1 == ((RegKey.g n).inBank t.inSup).1 && p.2.1 == .g n &&
    !(s.el le).ops.any (fun o => o.id == p.2.2))
  match s.peekInstr le k with
  | some .yld => s.ctx.calm.isSome && (!t.pending.isEmpty || s.setBusy le k)
  | some i => (gReads i).any token
  | none => false

/-- `recB` of a PC sample (R372): 3 for a free set; 2 for one that waits in one of the ways of R361; 1 for one that issues
nothing, in a stopped partition or after a double trap (R360, R348); whether another issues or is stalled in that cycle is timing, so that bit
is free (log entry 10). -/
def State.sampleState (le k : Nat) (s : State) : Word × State :=
  let t := s.thOf le k
  if t.run == .free then (3, s)
  else if t.waiting.isSome || !t.blocked.isEmpty || t.yielded || t.ending.isSome ||
      (s.el le).ops.any (fun o => o.set == k && o.parked) || s.waitsToken le k then (2, s)
  else if s.ctx.stopped || s.ctx.halting.contains (le, k) then (1, s)
  else
    let r := s.freshFree
    (if Config.freeBit r.1 then 1 else 0, r.2)

/-- The PC sample of element `le` at this tick is due and has not been made: one is every `slpcn` ticks (R372), at the ticks that `slpcn` divides (log
entry 10). -/
def State.sampleDue (s : State) (le : Nat) : Bool :=
  let n := (s.slip (s.tileOf le / 256)).pcn
  s.ctx.present && s.slipOn le 2 && n != 0 && s.tick % n == 0 && (s.el le).sampledAt != some s.tick

/-- The PC sample of element `le`, where it is due: of its sets T0 to T3 in turn (R372). -/
def State.pcSample (le : Nat) (s : State) : State :=
  if s.sampleDue le then
    let k := s.tick / (s.slip (s.tileOf le / 256)).pcn % 4
    let t := s.thOf le k
    let r := s.sampleState le k
    (r.2.record (s.tileOf le) ⟨s.timebase, s.slipHead 1 le k, if t.run == .free then 0 else t.pc, r.1⟩).updEl le
      (fun e => { e with sampledAt := some s.tick })
  else s

/-- `PC_SAMPLE` (R372): a sample that is due at this tick is made once, by this step or as the tick ends (`State.advanceTime`). -/
def execPcSample (le : Nat) (s : State) : Host.Outcome State Fault Refusal := .next (s.pcSample le)

/-- `LOSS_RECORD` (R373): the tile writes, once it can, a loss record and then its buffered records. -/
def execLossRecord (tile : Nat) (s : State) : Host.Outcome State Fault Refusal :=
  .next (s.slipWriteOut tile)

/-! ### Power and the Foehn governor -/

/-- The elements of quad `q` with a set in use (R386). -/
def State.quadBusy (s : State) (q : Nat) : Bool :=
  (List.range 4).any (fun i => match s.leAt (4 * q + i) with
    | some le => (s.el le).sets.toList.any (fun t => t.run != .free)
    | none => false)

/-- The quads of a chiplet that may stand off the least operating point: those listed, and those in use. -/
def State.govQuads (s : State) (chiplet : Nat) : List Nat :=
  ((s.quads.map (·.1)) ++ (s.ctx.elems.map (fun e => s.quadOf e.1)).filter s.quadBusy).eraseDups.filter (fun q => q / 4096 == chiplet)

/-- A governor; nothing has happened at reset. -/
def State.governor (s : State) (c : Nat) : Governor := Map.get Governor.start s.govs c

/-- The current is above the board controller's limit (R387 rank 1). -/
def Governor.exceeds (g : Governor) (c : Nat) : Bool := decide (Config.currentLimit c < g.current)

/-- Rank 1 or 2 acted in the last 100 µs (R387 rank 3). -/
def Governor.limited (g : Governor) (tick : Nat) : Bool :=
  match g.lastLimit with
  | some t => decide (tick < t + 100000)
  | none => false

/-- The quads `qs` take the operating point that `f` gives from their present one, from 600 to 1,800 MHz in steps of 50 (R386). -/
def State.setPoints (qs : List Nat) (f : Nat → Nat → Nat) (s : State) : State :=
  qs.foldl (fun s q =>
    let x := Map.get Quad.start s.quads q
    { s with quads := Map.set q { x with mhz := max 600 (min 1800 (f q x.mhz / 50 * 50)) } s.quads }) s

/-- Every matrix unit of a chiplet's 256 tiles takes cadence c, held as c − 1 (R283). -/
def State.setCadence (chiplet c : Nat) (s : State) : State :=
  ((List.range 256).map (256 * chiplet + ·)).foldl (fun s t =>
    if (s.tile t).mx.cadence = c - 1 then s else s.updTile t (fun tl => { tl with mx := { tl.mx with cadence := c - 1 } })) s

/-- The tick ends an interval of 10 µs that the governor of a chiplet has not decided yet (R386). -/
def State.intervalDue (s : State) (chiplet : Nat) : Bool := s.tick % 10000 == 0 && s.tick / 10000 != (s.governor chiplet).interval

/-- The governor of a chiplet decides for an interval of 10 µs (R386, R387), once, by the temperature `temp`: each quad's request is capped by the
limits that apply; a lower row only lowers, and the boost row applies in the interval in which a higher row acts. -/
def State.govern (chiplet temp : Nat) (s : State) : State :=
  if !s.intervalDue chiplet then s
  else
    let g := { s.governor chiplet with temp := temp, interval := s.tick / 10000 }
    let hot : Bool := 105 < temp
    let tooHigh := g.exceeds chiplet
    let g := if hot || tooHigh then { g with lastLimit := some s.tick } else g
    let point := fun (q mhz : Nat) =>
      let want := if s.quadBusy q then 1800 else 600
      let p := if tooHigh then min want mhz else want
      let p := if hot then min p (mhz - 50) else p
      if g.limited s.tick then min p 1400 else p
    let c := if tooHigh then 4 else if hot then 2 else 1
    ({ s with govs := Map.set chiplet g s.govs }.setPoints (s.govQuads chiplet) point).setCadence chiplet c

/-- `GOVERNOR_INTERVAL` (R386, R387): by this step, or as the tick ends with the temperature last heard (`State.advanceTime`). -/
def execGovernorInterval (chiplet temp : Nat) (s : State) : Host.Outcome State Fault Refusal := .next (s.govern chiplet temp)

/-- A step by rank 1 is due: the current is above the limit, and the last step is 1 µs past (R387). -/
def State.stepDue (s : State) (chiplet : Nat) : Bool :=
  let g := s.governor chiplet
  g.exceeds chiplet && (match g.stepped with
    | some t => decide (t + 1000 ≤ s.tick)
    | none => true)

/-- Where a step by rank 1 is due, every quad of the chiplet steps down 100 MHz and below the boost, and the matrix cadence is 4 (R387). -/
def State.stepDown (chiplet : Nat) (s : State) : State :=
  if s.stepDue chiplet then
    let g := { s.governor chiplet with lastLimit := some s.tick, stepped := some s.tick }
    ({ s with govs := Map.set chiplet g s.govs }.setPoints (s.govQuads chiplet)
      (fun _ mhz => min (mhz - 100) 1400)).setCadence chiplet (max 4 (if 105 < g.temp then 2 else 1))
  else s

/-- `OVERCURRENT` (R387 rank 1): the current is measured. The first step comes at once, and while the current stays above the limit one more every µs
(`State.advanceTime`). -/
def execOvercurrent (chiplet milliamps : Nat) (s : State) : Host.Outcome State Fault Refusal :=
  .next (State.stepDown chiplet { s with govs := Map.set chiplet { s.governor chiplet with current := milliamps } s.govs })

/-- `SRAM_RAIL_WINDOW` (R388): the rail between the fused floor and nominal. -/
def execSramRailWindow (quad : Nat) (s : State) : Host.Outcome State Fault Refusal :=
  let x := Map.get Quad.start s.quads quad
  let rail := if x.corrections < 10 then min (Config.railFloor quad) (x.rail + 1) else if x.corrections = 10 then x.rail else x.rail - 1
  .next { s with quads := Map.set quad { x with rail := rail, corrections := 0 } s.quads }

/-- What outlives the power of the module: the host's memory and what the host has read; the model's own agenda and counters with it. A
store of the device to host memory stays there, whether the L2 had given its line back or not (log entry 74). -/
def State.unpowered (s : State) : State :=
  { State.reset with
    power := false
    resets := s.resets
    mem := s.mem.filter (fun c => decide (2 ^ 46 ≤ c.1) && decide (c.1 < 2 ^ 47))
    spdm := s.spdm
    hostLog := s.hostLog
    agenda := s.agenda
    free := s.free }

/-- `MODULE_POWER_OFF` (R18): no part of the device holds state. -/
def execModulePowerOff (s : State) : Host.Outcome State Fault Refusal := .next s.unpowered

/-- The boot ROM accepts the firmware image found at reset `n` (R384): the fused digest is that of its key, its signature over the digest of its
body verifies against that key, and its security version is not below the fused rollback counter. -/
def firmwareAccepted (n : Nat) : Bool :=
  let key := Config.firmwareKey n
  decide (Config.shake256 key = Config.fusedKeyDigest) &&
  Config.ed448Verify key (Config.shake256 (Config.firmwareBody n)) (Config.firmwareSignature n) &&
  decide (Config.rollbackCounter n ≤ Config.firmwareVersion n)

/-- Steps 2 and 3 of bring-up (R389): the firmware verified or the device in recovery (R384), GDDR 7 trained and zeroed. Step 4 begins: contexts in
maintenance mode may run (`State.serves`). -/
def State.bringUpRest (s : State) : State :=
  let s := { s with bringUp := 2, fwOk := firmwareAccepted s.resets }
  if !s.fwOk then s
  else { s with
    bringUp := 4
    mem := s.mem.filter (fun c => decide (2 ^ 46 ≤ c.1))
    poison := s.poison.filter (fun w => decide (2 ^ 43 ≤ w))
    latent := s.latent.filter (fun w => decide (2 ^ 43 ≤ w)) }

/-- Step 4 of bring-up ends once no test runs, with the row-disable maps loaded (`State.rowMap`); step 5 trains the link and sets device ready
(R389). -/
def State.bringUpEnd (s : State) : State :=
  if s.ctx.present && !s.ctx.halted then s else { s with bringUp := 5, mailbox := { s.mailbox with ready := true } }

/-- `POWER_GOOD` (R389): reset is released where the power was off, and the bring-up sequence runs, up to the tests of step 4; another one takes it on
from there to its end (log entry 48). -/
def execPowerGood (s : State) : Host.Outcome State Fault Refusal :=
  let s := if s.power then s else { s with power := true, resets := s.resets + 1 }
  .next (if s.bringUp = 1 then s.bringUpRest else if s.bringUp = 4 then s.bringUpEnd else s)

end Sys2Proof.Machine
end

