-- ==== Sys2Proof/Machine/Flow.lean ====
section
/-! DEFINITION. Branches, jumps and the repeat frame (R193 to R196, R210). -/
namespace Sys2Proof.Machine

/-- The pc of the issuing set becomes `target`, with a branch record for a selected element (R372); the set is not ready in the next
cycle (R173). -/
def State.jump (target : Word) (s : State) : State :=
  (s.branchRecord s.th.pc target).updTh (fun t => { t with pc := target, bubble := true })

/-- The target next + sext(off) × 4 (R51, R193). -/
def branchTarget {w : Nat} (pc : Word) (off : BitVec w) : Word := pc + 4 + (off.signExtend 64 <<< 2)

/-- A conditional branch on two g operands (R193). -/
def branchOp (cond : Word → Word → Bool) (a b : Opnd) (off : BitVec 12) (s : State) : Host.Outcome State Fault Refusal :=
  withIssue [(.g, a), (.g, b)] [] (fun s =>
    let x := s.takeG a
    let y := x.2.takeG b
    .next (if cond x.1 y.1 then y.2.jump (branchTarget s.th.pc off) else y.2.advance)) s

/-- `BEQ` (R193). -/
def execBeq (a b : Opnd) (off : BitVec 12) (s : State) : Host.Outcome State Fault Refusal := branchOp (fun x y => x == y) a b off s
/-- `BNE` (R193). -/
def execBne (a b : Opnd) (off : BitVec 12) (s : State) : Host.Outcome State Fault Refusal := branchOp (fun x y => x != y) a b off s
/-- `BLT` (R193). -/
def execBlt (a b : Opnd) (off : BitVec 12) (s : State) : Host.Outcome State Fault Refusal := branchOp (fun x y => x.slt y) a b off s
/-- `BGE` (R193). -/
def execBge (a b : Opnd) (off : BitVec 12) (s : State) : Host.Outcome State Fault Refusal := branchOp (fun x y => !x.slt y) a b off s
/-- `BLTN` (R193). -/
def execBltn (a b : Opnd) (off : BitVec 12) (s : State) : Host.Outcome State Fault Refusal := branchOp (fun x y => x.ult y) a b off s
/-- `BGEN` (R193). -/
def execBgen (a b : Opnd) (off : BitVec 12) (s : State) : Host.Outcome State Fault Refusal := branchOp (fun x y => !x.ult y) a b off s

/-- `JAL` (R194). -/
def execJal (d : Opnd) (off : BitVec 18) (s : State) : Host.Outcome State Fault Refusal :=
  withIssue [] [(.g, d)] (fun s => .next ((s.putG d (s.th.pc + 4)).jump (branchTarget s.th.pc off))) s

/-- `JALR` (R194): a target that is not 4-aligned traps with 0x04 and leaves the link unwritten. -/
def execJalr (d : Opnd) (a : RegNo) (i : BitVec 12) (s : State) : Host.Outcome State Fault Refusal :=
  withIssue [(.g, .reg a)] [(.g, d)] (fun s =>
    let t := s.rg a + i.signExtend 64
    if t.setWidth 2 ≠ (0 : BitVec 2) then s.trap 0x04 t
    else .next ((s.putG d (s.th.pc + 4)).jump t)) s

/-- A captured instruction passes row 2 of R55: it is of the groups, and no field passes 31 on the last replay. -/
def frameOk (count kd ka kb : Nat) (w : Code) (i : Instr) : Bool :=
  match frameFields i with
  | none => false
  | some (d, a, b) =>
    let fits := fun (used : Bool) (x : BitVec 6) (k : Nat) => !used || decide (32 ≤ x.toNat) || decide (x.toNat + (count - 1) * k ≤ 31)
    fits d (fD w) kd && fits a (fA w) ka && fits b (fB w) kb

/-- The `n` instruction words from `pc` up, or the fault that fetching one meets, with its `tepc` (R195). -/
def State.fetchRun : Nat → Word → State → Except (Nat × Word × Word) (List Code) × State
  | 0, _, s => (.ok [], s)
  | n + 1, pc, s =>
    match s.fetchWord s.cur.1 s.th.inSup pc.toNat with
    | (.error e, s) => (.error (e.1, pc, BitVec.ofNat 64 e.2), s)
    | (.ok w, s) =>
      match State.fetchRun n (pc + 4) s with
      | (.ok ws, s) => (.ok (w :: ws), s)
      | r => r

/-- The trap of the first captured word, from `pc` up, that may not stand in a frame, with its `tepc` (R195). -/
def frameFault (start : Word) (count kd ka kb : Nat) : Word → List Code → Option (Nat × Word × Word)
  | _, [] => none
  | pc, w :: ws =>
    match decode w with
    | .error _ => some (0x01, pc, w.setWidth 64)
    | .ok i => if frameOk count kd ka kb w i then frameFault start count kd ka kb (pc + 4) ws else some (0x02, start, pc)

/-- What capturing the `n` instructions from `pc` up gives: all are fetched, then each is checked (R195). -/
def State.capture (start : Word) (count kd ka kb n : Nat) (pc : Word) (s : State) : Except (Nat × Word × Word) (List Code) × State :=
  match s.fetchRun n pc with
  | (.ok ws, s) =>
    (match frameFault start count kd ka kb pc ws with
     | some e => .error e
     | none => .ok ws, s)
  | r => r

/-- `RPT` (R195): fields c and n hold the counts less one. -/
def execRpt (c : BitVec 6) (n : BitVec 4) (kd ka kb : BitVec 2) (s : State) : Host.Outcome State Fault Refusal :=
  let pc := s.th.pc
  let count := c.toNat + 1
  match s.capture pc count kd.toNat ka.toNat kb.toNat (n.toNat + 1) (pc + 4) with
  | (.error e, s) => (s.updTh (fun t => { t with pc := e.2.1 })).trap e.1 e.2.2
  | (.ok ws, s) => .next (s.updTh (fun t => { t with
      frame := some ⟨pc, ws, count, kd.toNat, ka.toNat, kb.toNat, 0, 0⟩, pc := pc + 4 }))

/-- A branch on the stored count of `f[a]` (R210). -/
def countBranch (cond : Nat → Nat → Bool) (a : RegNo) (lit : BitVec 6) (off : BitVec 12) (s : State) :
    Host.Outcome State Fault Refusal :=
  withIssue [(.f, .reg a)] [] (fun s =>
    .next (if cond (s.rf a).tc lit.toNat then s.jump (branchTarget s.th.pc off) else s.advance)) s

/-- `BSIGLT` (R210). -/
def execBsiglt (a : RegNo) (lit : BitVec 6) (off : BitVec 12) (s : State) : Host.Outcome State Fault Refusal :=
  countBranch (fun c l => decide (c < l)) a lit off s
/-- `BSIGGE` (R210). -/
def execBsigge (a : RegNo) (lit : BitVec 6) (off : BitVec 12) (s : State) : Host.Outcome State Fault Refusal :=
  countBranch (fun c l => decide (l ≤ c)) a lit off s

end Sys2Proof.Machine
end

