-- ==== Sys2Proof/Machine/Integer.lean ====
section
/-! DEFINITION. Integer, immediate and address instructions (R189 to R192): each is one function of its operands, with ports popped in the
order a, b and the result written to a register or pushed (R191). -/
namespace Sys2Proof.Machine

/-- 1 or 0 (R189). -/
def ofBool (b : Bool) : Word := if b then 1 else 0

/-- The 32-bit result of a W form, sign-extended (R189). -/
def wordResult (x : Word) : Word := (x.setWidth 32 : BitVec 32).signExtend 64

/-- A shift amount, bits 5 to 0 (R189). -/
def shAmt (b : Word) : Nat := (b.setWidth 6 : BitVec 6).toNat

/-- Signed division rounded toward zero; by zero all ones (R190). -/
def divS (a b : Word) : Word := if b = 0 then -1 else BitVec.ofInt 64 (a.toInt.tdiv b.toInt)
/-- Natural division; by zero all ones (R190). -/
def divN (a b : Word) : Word := if b = 0 then -1 else BitVec.ofNat 64 (a.toNat / b.toNat)
/-- The remainder a − b · quotient, with the sign of a; by zero a (R189, R190). -/
def remS (a b : Word) : Word := if b = 0 then a else BitVec.ofInt 64 (a.toInt.tmod b.toInt)
/-- The natural remainder; by zero a (R190). -/
def remN (a b : Word) : Word := if b = 0 then a else BitVec.ofNat 64 (a.toNat % b.toNat)

/-- Leading zeros, 64 for 0 (R189). -/
def clzW (a : Word) : Word := if a = 0 then 64 else BitVec.ofNat 64 (63 - a.toNat.log2)
/-- Trailing zeros of a nonzero number below 2^`fuel`. -/
def ctzNat : Nat → Nat → Nat
  | 0, _ => 0
  | fuel + 1, n => if n % 2 = 1 then 0 else 1 + ctzNat fuel (n / 2)
/-- Trailing zeros, 64 for 0 (R189). -/
def ctzW (a : Word) : Word := BitVec.ofNat 64 (ctzNat 64 a.toNat)
/-- Set bits (R189). -/
def popcW (a : Word) : Word := BitVec.ofNat 64 ((List.range 64).foldl (fun n k => n + (a.getLsbD k).toNat) 0)
/-- Byte k of a placed at byte 7 − k (R189). -/
def bswapW (a : Word) : Word := BitVec.ofNat 64 (leNat (leBytes 8 a.toNat).reverse)

/-- The low end lo = b[5:0] of a bit field (R189). -/
def fieldLo (b : Word) : Nat := (b.setWidth 6 : BitVec 6).toNat
/-- The width w = min(b[12:6], 64 − lo) of a bit field (R189). -/
def fieldW (b : Word) : Nat := min (b.extractLsb' 6 7 : BitVec 7).toNat (64 - fieldLo b)
/-- A field extracted: zext(a[lo+w−1:lo]), 0 when w is 0 (R189). -/
def bextW (a b : Word) : Word := BitVec.ofNat 64 (a.toNat / 2 ^ fieldLo b % 2 ^ fieldW b)
/-- d with bits [lo+w−1:lo] replaced by a[w−1:0] (R189). -/
def binsW (d a b : Word) : Word :=
  let m : Word := BitVec.ofNat 64 ((2 ^ fieldW b - 1) * 2 ^ fieldLo b)
  (d &&& ~~~m) ||| ((a <<< fieldLo b) &&& m)

/-- A register-register operation on g operands (R189, R191). -/
def intOp (f : Word → Word → Word) (d a b : Opnd) (s : State) : Host.Outcome State Fault Refusal :=
  withIssue [(.g, a), (.g, b)] [(.g, d)] (fun s =>
    let x := s.takeG a
    let y := x.2.takeG b
    .next ((y.2.putG d (f x.1 y.1)).advance)) s

/-- A one-operand operation (R189). -/
def intOp1 (f : Word → Word) (d a : Opnd) (s : State) : Host.Outcome State Fault Refusal :=
  withIssue [(.g, a)] [(.g, d)] (fun s =>
    let x := s.takeG a
    .next ((x.2.putG d (f x.1)).advance)) s

/-- An operation that also reads its destination (R191). -/
def intOp3 (f : Word → Word → Word → Word) (d : RegNo) (a b : Opnd) (s : State) : Host.Outcome State Fault Refusal :=
  withIssue [(.g, a), (.g, b), (.g, .reg d)] [(.g, .reg d)] (fun s =>
    let x := s.takeG a
    let y := x.2.takeG b
    .next ((y.2.wg d (f (y.2.rg d) x.1 y.1)).advance)) s

/-- The value of `ldhi` (R192): sext(imm18, 64) << 12. -/
def highImm (i : BitVec 18) : Word := i.signExtend 64 <<< 12

/-- `ADD` (R189). -/
def execAdd (d a b : Opnd) (s : State) : Host.Outcome State Fault Refusal := intOp (fun a b => a + b) d a b s

/-- `SUB` (R189). -/
def execSub (d a b : Opnd) (s : State) : Host.Outcome State Fault Refusal := intOp (fun a b => a - b) d a b s

/-- `AND` (R189). -/
def execAnd (d a b : Opnd) (s : State) : Host.Outcome State Fault Refusal := intOp (fun a b => a &&& b) d a b s

/-- `OR` (R189). -/
def execOr (d a b : Opnd) (s : State) : Host.Outcome State Fault Refusal := intOp (fun a b => a ||| b) d a b s

/-- `XOR` (R189). -/
def execXor (d a b : Opnd) (s : State) : Host.Outcome State Fault Refusal := intOp (fun a b => a ^^^ b) d a b s

/-- `NOR` (R189). -/
def execNor (d a b : Opnd) (s : State) : Host.Outcome State Fault Refusal := intOp (fun a b => ~~~(a ||| b)) d a b s

/-- `SLL` (R189). -/
def execSll (d a b : Opnd) (s : State) : Host.Outcome State Fault Refusal := intOp (fun a b => a <<< shAmt b) d a b s

/-- `SRL` (R189). -/
def execSrl (d a b : Opnd) (s : State) : Host.Outcome State Fault Refusal := intOp (fun a b => a >>> shAmt b) d a b s

/-- `SRA` (R189). -/
def execSra (d a b : Opnd) (s : State) : Host.Outcome State Fault Refusal := intOp (fun a b => a.sshiftRight (shAmt b)) d a b s

/-- `ROL` (R189). -/
def execRol (d a b : Opnd) (s : State) : Host.Outcome State Fault Refusal := intOp (fun a b => a.rotateLeft (shAmt b)) d a b s

/-- `SLT` (R189). -/
def execSlt (d a b : Opnd) (s : State) : Host.Outcome State Fault Refusal := intOp (fun a b => ofBool (a.slt b)) d a b s

/-- `SLTN` (R189). -/
def execSltn (d a b : Opnd) (s : State) : Host.Outcome State Fault Refusal := intOp (fun a b => ofBool (a.ult b)) d a b s

/-- `MIN` (R189). -/
def execMin (d a b : Opnd) (s : State) : Host.Outcome State Fault Refusal := intOp (fun a b => if a.slt b then a else b) d a b s

/-- `MAX` (R189). -/
def execMax (d a b : Opnd) (s : State) : Host.Outcome State Fault Refusal := intOp (fun a b => if a.slt b then b else a) d a b s

/-- `MINN` (R189). -/
def execMinn (d a b : Opnd) (s : State) : Host.Outcome State Fault Refusal := intOp (fun a b => if a.ult b then a else b) d a b s

/-- `MAXN` (R189). -/
def execMaxn (d a b : Opnd) (s : State) : Host.Outcome State Fault Refusal := intOp (fun a b => if a.ult b then b else a) d a b s

/-- `MUL` (R189). -/
def execMul (d a b : Opnd) (s : State) : Host.Outcome State Fault Refusal := intOp (fun a b => a * b) d a b s

/-- `MULH` (R189). -/
def execMulh (d a b : Opnd) (s : State) : Host.Outcome State Fault Refusal := intOp (fun a b => ((a.signExtend 128 * b.signExtend 128).extractLsb' 64 64)) d a b s

/-- `MULHN` (R189). -/
def execMulhn (d a b : Opnd) (s : State) : Host.Outcome State Fault Refusal := intOp (fun a b => ((a.setWidth 128 * b.setWidth 128).extractLsb' 64 64)) d a b s

/-- `DIV` (R189, R190). -/
def execDiv (d a b : Opnd) (s : State) : Host.Outcome State Fault Refusal := intOp (fun a b => divS a b) d a b s

/-- `DIVN` (R189, R190). -/
def execDivn (d a b : Opnd) (s : State) : Host.Outcome State Fault Refusal := intOp (fun a b => divN a b) d a b s

/-- `REM` (R189, R190). -/
def execRem (d a b : Opnd) (s : State) : Host.Outcome State Fault Refusal := intOp (fun a b => remS a b) d a b s

/-- `REMN` (R189, R190). -/
def execRemn (d a b : Opnd) (s : State) : Host.Outcome State Fault Refusal := intOp (fun a b => remN a b) d a b s

/-- `BEXT` (R189). -/
def execBext (d a b : Opnd) (s : State) : Host.Outcome State Fault Refusal := intOp (fun a b => bextW a b) d a b s

/-- `ADDW` (R189). -/
def execAddw (d a b : Opnd) (s : State) : Host.Outcome State Fault Refusal := intOp (fun a b => wordResult (a + b)) d a b s

/-- `SUBW` (R189). -/
def execSubw (d a b : Opnd) (s : State) : Host.Outcome State Fault Refusal := intOp (fun a b => wordResult (a - b)) d a b s

/-- `MULW` (R189). -/
def execMulw (d a b : Opnd) (s : State) : Host.Outcome State Fault Refusal := intOp (fun a b => wordResult (a * b)) d a b s

/-- `LEA_SHIFT0` (R189). -/
def execLea0 (d a b : Opnd) (s : State) : Host.Outcome State Fault Refusal := intOp (fun a b => a + b) d a b s

/-- `LEA_SHIFT1` (R189). -/
def execLea1 (d a b : Opnd) (s : State) : Host.Outcome State Fault Refusal := intOp (fun a b => a + (b <<< 1)) d a b s

/-- `LEA_SHIFT2` (R189). -/
def execLea2 (d a b : Opnd) (s : State) : Host.Outcome State Fault Refusal := intOp (fun a b => a + (b <<< 2)) d a b s

/-- `LEA_SHIFT3` (R189). -/
def execLea3 (d a b : Opnd) (s : State) : Host.Outcome State Fault Refusal := intOp (fun a b => a + (b <<< 3)) d a b s

/-- `CLZ` (R189). -/
def execClz (d a : Opnd) (s : State) : Host.Outcome State Fault Refusal := intOp1 clzW d a s

/-- `CTZ` (R189). -/
def execCtz (d a : Opnd) (s : State) : Host.Outcome State Fault Refusal := intOp1 ctzW d a s

/-- `POPC` (R189). -/
def execPopc (d a : Opnd) (s : State) : Host.Outcome State Fault Refusal := intOp1 popcW d a s

/-- `BSWAP` (R189). -/
def execBswap (d a : Opnd) (s : State) : Host.Outcome State Fault Refusal := intOp1 bswapW d a s

/-- `BINS` (R189). -/
def execBins (d : RegNo) (a b : Opnd) (s : State) : Host.Outcome State Fault Refusal := intOp3 binsW d a b s

/-- `SEL` (R189): a if d ≠ 0, else b. -/
def execSel (d : RegNo) (a b : Opnd) (s : State) : Host.Outcome State Fault Refusal :=
  intOp3 (fun d a b => if d ≠ 0 then a else b) d a b s

/-- `ADDI` (R192). -/
def execAddi (d a : Opnd) (i : BitVec 12) (s : State) : Host.Outcome State Fault Refusal := intOp1 (fun x => x + i.signExtend 64) d a s

/-- `ANDI` (R192). -/
def execAndi (d a : Opnd) (i : BitVec 12) (s : State) : Host.Outcome State Fault Refusal := intOp1 (fun x => x &&& i.signExtend 64) d a s

/-- `ORI` (R192). -/
def execOri (d a : Opnd) (i : BitVec 12) (s : State) : Host.Outcome State Fault Refusal := intOp1 (fun x => x ||| i.signExtend 64) d a s

/-- `XORI` (R192). -/
def execXori (d a : Opnd) (i : BitVec 12) (s : State) : Host.Outcome State Fault Refusal := intOp1 (fun x => x ^^^ i.signExtend 64) d a s

/-- `SLLI` (R192). -/
def execSlli (d a : Opnd) (i : BitVec 6) (s : State) : Host.Outcome State Fault Refusal := intOp1 (fun x => x <<< i.toNat) d a s

/-- `SRLI` (R192). -/
def execSrli (d a : Opnd) (i : BitVec 6) (s : State) : Host.Outcome State Fault Refusal := intOp1 (fun x => x >>> i.toNat) d a s

/-- `SRAI` (R192). -/
def execSrai (d a : Opnd) (i : BitVec 6) (s : State) : Host.Outcome State Fault Refusal := intOp1 (fun x => x.sshiftRight i.toNat) d a s

/-- `SLTI` (R192). -/
def execSlti (d a : Opnd) (i : BitVec 12) (s : State) : Host.Outcome State Fault Refusal := intOp1 (fun x => ofBool (x.slt (i.signExtend 64))) d a s

/-- `SLTNI` (R192). -/
def execSltni (d a : Opnd) (i : BitVec 12) (s : State) : Host.Outcome State Fault Refusal := intOp1 (fun x => ofBool (x.ult (i.signExtend 64))) d a s

/-- `ADDWI` (R192). -/
def execAddwi (d a : Opnd) (i : BitVec 12) (s : State) : Host.Outcome State Fault Refusal := intOp1 (fun x => wordResult (x + i.signExtend 64)) d a s

/-- `LDHI` (R192). -/
def execLdhi (d : Opnd) (i : BitVec 18) (s : State) : Host.Outcome State Fault Refusal :=
  withIssue [] [(.g, d)] (fun s => .next ((s.putG d (highImm i)).advance)) s

/-- `PCADD` (R192): the address of this `pcadd` plus the value of `ldhi`. -/
def execPcadd (d : Opnd) (i : BitVec 18) (s : State) : Host.Outcome State Fault Refusal :=
  withIssue [] [(.g, d)] (fun s => .next ((s.putG d (s.th.pc + highImm i)).advance)) s

end Sys2Proof.Machine
end

