-- ==== Sys2Proof/Machine/Launch.lean ====
section
/-! DEFINITION. Launches from their windows to their completion words (R105 to R115, R376 to R378), work donation (R121, R122), and the
budget registers with their periods (R123 to R126, R323, R329). -/
namespace Sys2Proof.Machine

/-! ### Windows -/

/-- `LAUNCH_WINDOW_WRITE` (R105). -/
def execLaunchWindowWrite (w off : Nat) (bytes : List Byte) (s : State) : Host.Outcome State Fault Refusal :=
  if w < 64 then .next (s.windowWrite w off bytes) else .next s

/-- `LSTAT_READ` (R108): the host reads `lstat`, which clears `err`. -/
def execLstatRead (w : Nat) (s : State) : Host.Outcome State Fault Refusal :=
  if w < 64 then
    let r := s.ctlRead (0x10000 + 128 * w + 64) 8
    .next { r.2 with hostLog := s.hostLog ++ [r.1] }
  else .next s

/-! ### Launch records -/

/-- A launch record (R106). -/
structure LaunchRec where
  ttype : Nat
  lflags : Nat
  zeros : Nat
  first : Nat
  count : Nat
  args : List Word
  cva : Nat
  tag : Word
  deriving DecidableEq, Repr

/-- The fields of 64 bytes. -/
def launchRecOf (bs : List Byte) : LaunchRec where
  ttype := (bs.getD 0 0).toNat
  lflags := (bs.getD 1 0).toNat
  zeros := leNat ((bs.drop 2).take 2) + leNat ((bs.drop 12).take 4) + (bs.getD 1 0).toNat / 2
  first := leNat ((bs.drop 4).take 4)
  count := leNat ((bs.drop 8).take 4)
  args := (leWords 8 4 (bs.drop 16)).map (BitVec.ofNat 64)
  cva := leNat ((bs.drop 48).take 8)
  tag := BitVec.ofNat 64 (leNat ((bs.drop 56).take 8))

/-- The dispatcher chooses the elements (R106). -/
def LaunchRec.placed (r : LaunchRec) : Bool := r.lflags % 2 == 1

/-- The distance of neighbouring elements of a launch (R111). -/
def TaskType.stride (tt : TaskType) : Nat := if tt.equipped then 4 else 1

/-- The elements of a launch that names its first one (R111). -/
def LaunchRec.elems (r : LaunchRec) (tt : TaskType) : List Nat := (List.range r.count).map (fun k => r.first + tt.stride * k)

/-- The elements of matching class and slot, lowest LE first, among which a placed launch chooses (R111). -/
def State.suitable (s : State) (tt : TaskType) : List Nat :=
  ((List.range (s.nLe / tt.stride)).map (· * tt.stride)).filter (s.classOk tt.fclass)

/-- The completion word written at its home and its version bumped (R378). -/
def State.completionPut (va : Nat) (x : Word) (s : State) : State :=
  let s := s.walkSeen s.ctx.root va
  match (s.walk s.ctx.asid s.ctx.root va).bind (fun e => e.place va) with
  | some (.phys pa) =>
    let s := s.homeWrite pa (leBytes 8 x.toNat)
    if s.isTracked va then s.bump pa else s
  | _ => s

/-- The checks of the dispatcher in their order (R109, R378): the code of the first that fails. -/
def State.launchError (s : State) (r : LaunchRec) (tt : Option TaskType) : Option Nat :=
  match tt with
  | none => some 0x48
  | some tt =>
    if r.zeros ≠ 0 || r.count = 0 || !tt.valid then some 0x42
    else if !r.placed && (s.nLe ≤ r.first + tt.stride * (r.count - 1) || (tt.equipped && r.first % 4 != 0)) then some 0x43
    else if !r.placed && !(r.elems tt).all (s.classOk tt.fclass) then some 0x44
    else if Config.localBytes < tt.size || (r.placed && decide ((s.suitable tt).length < r.count)) then some 0x45
    else if s.ctx.groupsBad then some 0x46
    else if r.cva ≠ 0 && (r.cva % 8 != 0 || !s.isTracked r.cva) then some 0x47
    else none

/-- The head record of window `w`. -/
def State.headRec (s : State) (w : Nat) : LaunchRec := launchRecOf ((s.window w).queue.headD [])

/-- The task type of a record, none where the table has no such entry. -/
def State.recTask (s : State) (r : LaunchRec) : Option TaskType := if r.ttype < 64 then s.taskType r.ttype else none

/-- The head record leaves the queue of window `w`. -/
def State.popHead (w : Nat) (s : State) : State :=
  s.setWindow w { s.window w with queue := (s.window w).queue.drop 1, head := none }

/-- A refused record (R109, R378): `lstat` says so, and a nonzero completion word takes the code, but for 0x47. Its task type has been read
(R154). -/
def State.refuseLaunch (w code cva : Nat) (s : State) : State :=
  let s := (s.taskSeen (s.headRec w).ttype).popHead w
  let s := s.setWindow w ((s.window w).note code)
  if cva = 0 || code = 0x47 then s else s.completionPut cva (BitVec.ofNat 64 (2 ^ 63 + code))

/-! ### Allotting the shares (R112, R113) -/

/-- The launch activation of element `le` sent on its way (R112, R114). -/
def State.launchOne (w : Nat) (id : Nat) (r : LaunchRec) (tt : TaskType) (p : Nat × Nat) (s : State) : State :=
  match (s.el p.2).fitTask tt with
  | some (base, k) =>
    let a := s.nextId
    (s.allotOn p.2 r.ttype base k tt (some id)).launchFlight
      (.msg (2 ^ 22 + w) p.2 ⟨mkHeader 0 0 true none p.2 0 false, [], .launch r.ttype r.args p.1 r.tag a⟩)
  | none => s

/-- Elements with their index in the launch. -/
def numbered (les : List Nat) : List (Nat × Nat) := (List.range les.length).map (fun i => (i, les.getD i 0))

/-- The shares of an accepted record, by chiplet: the elements with their index where the record names them; those of a placed launch are
chosen when it fits. -/
def State.sharesOf (s : State) (r : LaunchRec) (tt : TaskType) : List (Nat × List (Nat × Nat)) :=
  let all := numbered (if r.placed then s.suitable tt else r.elems tt)
  (List.range 16).filterMap (fun c =>
    let share := all.filter (fun p => s.chipletOf p.2 == c)
    if share.isEmpty then none else some (c, if r.placed then [] else share))

/-- What is allotted for `share`: its elements, if every one of them fits; for a placed launch the whole launch. -/
def State.shareOf (s : State) (r : LaunchRec) (tt : TaskType) (share : List (Nat × Nat)) : Option (List (Nat × Nat)) :=
  if r.placed then
    let les := ((s.suitable tt).filter (fun le => ((s.el le).fitTask tt).isSome)).take r.count
    if les.length = r.count then some (numbered les) else none
  else if share.all (fun p => ((s.el p.2).fitTask tt).isSome) then some share else none

/-- A lower window's waiting head takes the free memory of one of the chiplets `cs` first (R113). -/
def State.lowerFirst (s : State) (w : Nat) (cs : List Nat) : Bool :=
  s.windows.any (fun v => decide (v.1 < w) && v.2.bound == some s.ctx.ctxid &&
    (match v.2.head, s.recTask (s.headRec v.1) with
     | some h, some tt => h.2.any (fun x => cs.contains x.1 && (s.shareOf (s.headRec v.1) tt x.2).isSome)
     | _, _ => false))

/-- The elements `les` of launch `id` allotted (R112); a placed launch is in progress with them. -/
def State.allotShare (w id : Nat) (r : LaunchRec) (tt : TaskType) (les : List (Nat × Nat)) (s : State) : State :=
  let s := if r.placed then { s with ctx := { s.ctx with launches := s.ctx.launches ++ [⟨id, les.map (·.2), r.cva, r.tag, []⟩] } } else s
  les.foldl (fun s p => s.launchOne w id r tt p) s

/-- The head record of window `w` with the shares `left` still waiting; it leaves the queue with its last share. -/
def State.keepHead (w id : Nat) (left : List (Nat × List (Nat × Nat))) (s : State) : State :=
  if left.isEmpty then s.popHead w else s.setWindow w { s.window w with head := some (id, left) }

/-- The share of chiplet `c` of the waiting head of window `w` allotted, if all of it fits (R112), after what lower windows would take on the
chiplets that it touches (R113); the record leaves the queue with its last share. -/
def State.tryShare (w c : Nat) (s : State) : State :=
  match (s.window w).head with
  | none => s
  | some (id, cs) =>
    let r := s.headRec w
    match s.recTask r with
    | none => s
    | some tt =>
      match (cs.find? (fun x => x.1 == c)).bind (fun x => s.shareOf r tt x.2) with
      | none => s
      | some les =>
        if s.lowerFirst w (c :: les.map (fun p => s.chipletOf p.2)) then s
        else (s.allotShare w id r tt les).keepHead w id (if r.placed then [] else cs.filter (fun x => x.1 != c))

/-- The head record accepted: its launch is in progress, and its shares are tried (R112). -/
def State.acceptLaunch (w : Nat) (r : LaunchRec) (tt : TaskType) (s : State) : State :=
  let i := (s.taskSeen r.ttype).newId
  let s := i.2
  let cs := s.sharesOf r tt
  let s := if r.placed then s else { s with ctx := { s.ctx with launches := s.ctx.launches ++ [⟨i.1, r.elems tt, r.cva, r.tag, []⟩] } }
  let s := s.setWindow w { s.window w with head := some (i.1, cs) }
  cs.foldl (fun s c => s.tryShare w c.1) s

/-- `LAUNCH_DISPATCH` (R109): the head record of a window of the running context is checked, then refused or accepted. -/
def execLaunchDispatch (w : Nat) (s : State) : Host.Outcome State Fault Refusal :=
  let v := s.window w
  if !s.ctx.present || s.ctx.stopped || v.bound != some s.ctx.ctxid || v.queue.isEmpty || v.head.isSome then .next s
  else
    let r := s.headRec w
    let tt := s.recTask r
    match s.launchError r tt, tt with
    | some code, _ => .next (s.refuseLaunch w code r.cva)
    | none, some tt => .next (s.acceptLaunch w r tt)
    | none, none => .next s

/-- The head record of window `w` tried again on a chiplet on which an allotment has been released (R113). -/
def State.retryShare (w chiplet : Nat) (s : State) : State :=
  if s.ctx.released.contains chiplet && (s.window w).bound == some s.ctx.ctxid then s.tryShare w chiplet else s

/-- `LAUNCH_SHARE_RETRY` (R113): after a release on that chiplet, and at no other time. `State.atOnce` makes the same retry before the next step where
the agenda does not name it. -/
def execLaunchShareRetry (w chiplet : Nat) (s : State) : Host.Outcome State Fault Refusal :=
  if !s.ctx.present || s.ctx.stopped then .next s else .next (s.retryShare w chiplet)

/-- The dispatchers retry at once what waits on the chiplets with a release (R113, R377), lower windows first. A stopped partition retries as it goes
on (log entry 77). -/
def State.retryShares (s : State) : State :=
  if !s.ctx.present || s.ctx.stopped || s.ctx.released.isEmpty then s
  else
    let s := s.ctx.released.foldl (fun s c => s.windows.foldl (fun s w => s.retryShare w.1 c) s) s
    { s with ctx := { s.ctx with released := [] } }

/-! ### Retirement (R376 to R378) -/

/-- One of the allotment's sets issued the command. -/
def Allot.issued (a : Allot) (le : Nat) (who : Issuer) : Bool :=
  who.le == le && who.holder == a.id

/-- Row 1: a set of the allotment runs, or T3 an activation of its own: a ring entry that T3 runs stands in no other row. -/
def Element.runs (e : Element) (a : Allot) : Bool :=
  (List.range a.nsets).any (fun j => (vget e.sets (a.firstSet + j)).run != .free) ||
  ((vget e.sets 3).run != .free && (vget e.sets 3).act.any (fun x => x.allot == a.id))

/-- Row 2: a message for one of its bound channels is queued at the element, or on channel 0 its launch activation, running or returned too, or a call
that it would run; once it runs, a call counts for the allotment of its set, by row 1; one that is on its way counts for no
row (R177). A channel that `hset` has unbound, or that a later allotment owns, is none of its (log entry 21). -/
def State.hasMessage (s : State) (le : Nat) (a : Allot) : Bool :=
  (s.el le).inb.any (fun q =>
    let ch := hdrChan q.msg.header
    ((s.el le).owns a.id ch && (s.el le).bound ch) || (ch == 0 && (match q.msg.kind with
      | .call _ _ _ _ _ => !q.taken && (s.allotFor le q.msg).any (fun b => b.id == a.id)
      | .launch _ _ _ _ id => id == a.id
      | _ => false)))

/-- Row 4: one of its activations set a subscription bit that is still set, or holds a pin. -/
def State.subscribed (s : State) (le : Nat) (a : Allot) : Bool :=
  let t := s.tileOf le
  let e := s.el le
  let acts := (List.range 4).filterMap (fun k => (vget e.sets k).act.map (fun x => (k, x)))
  e.subOwners.any (fun o => o.2.2 == a.id && (s.maskOf t o.1 o.2.1 &&& s.maskBit le) != 0) ||
  (s.tile t).bufs.toList.any (fun b =>
    acts.any (fun x => x.2.allot == a.id && (b.subPins.contains (le, x.1) || b.subPins.contains (le, x.1 + 4) || b.passPins.contains (le, x.2.stamp))))

/-- Row 5: a twin, the owner of a stage with a twin, or a side of a clone or merge in progress; a channel that a later allotment owns is none of its. -/
def State.staged (s : State) (le : Nat) (a : Allot) : Bool :=
  a.twinOf.isSome || a.chans.any (fun ch => match s.stage le ch with
    | some st => (s.el le).owns a.id ch && (st.hasTwin le || st.op.isSome)
    | none => false)

/-- Row 6: a command of one of its sets has not completed. -/
def State.commanding (s : State) (le : Nat) (a : Allot) : Bool :=
  let mine := fun (w : Issuer) => a.issued le w
  s.tiles.any (fun t => t.2.copies.any (fun c => mine c.who) || t.2.mx.queue.any (fun c => mine c.who)) ||
  s.quads.any (fun q => q.2.wops.any (fun c => mine c.who)) ||
  s.ctx.flights.any (fun f => match f.2 with
    | .matrix c _ => mine c.who
    | .query w _ _ => mine w
    | _ => false)

/-- An allotment is live while a row of R376 holds. -/
def State.live (s : State) (le : Nat) (a : Allot) : Bool :=
  (s.el le).runs a || s.hasMessage le a || ((s.el le).owns a.id 1 && decide (0 < (s.el le).ringCnt)) || s.subscribed le a ||
  s.staged le a || s.commanding le a || !a.launched

/-- The memory operations that the allotment's activations have outstanding on its element: on T3 and on every set of its task type (R167). -/
def Element.opsOf (e : Element) (a : Allot) : List Nat :=
  (e.ops.filter (fun o => o.set == 3 || a.holds o.set || e.allots.any (fun b => b.ttype == a.ttype && b.holds o.set))).map (·.id)

/-- The launch's element has retired with the operations `ops` outstanding. -/
def State.leaveLaunch (id le : Nat) (ops : List Nat) (s : State) : State :=
  { s with ctx := { s.ctx with
      launches := s.ctx.launches.map (fun l => if l.id = id then { l with elems := l.elems.filter (· != le), ops := l.ops ++ ops } else l) } }

/-- Allotment `a` of element `le` retires (R377), and with it the element from its launch (R378). -/
def State.retire (le : Nat) (a : Allot) (s : State) : State :=
  let t := s.releaseAllot le a.id
  match a.launch with
  | some id => t.leaveLaunch id le ((s.el le).opsOf a)
  | none => t

/-- `ALLOTMENT_RETIRE` (R376, R377): allotment `k` of element `le`, where no row holds. `State.atOnce` retires it before the next step where the agenda
does not name it. -/
def execAllotmentRetire (le k : Nat) (s : State) : Host.Outcome State Fault Refusal :=
  match s.allotOf le k with
  | none => .next s
  | some a => .next (if s.live le a then s else s.retire le a)

/-- Every allotment for which no row holds retires: its element tests the rows whenever one clears (R376). -/
def State.retireDead (s : State) : State :=
  s.ctx.elems.foldl (fun s e => e.2.allots.foldl (fun s a => if s.live e.1 a then s else s.retire e.1 a) s) s

/-- What the last step lets the device do at once, before the next one: the allotments that no row keeps live retire (R376), and what their release
makes room for is allotted (R113, R377). -/
def State.atOnce (s : State) : State := s.retireDead.retryShares

/-- `LAUNCH_COMPLETION` (R378): every element of launch `k` has retired, and every operation of its sets has completed; a release at system scope,
then the completion word. -/
def execLaunchCompletion (k : Nat) (s : State) : Host.Outcome State Fault Refusal :=
  match s.ctx.launches.find? (fun l => l.id == k) with
  | none => .next s
  | some l =>
    if !l.elems.isEmpty || s.ctx.elems.any (fun e => e.2.ops.any (fun o => l.ops.contains o.id)) then .next s
    else
      let s := { s with ctx := { s.ctx with launches := s.ctx.launches.filter (fun x => x.id != k) } }
      let s := s.ctx.tiles.foldl (fun s t => s.drain t) s
      .next (if l.cva = 0 then s else s.completionPut l.cva l.tag)

/-! ### Work donation (R121, R122) -/

/-- The tile has been idle for 256 ticks: no runnable channel and no ring entry in any of its elements. -/
def State.idle (s : State) (t : Nat) : Bool :=
  decide ((s.tile t).idleFrom + 256 ≤ s.tick) && (s.lesOf t).all (fun le => !s.runnable le && (s.el le).ringCnt == 0)

/-- The next victim (R121): after the last one in reach the search starts again at the least (log entry 77). -/
def State.victim (s : State) (t : Nat) : Option Nat :=
  let near := s.ctx.tiles.filter (fun u => u != t && decide (hops t u ≤ 8))
  let least := fun (us : List Nat) => us.foldl (fun (m : Option Nat) u => match m with
    | some x => some (min x u)
    | none => some u) none
  match least (near.filter (fun u => decide ((s.tile t).lastVictim < u))) with
  | some u => some u
  | none => least near

/-- A request or an answer of thief `t` is on its way. -/
def State.stealing (s : State) (t : Nat) : Bool :=
  s.ctx.flights.any (fun f => match f.2 with
    | .stealReq a _ => a == t
    | .stealAns a _ _ => a == t
    | _ => false)

/-- `TILE_IDLE` (R121). -/
def execTileIdle (tile : Nat) (s : State) : Host.Outcome State Fault Refusal :=
  if s.ctx.stopped || !s.ctx.tiles.contains tile || !s.idle tile || s.stealing tile then .next s
  else match s.victim tile with
    | some v => .next ((s.updTile tile (fun tl => { tl with lastVictim := v })).launchFlight (.stealReq tile v))
    | none => .next s

/-- Element `le` offers a task control block (R122): a launch activation that is not dispatched, no activation run yet. -/
def State.offers (s : State) (le : Nat) : Bool :=
  let e := s.el le
  !e.allots.isEmpty && e.allots.all (fun a => a.fresh && a.twinOf.isNone) && e.sets.toList.all (fun t => t.run == .free) &&
  e.inb.any (fun q => !q.taken && (match q.msg.kind with
    | .launch _ _ _ _ id => e.allots.any (fun a => a.id == id)
    | _ => false))

/-- `STEAL_REQUEST` (R122): the victim answers with up to 8 blocks, lowest LE first. -/
def execStealRequest (k : Nat) (s : State) : Host.Outcome State Fault Refusal :=
  match s.flight k with
  | some (.stealReq thief victim) =>
    if s.ctx.stopped then .next s
    else .next ((s.dropFlight k).launchFlight (.stealAns thief victim (((s.lesOf victim).filter s.offers).take 8)))
  | _ => .next s

/-- The place of a logical element in the map as it was formed (R110). -/
def State.homePlace (s : State) (le : Nat) : Nat := s.ctx.tiles.getD (le / 64) 0 * 64 + le % 64

/-- The map entry of `le` set to physical element `p` (R122). -/
def State.place (le p : Nat) (s : State) : State :=
  { s with ctx := { s.ctx with moved := if s.homePlace le = p then Map.drop le s.ctx.moved else Map.set le p s.ctx.moved } }

/-- The element of tile `thief` that takes the block of `le` (R122): no allotment, the same slot, a tile of the same class; of
several, the one of the lowest physical number (log entry 74). -/
def State.stealPlace (s : State) (thief le : Nat) : Option Nat :=
  if wideTile thief != wideTile (s.tileOf le) then none
  else ((List.range 64).map (64 * thief + ·)).find? (fun p => p % 4 == s.physOf le % 4 &&
    (match s.leAt p with
     | some m => (s.el m).allots.isEmpty
     | none => false))

/-- One block placed: the two logical elements change places (R122). Till then its launch made its old tile busy (R121). The words that wait in its
neighbour links go with the element (R13 and R122 do not say; log entry 75). -/
def State.moveLe (thief le : Nat) (s : State) : State :=
  if !s.offers le then s
  else match s.stealPlace thief le with
    | none => s
    | some p =>
      match s.leAt p with
      | some m =>
        let old := s.physOf le
        ((s.noteRunnable le).place le p).place m old
      | none => s

/-- `STEAL_ANSWER` (R122): either answer restarts the thief's count (R121). -/
def execStealAnswer (k : Nat) (s : State) : Host.Outcome State Fault Refusal :=
  match s.flight k with
  | some (.stealAns thief _ les) =>
    if s.ctx.stopped then .next s
    else
      let s := (s.dropFlight k).updTile thief (fun tl => { tl with idleFrom := s.tick })
      .next (les.foldl (fun s le => s.moveLe thief le) s)
  | _ => .next s

/-! ### Budgets (R124 to R126) -/

/-- The shares stay within the limits of R124. -/
def sharesOk (shares : Vector ClassShare 6) : Bool :=
  let sum := fun (f : ClassShare → BitVec 8) => (shares.toList.map (fun c => (f c).toNat)).sum
  decide (sum (·.mem) ≤ 256) && decide (sum (·.l2w) ≤ 16) && decide (sum (·.inj) ≤ 256) && decide (sum (·.twp) ≤ 256) &&
  decide (sum (·.qvu) ≤ 256)

/-- `BUDGET_SHARE_WRITE` (R124): refused where a sum exceeds its limit; the new shares wait for the period's end. -/
def execBudgetShareWrite (shares : Vector ClassShare 6) (s : State) : Host.Outcome State Fault Refusal :=
  if sharesOk shares then .next { s with ctx := { s.ctx with nextShares := some shares } } else .next s

/-- The sample of the stage on channel `ch` of element `le` at a period boundary (R323, R329), and what it starts. -/
def State.sampleStage (le ch : Nat) (s : State) : State :=
  match s.stage le ch, Map.find ch (s.el le).handlers with
  | some st, some h =>
    let n := (s.el le).occupancy ch
    match st.twinHome with
    | none => ((s.noteRunnable le).setStage le ch { st with overloads := if h.hiw ≤ n then st.overloads + 1 else 0 }).cloneIfReady le ch
    | some _ => (s.setStage le ch { st with lowCount := if n ≤ h.low then st.lowCount + 1 else 0 }).mergeIfReady le ch
  | _, _ => s

/-- A period boundary is due: the tick is a multiple of 512 whose period has not begun (R124). -/
def State.boundaryDue (s : State) : Bool := s.tick % 512 == 0 && s.tick / 512 != s.period

/-- A new period of 512 ns begins (R124); its `brw` bits are free (log entry 10), since arbitration is timing. The contested cycles of R172 are
counted anew, and the stages and twins are sampled (R323, R329), in a stopped partition none (log entry 77). -/
def State.beginPeriod (s : State) : State :=
  if !s.boundaryDue then s
  else
    let r := s.freshFree
    let s : State := { r.2 with
      period := s.tick / 512
      ctx := { s.ctx with
        shares := s.ctx.nextShares.getD s.ctx.shares
        nextShares := none
        borrowed := (Config.freeByte r.1 0).setWidth 6
        elems := s.ctx.elems.map (fun e => (e.1, { e.2 with won3 := 0, won0 := 0 })) } }
    if s.ctx.stopped then s
    else
      let all : List (Nat × Nat) := s.ctx.elems.flatMap (fun e => e.2.stages.map (fun st => (e.1, st.1)))
      all.foldl (fun s p => s.sampleStage p.1 p.2) s

/-- `BUDGET_PERIOD_BOUNDARY` (R124): at a multiple of 512 ticks, once, by this step or as the tick ends (`State.advanceTime`). -/
def execBudgetPeriodBoundary (s : State) : Host.Outcome State Fault Refusal := .next s.beginPeriod

end Sys2Proof.Machine
end

