-- ==== Sys2Proof/Machine/Matrix.lean ====
section
/-! DEFINITION. The matrix units (R258 to R284): capabilities, commands and their order, the loads, runs and drains, and the status
answer. -/
namespace Sys2Proof.Machine

/-! ### Capabilities (R263 to R265) -/

/-- The right that a command needs, as bits of a capability (R264). -/
def MxOp.right : MxOp → Nat
  | .mld | .mswp => 0x8000
  | .mdrn => 0x2000
  | .mzro => 0x1000
  | _ => 0x4000

/-- A capability with its keyed check (R263, R275). -/
def State.mint (s : State) (low : BitVec 36) : Word := Config.keyedCheck s.resets low ++ low

/-- The first failing check of R264, 1 to 4, and 5 where `atElement`; none where the capability passes. `rights` are the bits of which
one must be set. -/
def State.capRefusal (s : State) (cap : Word) (rights : Nat) (atElement : Bool) : Option Nat :=
  if s.mint (cap.setWidth 36) ≠ cap then some 1
  else if cap.extractLsb' 16 12 ≠ s.ctx.ctxid then some 2
  else if cap.extractLsb' 28 8 ≠ s.ctx.epoch then some 3
  else if cap.toNat &&& rights = 0 then some 4
  else if atElement && s.ctx.tiles.length ≤ cap.toNat % 4096 then some 5
  else none

/-- The value of error 0x20 with its reason (R262). -/
def capError (reason : Nat) : Word := tokErr (reason * 256 + 0x20)

/-- The physical tile whose unit a capability names (R263). -/
def State.capTile (s : State) (cap : Word) : Nat := s.ctx.tiles.getD (cap.toNat % 4096) 0

/-- `MCAP` (R275). -/
def execMcap (d : RegNo) (a b : Opnd) (s : State) : Host.Outcome State Fault Refusal :=
  if !s.th.inSup then s.trap 0x12 (instrVal (.mcap d a b))
  else
    withIssue [(.g, a), (.g, b)] [(.g, .reg d)] (fun s =>
      let x := s.takeG a
      let y := x.2.takeG b
      if 2 ^ 28 ≤ x.1.toNat then s.trap 0x07 x.1
      else if 2 ^ 8 ≤ y.1.toNat then s.trap 0x07 y.1
      else .next ((y.2.wg d (s.mint ((y.1.setWidth 8 : BitVec 8) ++ (x.1.setWidth 28 : BitVec 28)))).advance)) s

/-! ### Issue (R260, R264, R284) -/

/-- The matrix unit of a tile. -/
def State.unit (s : State) (t : Nat) : Matrix := (s.tile t).mx

/-- The unit of a tile changed by `f`. -/
def State.updUnit (t : Nat) (f : Matrix → Matrix) (s : State) : State := s.updTile t (fun tl => { tl with mx := f tl.mx })

/-- Commands that a unit holds or that are on their way to it. -/
def State.unitLoad (s : State) (t : Nat) : Nat :=
  (s.unit t).queue.length + (s.ctx.flights.filter (fun f => match f.2 with
    | .matrix _ u => u == t
    | _ => false)).length

/-- What the issuing element does with a capability (R264, R284): it answers a refusal itself; the first command to a unit whose image
was lost raises 0x14; else `k` sends. -/
def capGate (d : RegNo) (cap : Word) (rights : Nat) (k : State → Host.Outcome State Fault Refusal) (s : State) :
    Host.Outcome State Fault Refusal :=
  match s.capRefusal cap rights true with
  | some r =>
    let i := s.newId
    .next (((i.2.mark (.g d) i.1).token (i.2.issuer i.1) (capError r)).advance)
  | none =>
    let t := s.capTile cap
    if (s.unit t).lost then (s.updUnit t (fun m => { m with lost := false })).trap 0x14 cap
    else k s

/-- A command sent to its unit (R260): a full queue stalls the set. `own` marks an `mdrn` for which `done` waits; `draws` is the number
of draws it reserves (R279). In the supervisor trap handler `sigctl` counts as disabled (R347). -/
def mxSend (op : MxOp) (d : RegNo) (cap block first : Word) (scale : FReg) (sreg : Option RegNo) (own : Bool) (draws : Nat)
    (s : State) :
    Host.Outcome State Fault Refusal :=
  let t := s.capTile cap
  if Config.matrixPlaces ≤ s.unitLoad t then .next s
  else
    let i := s.newId
    let s := i.2
    let le := s.drawLe
    let seed := (s.el le).srseed
    let rm := s.th.rm
    let s := if rm = 5 then s.updEl le (fun e => { e with srseed := drawsAfter seed draws }) else s
    let cmd : MxCmd := ⟨{ s.issuer i.1 with ownDst := own }, op, cap, block, first, scale, rm, if s.th.inSup then 0 else s.th.sigctl, seed, 0, [], 0,
      sreg, none⟩
    .next (((s.launchFlight (.matrix cmd t)).mark (.g d) i.1).advance)

/-- A run issued (R278). -/
def mxRun (op : MxOp) (d a b c : RegNo) (s : State) : Host.Outcome State Fault Refusal :=
  withIssue [(.g, .reg a), (.g, .reg b), (.f, .reg c)] [(.g, .reg d)] (fun s =>
    capGate d (s.rg a) (MxOp.right op) (fun s => mxSend op d (s.rg a) (s.rg b) 0 (s.rf c) (some c) false 0 s) s) s

/-- `MLD` (R276). -/
def execMld (d a b c : RegNo) (s : State) : Host.Outcome State Fault Refusal :=
  withIssue [(.g, .reg a), (.g, .reg b), (.g, .reg c)] [(.g, .reg d)] (fun s =>
    capGate d (s.rg a) (MxOp.right .mld) (fun s => mxSend .mld d (s.rg a) (s.rg b) (s.rg c) ⟨0, 24⟩ none false 0 s) s) s

/-- `MSWP` (R277). -/
def execMswp (d a : RegNo) (s : State) : Host.Outcome State Fault Refusal :=
  withIssue [(.g, .reg a)] [(.g, .reg d)] (fun s =>
    capGate d (s.rg a) (MxOp.right .mswp) (fun s => mxSend .mswp d (s.rg a) 0 0 ⟨0, 24⟩ none false 0 s) s) s

/-- `MRFP4` (R278). -/
def execMrfp4 (d a b c : RegNo) (s : State) : Host.Outcome State Fault Refusal := mxRun .mrfp4 d a b c s
/-- `MRI8` (R278). -/
def execMri8 (d a b c : RegNo) (s : State) : Host.Outcome State Fault Refusal := mxRun .mri8 d a b c s
/-- `MRI48` (R278). -/
def execMri48 (d a b c : RegNo) (s : State) : Host.Outcome State Fault Refusal := mxRun .mri48 d a b c s
/-- `MRBF` (R278). -/
def execMrbf (d a b c : RegNo) (s : State) : Host.Outcome State Fault Refusal := mxRun .mrbf d a b c s
/-- `MRHF` (R278). -/
def execMrhf (d a b c : RegNo) (s : State) : Host.Outcome State Fault Refusal := mxRun .mrhf d a b c s
/-- `MRE43` (R278). -/
def execMre43 (d a b c : RegNo) (s : State) : Host.Outcome State Fault Refusal := mxRun .mre43 d a b c s
/-- `MRE52` (R278). -/
def execMre52 (d a b c : RegNo) (s : State) : Host.Outcome State Fault Refusal := mxRun .mre52 d a b c s
/-- `MRE45` (R278). -/
def execMre45 (d a b c : RegNo) (s : State) : Host.Outcome State Fault Refusal := mxRun .mre45 d a b c s

/-- The record of the block at `ea` as the issuing element reads it at issue (R267, R279): none where the block is misaligned, faults or is malformed, its
control word included. -/
def State.peekBlock (who : Issuer) (ea : Word) (s : State) : Option Shape × State :=
  if ea.toNat % 64 ≠ 0 then (none, s)
  else match s.readStruct who ea.toNat 8 9 with
    | (.error _, s) => (none, s)
    | (.ok bs, s) => (if (shapeOf (bs.take 64)).error.isNone && decide (leNat (bs.drop 64) < 2 ^ 17) then some (shapeOf (bs.take 64)) else none, s)

/-- An earlier operation of the issuing set on the record block at `ea` is outstanding (R303). -/
def State.blockWaits (s : State) (ea : Word) : Bool := ea.toNat % 64 == 0 && s.structBehind ea.toNat 72

/-- `MDRN` (R279): the element reads the record block to count draws and decide the wait of R375; a failed read reserves nothing. -/
def execMdrn (d a b c : RegNo) (s : State) : Host.Outcome State Fault Refusal :=
  withIssue [(.g, .reg a), (.g, .reg b), (.f, .reg c)] [(.g, .reg d)] (fun s =>
    capGate d (s.rg a) (MxOp.right .mdrn) (fun s =>
      if s.blockWaits (s.rg b) then .next s
      else
        let r := s.peekBlock (s.issuer 0) (s.rg b)
        mxSend .mdrn d (s.rg a) (s.rg b) 0 (s.rf c) (some c) ((r.1.map Shape.inOwn).getD false)
          ((r.1.map (fun h => h.dims.getD 0 0 * h.dims.getD 1 0)).getD 0) r.2) s) s

/-- `MZRO` (R281). -/
def execMzro (d a : RegNo) (s : State) : Host.Outcome State Fault Refusal :=
  withIssue [(.g, .reg a)] [(.g, .reg d)] (fun s =>
    capGate d (s.rg a) (MxOp.right .mzro) (fun s => mxSend .mzro d (s.rg a) 0 0 ⟨0, 24⟩ none false 0 s) s) s

/-- `MQRY` (R282): any one right lets it pass. -/
def execMqry (d a : RegNo) (s : State) : Host.Outcome State Fault Refusal :=
  withIssue [(.g, .reg a)] [(.g, .reg d)] (fun s =>
    capGate d (s.rg a) 0xF000 (fun s =>
      let i := s.newId
      .next (((i.2.launchFlight (.query (i.2.issuer i.1) (s.rg a) (s.capTile (s.rg a)))).mark (.g d) i.1).advance)) s) s

/-! ### Arrival and status -/

/-- The unit and the set of a matrix command on its way. -/
def Flight.stream : Flight → Option (Nat × Nat × Nat)
  | .matrix c t => some (t, c.who.le, c.who.set)
  | .query who _ t => some (t, who.le, who.set)
  | _ => none

/-- An earlier command of the same set to the same unit is still on its way: they arrive in issue order (R261). -/
def State.streamBefore (s : State) (k : Nat) (f : Flight) : Bool :=
  (s.ctx.flights.takeWhile (fun g => g.1 != k)).any (fun g => g.2.stream.isSome && g.2.stream == f.stream)

/-- The command with the scale that the unit has read by its acceptance: where its register was written after the issue, the old value or
the new one, which is free (R260; log entry 32). -/
def State.scaleOf (c : MxCmd) (s : State) : MxCmd × State :=
  match c.sreg with
  | none => (c, s)
  | some n =>
    let now := rget (s.thOf c.who.le c.who.set).f n
    if now = c.scale then (c, s)
    else
      let r := s.freshFree
      (if Config.freeBit r.1 then { c with scale := now } else c, r.2)

/-- `MATRIX_COMMAND_ACCEPT` (R261): the unit makes checks 1 to 4 again (R264) and takes the command into its queue. -/
def execMatrixCommandAccept (k : Nat) (s : State) : Host.Outcome State Fault Refusal :=
  match s.flight k with
  | some (.matrix c t) =>
    if (s.ctx.stopped && !s.fenced [c.who.id]) || s.streamBefore k (.matrix c t) then .next s
    else
      match s.capRefusal c.cap (MxOp.right c.op) false with
      | some r => .next ((s.dropFlight k).token c.who (capError r))
      | none =>
        if Config.matrixPlaces ≤ (s.unit t).queue.length then .next s
        else
          let r := s.scaleOf c
          .next ((r.2.dropFlight k).updUnit t (fun m => { m with queue := m.queue ++ [r.1] }))
  | _ => .next s

/-- A command has completed: the status shows the unit as it stands (R282). -/
def Matrix.noted (m : Matrix) : Matrix := { m with shown := ⟨m.kcnt, m.active.kind, m.shadow.kind, m.akind, m.gsv, m.sticky⟩ }

/-- The status word (R282): the commands queued and the cadence now, the rest by the commands completed. -/
def Matrix.status (t : Nat) (m : Matrix) : Word :=
  let x := m.shown
  BitVec.ofNat 64 (m.queue.length * 2 ^ 32 + m.cadence % 16 * 2 ^ 28 + min x.kcnt 255 * 2 ^ 20 + x.apk * 2 ^ 17 + x.spk * 2 ^ 14 +
    x.akind * 2 ^ 12 + (wideTile t).toNat * 512 + x.gsv.toNat * 256 + x.flags.toNat)

/-- `MQRY_ANSWER` (R282): answered on arrival at the unit, ahead of the queue; it arrives in issue order (R261). -/
def execMqryAnswer (k : Nat) (s : State) : Host.Outcome State Fault Refusal :=
  match s.flight k with
  | some (.query who cap t) =>
    if (s.ctx.stopped && !s.fenced [who.id]) || s.streamBefore k (.query who cap t) then .next s
    else
      let s := s.dropFlight k
      .next (s.token who (match s.capRefusal cap 0xF000 false with
        | some r => capError r
        | none => (s.unit t).status t))
  | _ => .next s

/-! ### Planes and cells -/

/-- Columns of a unit (R258). -/
def unitCols (t : Nat) : Nat := if wideTile t then 32 else 64

/-- Weight (row k, column n) of a plane. -/
def Plane.weight (p : Plane) (k n : Nat) : Nat := (Map.get 0 p.weights (64 * k + n)).toNat

/-- Scale of block b of column n; 127 where none is listed (R259). -/
def Plane.scale (p : Plane) (b n : Nat) : Nat := (Map.get 127 p.scales (2 * n + b)).toNat

/-- The plane with a weight; zero weights are not listed. -/
def Plane.setWeight (k n : Nat) (x : Nat) (p : Plane) : Plane :=
  { p with weights := if x = 0 then Map.drop (64 * k + n) p.weights else Map.set (64 * k + n) (BitVec.ofNat 16 x) p.weights }

/-- The plane with a scale. -/
def Plane.setScale (b n : Nat) (x : Nat) (p : Plane) : Plane :=
  { p with scales := if x = 127 then Map.drop (2 * n + b) p.scales else Map.set (2 * n + b) (BitVec.ofNat 8 x) p.scales }

/-- Cell (i, n) of a unit. -/
def Matrix.cell (m : Matrix) (i n : Nat) : AccCell := Map.get AccCell.start m.cells (64 * i + n)

/-- The unit with a cell. -/
def Matrix.setCell (i n : Nat) (c : AccCell) (m : Matrix) : Matrix := { m with cells := Map.set (64 * i + n) c m.cells }

/-- The flags of the unit: NV, OF, UF, NX and SAT (R259). -/
def mxFlags (fl : FpFlags) : BitVec 5 :=
  (if fl.getLsbD 4 then 16 else 0) ||| (if fl.getLsbD 2 then 8 else 0) ||| (if fl.getLsbD 1 then 4 else 0) |||
  (if fl.getLsbD 0 then 2 else 0)

/-- Flag SAT. -/
def mxSat : BitVec 5 := 1

/-- A signed pattern of `w` bits as an integer. -/
def signedOf (w x : Nat) : Int := if 2 ^ (w - 1) ≤ x then (x : Int) - 2 ^ w else x

/-- The i32 value of a cell. -/
def AccCell.int (c : AccCell) : Int := c.bits.toInt

/-- A cell reconstructed (R272): its partial added to its i32 value with saturation, and whether it saturated. -/
def AccCell.rebuild (c : AccCell) : AccCell × Bool :=
  let x := c.int + c.part
  let y := max (-2 ^ 31) (min (2 ^ 31 - 1) x)
  ({ c with bits := BitVec.ofInt 32 y, part := 0 }, x != y)

/-- Every cell reconstructed, and SAT where one saturated (R272). -/
def Matrix.rebuild (m : Matrix) : Matrix :=
  { m with
    cells := m.cells.map (fun c => (c.1, c.2.rebuild.1))
    kcnt := 0
    sticky := if m.cells.any (fun c => c.2.rebuild.2) then m.sticky ||| mxSat else m.sticky }

/-! ### Sums (R270 to R274) -/

/-- A term to be added to a cell: an exactly zero one, a NaN with or without NV, an infinity, or a finite one with its trust floor,
whether every input had its full count, and the least count. -/
inductive MxTerm where
  | zero
  | nan (invalid : Bool)
  | inf (neg : Bool)
  | fin (x : Q) (floorW : Int) (full : Bool) (least : Nat)
  deriving DecidableEq, Repr

/-- The product of two operands as a term (R270, R273, R274). -/
def mxProduct (x y : Opv) : MxTerm :=
  let a := x.v
  let b := y.v
  if a.isNaN || b.isNaN then .nan false
  else if a.isInf || b.isInf then (if a.isZero || b.isZero then .nan true else .inf (a.isNeg != b.isNeg))
  else
    let q := a.q.mul b.q
    if q.num = 0 then .zero
    else .fin q (expOf q.num.natAbs q.den - min x.t y.t + 1) (x.t == x.f.p && y.t == y.f.p) (min x.t y.t)

/-- A cell with a NaN. -/
def AccCell.nan (c : AccCell) : AccCell := { c with bits := 0x7FC00000, tc := 0 }

/-- A term added to an f32 cell with one rounding to nearest even (R270, R273, R274). -/
def AccCell.add (term : MxTerm) (c : AccCell) : AccCell × FpFlags :=
  let x : Opv := ⟨fmtF32, c.bits.toNat, c.tc⟩
  match term, x.v with
  | .zero, _ => (c, 0)
  | .nan inv, _ => (c.nan, if inv then flNV else 0)
  | _, .nan => (c.nan, 0)
  | .inf s, .inf r => if s = r then ({ c with tc := 0 }, 0) else (c.nan, flNV)
  | .inf s, _ => ({ c with bits := BitVec.ofNat 32 (fmtF32.signed s fmtF32.infBits), tc := 0 }, 0)
  | .fin _ _ _ _, .inf _ => ({ c with tc := 0 }, 0)
  | .fin q fl full least, v =>
    let r := fmtF32.roundQ 0 0 false (v.q.add q)
    let t := fmtF32.count r (fmtF32.addCount r (max x.floorW fl)) v.isZero (full && c.tc == 24) (min least c.tc)
    ({ c with bits := BitVec.ofNat 32 r.bits, tc := t }, r.fl)

/-- A wide unit's cell flushed where it is subnormal (R270, R62). -/
def AccCell.flush (r : AccCell × FpFlags) : AccCell × FpFlags :=
  let mag := r.1.bits.toNat % 2 ^ 31
  if 0 < mag && mag < 2 ^ 23 then
    ({ r.1 with bits := r.1.bits &&& 0x80000000, tc := 0 }, r.2 ||| flUF ||| flNX)
  else r

/-- Products of a row with a column, k ascending, added one by one (R270). -/
def mxWide (af wf : Fmt) (p : Plane) (n : Nat) (row : List Elem) (c : AccCell) : AccCell × FpFlags :=
  (List.range row.length).foldl (fun (acc : AccCell × FpFlags) k =>
    let e := row.getD k ⟨0, 0, none⟩
    let term := mxProduct ⟨af, e.bits, min e.t af.p⟩ ⟨wf, p.weight k n, wf.p⟩
    if term = .zero then acc
    else
      let r := AccCell.flush (acc.1.add term)
      (r.1, acc.2 ||| r.2)) (c, 0)

/-- The term of block b (R271, R274): the exact sum of its products, scaled. The operands of R76 are the inputs of its nonzero products and the cell
(log entry 76). -/
def mxBlock (p : Plane) (n b : Nat) (row : List Elem) (sa : Nat) : MxTerm :=
  let sw := p.scale b n
  if sa = 255 || sw = 255 then .nan true
  else
    let ks := (List.range (min 32 (row.length - 32 * b))).map (32 * b + ·)
    let prods := ks.filterMap (fun k =>
      let e := row.getD k ⟨0, 0, none⟩
      match mxProduct ⟨fmtE2m1, e.bits, min e.t 2⟩ ⟨fmtE2m1, p.weight k n, 2⟩ with
      | .fin q fl full least => some (q, fl, full, least)
      | _ => none)
    let sum := prods.foldl (fun x r => Q.add x r.1) ⟨0, 1⟩
    let sc : Int := (sa : Int) + sw - 254
    match prods with
    | [] => .zero
    | r :: rs =>
      if sum.num = 0 then .zero
      else
        .fin (Q.mul sum (Q.pow2 1 sc)) (rs.foldl (fun x y => max x y.2.1) r.2.1 + sc) (prods.all (fun y => y.2.2.1))
          (rs.foldl (fun x y => min x y.2.2.2) r.2.2.2)

/-- The blocks of a row with a column, ascending (R271). -/
def mxFp4 (p : Plane) (n : Nat) (row : List Elem) (sas : List Nat) (c : AccCell) : AccCell × FpFlags :=
  (List.range (ceilDiv row.length 32)).foldl (fun (acc : AccCell × FpFlags) b =>
    let r := acc.1.add (mxBlock p n b row (sas.getD b 127))
    (r.1, acc.2 ||| r.2)) (c, 0)

/-- An integer activation within a run's range, and whether it saturated (R272). -/
def mxAct (h : Shape) (wide : Bool) (e : Elem) : Int × Bool :=
  let x := elemInt h e
  if h.type = 0x10 then
    let lo : Int := if wide then -128 else -8
    let hi : Int := if wide then 127 else 7
    (max lo (min hi x), decide (x < lo) || decide (hi < x))
  else (x, false)

/-! ### Records (R266 to R269) -/

/-- The type code of a plane kind, and its format (R259). -/
def planeKind : Nat → Nat
  | 0x06 => 1
  | 0x0B => 2
  | 0x03 => 3
  | 0x02 => 4
  | 0x04 => 5
  | 0x05 => 6
  | _ => 0

/-- A window or port source, or a port destination, needs the unit in the issuer's own tile (R269). A source in the window buffers without flag bit 2 is read
in the issuer's tile wherever the unit lies (log entry 77). -/
def State.farRecord (s : State) (who : Issuer) (t : Nat) (h : Shape) : Bool := (h.isPort || h.window) && s.tileOf who.le != t

/-- A record at a 64-aligned address with the scale record that flag bit 3 names: 0x04, 0x22 or a memory fault (R102, R268). -/
def State.mxRecord (who : Issuer) (ea : Nat) (s : State) : Except Nat (Shape × Option ScaleRec) × State :=
  if ea % 64 ≠ 0 then (.error 0x04, s)
  else match s.readShapes who ea 1 with
    | (.error e, s) => (.error e, s)
    | (.ok hs, s) =>
      let h := hs.headD (shapeOf [])
      match h.error with
      | some e => (.error e, s)
      | none =>
        if h.scaled then
          match s.scaleRec who h with
          | (.error e, s) => (.error e, s)
          | (.ok r, s) => (.ok (h, some r), s)
        else (.ok (h, none), s)

/-- A record block: the record, its scales and the control word (R267), read and checked in that order: the codes of the scale record come before
that of the control word and before 0x23 (R268 does not say; log entry 75). -/
def State.mxBlockAt (who : Issuer) (ea : Nat) (s : State) : Except Nat (Shape × Option ScaleRec × Nat) × State :=
  match s.mxRecord who ea with
  | (.error e, s) => (.error e, s)
  | (.ok (h, r), s) =>
    match s.engineLoad who (ea + 64) 8 with
    | (.error e, s) => (.error e, s)
    | (.ok bs, s) => if 2 ^ 17 ≤ leNat bs then (.error 0x22, s) else (.ok (h, r, leNat bs), s)

/-- What reading a row gives. -/
inductive MxRow where
  | ok (es : List Elem) (s : State)
  | blocked (got : List Word) (s : State)
  | err (code : Nat) (s : State)

/-- The words of a row popped from a port, after those already popped (R269). -/
def State.mxPop (who : Issuer) (base need : Nat) : Nat → List Word → State → Option (List Word) × List Word × State
  | 0, got, s => (some got, got, s)
  | n + 1, got, s =>
    if need ≤ got.length then (some got, got, s)
    else match s.enginePop who base with
      | (none, s) => (none, got, s)
      | (some w, s) => State.mxPop who base need n (got ++ [w]) s

/-- Row `m` of a record: dim0 elements, from memory or packed in words of a port, each row on a fresh word (R269). -/
def State.mxReadRow (who : Issuer) (h : Shape) (m : Nat) (got : List Word) (s : State) : MxRow :=
  let k := h.dims.getD 0 0
  if h.isPort then
    let b := typeBits h.type
    let need := ceilDiv (k * b) 64
    match s.mxPop who h.base need need got with
    | (none, got, s) => .blocked got s
    | (some ws, _, s) =>
      let all := (List.range ws.length).foldl (fun x i => x + (ws.getD i 0).toNat * 2 ^ (64 * i)) 0
      .ok ((List.range k).map (fun i => ⟨all / 2 ^ (b * i) % 2 ^ b, typeFull h.type, none⟩)) s
  else
    let r := (List.range k).foldl (fun (acc : Except Nat (List Elem) × State) i =>
      match acc with
      | (.error e, s) => (.error e, s)
      | (.ok es, s) =>
        match s.readElem who h none [i, m, 0, 0] with
        | (.error e, s) => (.error e, s)
        | (.ok e, s) => (.ok (es ++ [e]), s)) (.ok [], s)
    match r with
    | (.error e, s) => .err e s
    | (.ok es, s) => .ok es s

/-- How a command stands after the unit has worked on it: blocked at a port, or ended with a token's value. -/
inductive MxEnd where
  | blocked (c : MxCmd)
  | done (value : Word)

/-- The rows of a record from the command's progress on, each given to `body`; a fault stops with its code. -/
def State.mxRows (h : Shape) (body : MxCmd → Nat → List Elem → State → Except Nat (MxCmd × State)) (value : MxCmd → Word) :
    Nat → MxCmd → State → MxEnd × State
  | 0, c, s => (.done (value c), s)
  | n + 1, c, s =>
    match s.mxReadRow c.who h c.doneRows c.got with
    | .err e s => (.done (tokErr e), s)
    | .blocked got s => (.blocked { c with got := got }, s)
    | .ok es s =>
      match body c c.doneRows es s with
      | .error e => (.done (tokErr e), s)
      | .ok r => State.mxRows h body value n { r.1 with doneRows := c.doneRows + 1, got := [] } r.2

/-! ### `mld` (R276) -/

/-- The checks of `mld` beyond its record: an error code or none (R262). A port that the element does not have makes the record inconsistent with the
operation (log entry 52). -/
def State.mldError (s : State) (c : MxCmd) (t : Nat) (h : Shape) (r : Option ScaleRec) : Option Nat :=
  let kind := planeKind h.type
  let g := fun (j : Nat) => h.dims.getD j 0
  let f := c.first.toNat
  if kind = 0 || 63 < f || 64 < f + g 1 || unitCols t < g 0 || g 2 ≠ 1 || g 3 ≠ 1 || h.plane || h.badScaling ||
      s.farRecord c.who t h || (h.isPort && (!srcPort h.base || s.noLink c.who.le h.base)) then some 0x23
  else if (decide (2 < kind)) != wideTile t then some 0x127
  else match r with
    | some r => if r.sper < (f + g 1 - 1) / 32 - f / 32 + 1 || r.slines < g 0 then some 0x21 else none
    | none => none

/-- The scales of the blocks that `mld` loads, block by block and column by column; those written before a fault stand. -/
def State.mldScales (c : MxCmd) (t : Nat) (h : Shape) (r : Option ScaleRec) (b0 b1 : Nat) (s : State) : Option Nat × State :=
  (List.range ((b1 - b0 + 1) * unitCols t)).foldl (fun (acc : Option Nat × State) i =>
    match acc with
    | (some e, s) => (some e, s)
    | (none, s) =>
      let b := b0 + i / unitCols t
      let n := i % unitCols t
      let put := fun (x : Nat) (s : State) => s.updUnit t (fun m => { m with shadow := m.shadow.setScale b n x })
      match r with
      | some r =>
        if n < h.dims.getD 0 0 then
          match s.scaleByte c.who r n (b - b0) with
          | (.error e, s) => (some e, s)
          | (.ok x, s) => (none, put x s)
        else (none, put 127 s)
      | none => (none, put 127 s)) (none, s)

/-- A row of weights into the shadow plane, zeros past the record's columns. -/
def State.mldRow (t f k : Nat) (es : List Elem) (s : State) : State :=
  s.updUnit t (fun m => { m with
    shadow := (List.range (unitCols t)).foldl (fun p n => p.setWeight (f + k) n (es.getD n ⟨0, 0, none⟩).bits) m.shadow })

/-- The rows of `mld` from its progress on. -/
def State.mldRows (c : MxCmd) (t : Nat) (h : Shape) (s : State) : MxEnd × State :=
  let rows := h.dims.getD 1 0
  s.mxRows h (fun c k es s => .ok (c, s.mldRow t c.first.toNat k es)) (fun _ => BitVec.ofNat 64 rows) (rows - c.doneRows) c

/-- `mld` performed; an empty record loads nothing and counts 0 (R101). -/
def State.mldRun (c : MxCmd) (t : Nat) (s : State) : MxEnd × State :=
  match c.job with
  | some j => s.mldRows c t j.shape
  | none =>
  match s.mxRecord c.who c.block.toNat with
  | (.error e, s) => (.done (tokErr e), s)
  | (.ok (h, r), s) =>
    match s.mldError c t h r with
    | some e => (.done (tokErr e), s)
    | none =>
      let f := c.first.toNat
      let rows := h.dims.getD 1 0
      if rows = 0 || h.dims.getD 0 0 = 0 then (.done 0, s)
      else
        let kind := planeKind h.type
        let s := if (s.unit t).shadow.kind = kind then s else s.updUnit t (fun m => { m with shadow := { Plane.empty with kind := kind } })
        match s.mldScales c t h r (f / 32) ((f + rows - 1) / 32) with
        | (some e, s) => (.done (tokErr e), s)
        | (none, s) => s.mldRows { c with job := some ⟨h, r, 0⟩ } t h

/-! ### Runs (R278) -/

/-- The row of R278's table: whether the unit is wide, A's types, the active-plane kind, `akind`, and the formats of a wide run. -/
def MxOp.table : MxOp → Bool × List Nat × Nat × Nat × Fmt × Fmt
  | .mrfp4 => (false, [0x06], 1, 1, fmtE2m1, fmtE2m1)
  | .mri8 => (false, [0x0B, 0x10], 2, 2, fmtF32, fmtF32)
  | .mri48 => (false, [0x0C, 0x10], 2, 2, fmtF32, fmtF32)
  | .mrbf => (true, [0x03], 3, 1, fmtBf16, fmtBf16)
  | .mrhf => (true, [0x02], 4, 1, fmtF16, fmtF16)
  | .mre43 => (true, [0x04], 5, 1, fmtE4m3, fmtE4m3)
  | .mre52 => (true, [0x05], 6, 1, fmtE5m2, fmtE5m2)
  | .mre45 => (true, [0x04], 6, 1, fmtE4m3, fmtE5m2)
  | .mld | .mswp | .mdrn | .mzro => (false, [], 7, 3, fmtF32, fmtF32)

/-- The scale of a run or drain seen as f32 (R197). -/
def MxCmd.scaleOpv (c : MxCmd) : Opv := viewF fmtF32 c.scale

/-- The checks of a run beyond its block: an error code or none. A source at port 33, which no program can read, is 0x23 (R269 gives no code; log
entry 75). -/
def State.runError (s : State) (c : MxCmd) (t : Nat) (h : Shape) (r : Option ScaleRec) (cw : Nat) : Option Nat :=
  let tb := MxOp.table c.op
  let g := fun (j : Nat) => h.dims.getD j 0
  let m := s.unit t
  if !tb.2.1.contains h.type || g 2 ≠ 1 || g 3 ≠ 1 || 64 < g 0 || bitsOf cw 15 8 ≠ 0 || bitsOf cw 16 16 ≠ 0 ||
      256 < bitsOf cw 7 0 + g 1 || h.badScaling || s.farRecord c.who t h ||
      (h.isPort && (!srcPort h.base || s.noLink c.who.le h.base)) then some 0x23
  else if tb.1 != wideTile t then some 0x127
  else if m.active.kind ≠ tb.2.2.1 then some 0x227
  else if m.akind ≠ 0 && m.akind ≠ tb.2.2.2.1 then some 0x327
  else if m.gsv && c.scaleOpv.bits ≠ m.gscale.bits.toNat then some 0x28
  else match r with
    | some r => if r.sper < ceilDiv (g 0) 32 || r.slines < g 1 then some 0x21 else none
    | none => none

/-- One row of a run added to the accumulators: the cells, and the flags raised. -/
def Matrix.runRow (op : MxOp) (h : Shape) (cols i : Nat) (row : List Elem) (sas : List Nat) (m : Matrix) : Matrix × BitVec 5 :=
  let tb := MxOp.table op
  let acts := row.map (mxAct h (op == .mri8))
  let sat : BitVec 5 := if tb.2.2.2.1 = 2 && acts.any (·.2) then mxSat else 0
  (List.range cols).foldl (fun (acc : Matrix × BitVec 5) n =>
    let c := acc.1.cell i n
    if tb.2.2.2.1 = 2 then
      let sum := (List.range acts.length).foldl (fun (x : Int) k => x + (acts.getD k (0, false)).1 * signedOf 8 (m.active.weight k n)) 0
      (acc.1.setCell i n { c with part := c.part + sum }, acc.2)
    else
      let r := if op = .mrfp4 then mxFp4 m.active n row sas c else mxWide tb.2.2.2.2.1 tb.2.2.2.2.2 m.active n row c
      (acc.1.setCell i n r.1, acc.2 ||| mxFlags r.2)) (m, sat)

/-- The scales of activation row `m` (R271). -/
def State.rowScales (who : Issuer) (h : Shape) (r : Option ScaleRec) (m : Nat) (s : State) : Except Nat (List Nat) × State :=
  match r with
  | none => (.ok [], s)
  | some r => (List.range (ceilDiv (h.dims.getD 0 0) 32)).foldl (fun (acc : Except Nat (List Nat) × State) b =>
      match acc with
      | (.error e, s) => (.error e, s)
      | (.ok xs, s) =>
        match s.scaleByte who r m b with
        | (.error e, s) => (.error e, s)
        | (.ok x, s) => (.ok (xs ++ [x]), s)) (.ok [], s)

/-- The token of a run: its flags NV, 0, OF or SAT, UF and NX, and its rows (R278). -/
def runToken (fl : BitVec 5) (rows : Nat) : Word :=
  BitVec.ofNat 64 (((fl.getLsbD 4).toNat * 16 + (fl.getLsbD 3 || fl.getLsbD 0).toNat * 4 + (fl.getLsbD 2).toNat * 2 +
    (fl.getLsbD 1).toNat) * 2 ^ 58 + rows)

/-- The rows of a run from its progress on. The K-steps of an integer run count once its first row is added (log entry 31). -/
def State.runRows (c : MxCmd) (t : Nat) (j : MxJob) (s : State) : MxEnd × State :=
  let h := j.shape
  let rows := h.dims.getD 1 0
  let kind := (MxOp.table c.op).2.2.2.1
  s.mxRows h (fun c m es s =>
    match s.rowScales c.who h j.scales m with
    | (.error e, _) => .error e
    | (.ok sas, s) =>
      let x := (s.unit t).runRow c.op h (unitCols t) (bitsOf j.cw 7 0 + m) es sas
      .ok ({ c with flags := c.flags ||| x.2 },
        s.updUnit t (fun _ => { x.1 with
          sticky := x.1.sticky ||| x.2
          kcnt := if kind = 2 && m = 0 then x.1.kcnt + h.dims.getD 0 0 else x.1.kcnt })))
    (fun c => runToken c.flags rows) (rows - c.doneRows) c

/-- A run performed: its checks and first changes once, then its rows. -/
def State.runRun (c : MxCmd) (t : Nat) (s : State) : MxEnd × State :=
  match c.job with
  | some j => s.runRows c t j
  | none =>
  match s.mxBlockAt c.who c.block.toNat with
  | (.error e, s) => (.done (tokErr e), s)
  | (.ok (h, r, cw), s) =>
    match s.runError c t h r cw with
    | some e => (.done (tokErr e), s)
    | none =>
      let k := h.dims.getD 0 0
      let rows := h.dims.getD 1 0
      if k = 0 || rows = 0 then (.done 0, s)
      else
        let kind := (MxOp.table c.op).2.2.2.1
        let s := s.updUnit t (fun m => { m with
          akind := kind
          gscale := if m.gsv then m.gscale else ⟨BitVec.ofNat 64 c.scaleOpv.bits, c.scaleOpv.t⟩
          gsv := true })
        let tooMany : Bool := kind == 2 && decide (256 < (s.unit t).kcnt + k)
        let sat0 : BitVec 5 := if tooMany && (s.unit t).cells.any (fun x => x.2.rebuild.2) then mxSat else 0
        let s := if tooMany then s.updUnit t Matrix.rebuild else s
        s.runRows { c with flags := c.flags ||| sat0, job := some ⟨h, r, cw⟩ } t ⟨h, r, cw⟩

/-! ### `mdrn` (R279, R280) -/

/-- The exact product of three values, and whether it is invalid (R273). -/
def fpProduct3 (a b c : Fp) : Fp × Bool :=
  if a.isNaN || b.isNaN || c.isNaN then (.nan, false)
  else if a.isInf || b.isInf || c.isInf then
    if a.isZero || b.isZero || c.isZero then (.nan, true) else (.inf ((a.isNeg != b.isNeg) != c.isNeg), false)
  else
    let q := (a.q.mul b.q).mul c.q
    (.num ((a.isNeg != b.isNeg) != c.isNeg) q.num.natAbs q.den, false)

/-- The value of a cell as D takes it: bits, count and flags. The count is that of R279, min(t_x, t_g, t_o) with scales seen as f32, and not the
row `residue drain` of R75 (log entry 75). -/
def drainValue (dtype rm draw : Nat) (akind : Nat) (cell : AccCell) (g o : Opv) : Nat × Nat × FpFlags :=
  let x : Opv := ⟨fmtF32, cell.bits.toNat, cell.tc⟩
  let i := cell.int
  let xv : Fp := if akind = 2 then .num (decide (i < 0)) i.natAbs 1 else x.v
  let p := fpProduct3 xv g.v o.v
  let nv : FpFlags := if p.2 then flNV else 0
  match typeFmt dtype with
  | some f =>
    let r : FpRes := match p.1 with
      | .nan => f.nanRes 0
      | .inf s => f.infRes s 0
      | .num s n d => if n = 0 then f.zeroRes s else f.round rm draw s (.frac n d)
    let tx := if akind = 2 then f.p else x.t
    let least := min tx (min g.t o.t)
    let full := (akind == 2 || x.t == 24) && g.t == 24 && o.t == 24
    (r.bits, f.count r least (xv.isZero || g.v.isZero || o.v.isZero) full least, r.fl ||| nv)
  | none =>
    let bd := typeBounds dtype
    let r := fpIntOf rm draw bd.1 bd.2 p.1
    (typePack dtype r.1, 0, r.2 ||| nv)

/-- The checks of `mdrn` beyond its block: an error code or none. -/
def State.drainError (s : State) (c : MxCmd) (t : Nat) (h : Shape) (cw : Nat) : Option Nat :=
  let g := fun (j : Nat) => h.dims.getD j 0
  if h.type = 7 || h.type = 0x10 || g 2 ≠ 1 || g 3 ≠ 1 || unitCols t < g 0 + bitsOf cw 15 8 || 256 < g 1 + bitsOf cw 7 0 || h.window ||
      h.scaled || s.farRecord c.who t h || (h.isPort && (!dstPort h.base || s.noLink c.who.le h.base)) then some 0x23
  else none

/-- The token of a drain (R279). -/
def drainToken (fl : FpFlags) (n : Nat) : Word := BitVec.ofNat 64 (fl.toNat * 2 ^ 58 + n)

/-- The values of a drain from its progress on, row-major. `chk` is the threshold of R280. A port takes each value in a word of its own, in the low bits
below zeros (log entry 76). -/
def State.drainVals (t : Nat) (h : Shape) (cw : Nat) (g : Opv) (chk : Option Nat) : Nat → MxCmd → State → MxEnd × State
  | 0, c, s =>
    let d0 := h.dims.getD 0 0
    let n := d0 * h.dims.getD 1 0
    let s := if bitsOf cw 16 16 = 1 then
        s.updUnit t (fun m => (List.range n).foldl (fun m k =>
          m.setCell (bitsOf cw 7 0 + k / d0) (bitsOf cw 15 8 + k % d0) AccCell.start) m)
      else s
    (.done (drainToken c.flags n), s)
  | n + 1, c, s =>
    let d0 := h.dims.getD 0 0
    let i := c.doneRows / d0
    let j := c.doneRows % d0
    let dr := if c.rm = 5 then (drawFrom c.seed).2 else 0
    let m := s.unit t
    let v := drainValue h.type c.rm dr m.akind (m.cell (bitsOf cw 7 0 + i) (bitsOf cw 15 8 + j)) g c.scaleOpv
    let next : MxCmd := { c with doneRows := c.doneRows + 1, seed := (drawFrom c.seed).1, flags := c.flags ||| v.2.2 }
    if (match chk with
      | some thr => (typeFmt h.type).isSome && decide (v.2.1 < thr)
      | none => false) then
      (.done (BitVec.ofNat 64 (2 ^ 63 + v.2.1 * 2 ^ 24 + i * 2 ^ 16 + j * 256 + 0x2B)), s)
    else if h.isPort then
      match s.enginePush c.who h.base (BitVec.ofNat 64 v.1) with
      | .blocked s => (.blocked c, s)
      | .error e => (.done (tokErr e), s)
      | .done s => State.drainVals t h cw g chk n next s
    else
      match s.writeElem c.who h [j, i, 0, 0] v.1 v.2.1 with
      | .error e => (.done (tokErr e), s)
      | .ok s => State.drainVals t h cw g chk n next s

/-- The values of a drain from its progress on, checked by R280 where the issuer's `sigctl` asks for it. -/
def State.drainFrom (c : MxCmd) (t : Nat) (h : Shape) (cw : Nat) (s : State) : MxEnd × State :=
  let m := s.unit t
  let g : Opv := if m.gsv then viewF fmtF32 m.gscale else ⟨fmtF32, 0x3F800000, 24⟩
  let chk : Option Nat := if c.sigctl.getLsbD 8 && c.sigctl.getLsbD 10 then some (c.sigctl.toNat % 64) else none
  s.drainVals t h cw g chk (h.dims.getD 0 0 * h.dims.getD 1 0 - c.doneRows) c

/-- `mdrn` performed. -/
def State.drainRun (c : MxCmd) (t : Nat) (s : State) : MxEnd × State :=
  match c.job with
  | some j => s.drainFrom c t j.shape j.cw
  | none =>
  match s.mxBlockAt c.who c.block.toNat with
  | (.error e, s) => (.done (tokErr e), s)
  | (.ok (h, r, cw), s) =>
    match s.drainError c t h cw with
    | some e => (.done (tokErr e), s)
    | none =>
      let s := if (s.unit t).akind = 2 then s.updUnit t Matrix.rebuild else s
      s.drainFrom { c with job := some ⟨h, r, cw⟩ } t h cw

/-! ### Completion -/

/-- The accumulators and status after `mzro` (R281). -/
def Matrix.zeroed (m : Matrix) : Matrix :=
  { m with cells := [], akind := 0, gsv := false, gscale := ⟨0, 24⟩, kcnt := 0, sticky := 0 }

/-- A command worked on: whole, or as far as its port lets it (R261, R269). -/
def State.mxPerform (c : MxCmd) (t : Nat) (s : State) : MxEnd × State :=
  match c.op with
  | .mld => s.mldRun c t
  | .mswp => (.done 0, s.updUnit t (fun m => { m with shadow := m.active, active := m.shadow }))
  | .mdrn => s.drainRun c t
  | .mzro => (.done 0, s.updUnit t Matrix.zeroed)
  | _ => s.runRun c t

/-- `MATRIX_COMMAND_COMPLETE` (R262): the oldest command of the unit, once the earlier memory operations of its set have completed. -/
def execMatrixCommandComplete (tile : Nat) (s : State) : Host.Outcome State Fault Refusal :=
  match (s.unit tile).queue with
  | [] => .next s
  | c :: rest =>
    if !s.storesDone c.who || (s.ctx.stopped && !s.fenced ((s.unit tile).queue.map (·.who.id))) then .next s
    else match s.mxPerform c tile with
      | (.blocked c, s) => .next (s.updUnit tile (fun m => { m with queue := c :: rest }))
      | (.done v, s) => .next ((s.updUnit tile (fun m => { m.noted with queue := rest })).endCommand c.who v)

end Sys2Proof.Machine
end

