-- ==== Sys2Proof/Machine/Render.lean ====
section
/-! DEFINITION. Equipped elements (R233 to R237) and rendering (R289 to R298): migration to slot 0, box and triangle tests, the traversal
stack, edges and coverage, quad merging, derivatives and sampling. -/
namespace Sys2Proof.Machine

/-! ### Migration (R233) -/

/-- An instruction of opcodes 0xA0 to 0xAE (R55 row 5, R233): on slot 0, or in a guest, it runs; elsewhere it migrates its thread first,
unless slot 0 is fused off; a second migration from the same slot waits. -/
def withSlot0 (i : Instr) (k : State → Host.Outcome State Fault Refusal) (s : State) : Host.Outcome State Fault Refusal :=
  if s.physOf s.cur.1 % 4 = 0 || s.th.migrated then k s
  else if Config.slot0Fused (s.quadOf s.cur.1) then s.trap 0x03 (instrVal i)
  else if (s.el s.cur.1).sets.toList.any (·.migrated) then .next s
  else .next (s.updTh (fun t => { t with migrated := true }))

/-! ### Structures in memory -/

/-- A structure of `n` bytes checked at its own alignment (R156), of which the first `m` are read: `k` goes on with those bytes. -/
def withStruct (ea n m al : Nat) (k : List Byte → State → Host.Outcome State Fault Refusal) (s : State) : Host.Outcome State Fault Refusal :=
  if ea % al ≠ 0 then s.memTrap 0x04 ea
  else match s.resolve (s.issuer 0) .special false ea n with
    | (.error c, s) => s.memTrap c ea
    | (.ok _, s) =>
      if s.structBehind ea m then .next s
      else match s.readStruct (s.issuer 0) ea 4 (m / 4) with
        | (.error (c, a), s) => s.memTrap c a
        | (.ok bs, s) => k bs s

/-- The f32 values of a structure, with full counts (R75). -/
def structF32 (bs : List Byte) : List Opv := (leWords 4 (bs.length / 4) bs).map (fun x => ⟨fmtF32, x, 24⟩)

/-- A zero operand. -/
def opv0 : Opv := ⟨fmtF32, 0, 24⟩

/-- Lane `q` of a v register as f32. -/
def laneF (v : VReg) (q : Nat) : Opv := laneOpv .f32 fmtF32 v q

/-- A v register of four f32 lanes. -/
def vF32 (xs : List (Nat × Nat)) : VReg := vregOf .f32 xs

/-- A free number of `n` bytes of what the operands `key` leave open, from byte `k` on (R85; log entry 4). -/
def freeNat (key : List Nat) (k n : Nat) : Nat :=
  (List.range n).foldl (fun x j => x + (Config.renderByte key (k + j)).toNat * 256 ^ j) 0

/-- A free f32 result, number `i` of what the operands `key` leave open (R85; log entry 4), exact or not; a NaN among them is the canonical one
(R61). -/
def freeRes (key : List Nat) (i : Nat) : FpRes :=
  let b := freeNat key (5 * i) 4
  if (fmtF32.val b).isNaN then fmtF32.nanRes 0 else ⟨b, 0, (Config.renderByte key (5 * i + 4)).getLsbD 0, false⟩

/-- A free bit, number `i` of what the operands `key` leave open (R85; log entry 4). -/
def freeChoice (key : List Nat) (i : Nat) : Bool := (Config.renderByte key (5 * i + 4)).getLsbD 1

/-- The patterns of operands, as the key of what they leave open. -/
def opKey (ops : List Opv) : List Nat := ops.map (·.bits)

/-- The count of an exact difference by the add rule, with R76 for a NaN, an infinity and a zero. -/
def diffCount (x y : Opv) : Nat :=
  let q := x.v.q.sub y.v.q
  if [x, y].any (fun o => o.v.isNaN || o.v.isInf) then 0
  else if q.num = 0 then
    if x.v.isZero || y.v.isZero then min x.t y.t else if x.t == 24 && y.t == 24 then 24 else 0
  else
    let e := expOf q.num.natAbs q.den
    let P : Int := if e < fmtF32.emin then e - fmtF32.emin + 24 else 24
    (max 0 (min P (e - max x.floorW y.floorW + 1))).toNat

/-! ### `boxt` (R234) -/

/-- The difference of two values, where infinities obey their arithmetic. -/
def fpDiff (a b : Fp) : Fp :=
  match a, b with
  | .nan, _ => .nan
  | _, .nan => .nan
  | .inf s, .inf u => if s = u then .nan else .inf s
  | .inf s, _ => .inf s
  | _, .inf u => .inf (!u)
  | x, y => let q := x.q.sub y.q; .num (decide (q.num < 0)) q.num.natAbs q.den

/-- The quotient of a value by a nonzero one; a zero takes the sign of R200's division (log entry 69). -/
def fpQuot (a b : Fp) : Fp :=
  match a, b with
  | .nan, _ => .nan
  | _, .nan => .nan
  | .inf _, .inf _ => .nan
  | .inf s, y => .inf (s != y.isNeg)
  | x, .inf u => .num (x.isNeg != u) 0 1
  | x, y => let q := x.q.div y.q; .num (x.isNeg != y.isNeg) q.num.natAbs q.den

/-- A value rounded to f32 under a mode. -/
def boxRound (rm : Nat) (v : Fp) : FpRes :=
  match v with
  | .nan => fmtF32.nanRes 0
  | .inf s => fmtF32.infRes s 0
  | .num s n d => if n = 0 then fmtF32.zeroRes s else fmtF32.round rm 0 s (.frac n d)

/-- A bound of a slab: its value before rounding, its count, and whether it has a zero or only full operands. -/
structure Bound where
  v : Fp
  t : Nat
  zeroOp : Bool
  full : Bool

/-- A bound's result with the count of R234: its own, capped by R76. -/
def Bound.counted (b : Bound) (r : FpRes) : Nat × Nat := (r.bits, fmtF32.count r b.t b.zeroOp b.full b.t)

/-- The quotient (bound − origin) / direction of a slab. -/
def slab (lo o d : Opv) : Bound :=
  let t := diffCount lo o
  ⟨fpQuot (fpDiff lo.v o.v) d.v, min t d.t, (fpDiff lo.v o.v).isZero, t == 24 && d.t == 24⟩

/-- Where a box test stands: the entry distance, the exit distance and whether it misses. -/
structure BoxState where
  near : Nat × Nat
  far : Nat
  miss : Bool

/-- The f32 value of bits. -/
def f32v (bits : Nat) : Fp := fmtF32.val bits

/-- One axis of a box test, the `i`-th of what the operands `key` enter; which bound is near and the distances are free where no rule gives them
(log entry 4). An axis whose rounded quotient only equals the
near value so far leaves that value and its count (R234 does not say whose count stays; log entry 65). -/
def boxAxis (key : List Nat) (i : Nat) (lo hi o d : Opv) (b : BoxState) : BoxState :=
  if d.v.isZero then
    if fpOrd o.v lo.v == some true || fpOrd hi.v o.v == some true then { b with miss := true } else b
  else
    let x := slab lo o d
    let y := slab hi o d
    let bad := x.v.isNaN || y.v.isNaN
    let swap : Bool := if bad then freeChoice key (2 * i) else fpOrd y.v x.v == some true
    let lowB := if swap then y else x
    let highB := if swap then x else y
    let n := lowB.counted (if bad then freeRes key (2 * i) else boxRound 3 lowB.v)
    let f := (if bad then freeRes key (2 * i + 1) else boxRound 4 highB.v).bits
    { b with
      near := if fpOrd (f32v b.near.1) (f32v n.1) == some true then n else b.near
      far := if fpOrd (f32v f) (f32v b.far) == some true then f else b.far }

/-- Box `k` of a node against a ray: whether it is hit, and the entry distance with its count. -/
def boxTest (k : Nat) (node : List Opv) (ro rd : VReg) : Bool × (Nat × Nat) :=
  let g := fun (j : Nat) => node.getD (6 * k + j) opv0
  let tmin := laneF ro 3
  let tmax := laneF rd 3
  let nan := (List.range 6).any (fun j => (g j).v.isNaN) || (List.range 4).any (fun q => (laneF ro q).v.isNaN || (laneF rd q).v.isNaN)
  let empty := (List.range 3).any (fun j => fpOrd (g (j + 3)).v (g j).v == some true)
  let key := 0 :: opKey node ++ [ro.bits.toNat, rd.bits.toNat]
  let b := (List.range 3).foldl (fun b j => boxAxis key (3 * k + j) (g j) (g (j + 3)) (laneF ro j) (laneF rd j) b)
    (⟨(tmin.bits, tmin.t), tmax.bits, nan || empty⟩ : BoxState)
  (!b.miss && fpOrd (f32v b.far) (f32v b.near.1) != some true, b.near)

/-- The boxes in the order of their lanes: hit ones by distance, ties and misses by number. -/
def boxOrder (rs : List (Bool × (Nat × Nat))) : List Nat :=
  let below := fun (i j : Nat) =>
    let a := rs.getD i (false, 0, 0)
    let b := rs.getD j (false, 0, 0)
    if a.1 && b.1 then fpOrd (f32v a.2.1) (f32v b.2.1) == some true || (fpOrd (f32v a.2.1) (f32v b.2.1) == none && decide (i < j))
    else if a.1 != b.1 then a.1 else decide (i < j)
  (List.range 4).foldl (fun acc i => acc.takeWhile (fun j => below j i) ++ i :: acc.dropWhile (fun j => below j i)) []

/-- `BOXT` (R234): the 128 bytes are checked, and the child references after byte 95 are not read. -/
def execBoxt (d a b m : RegNo) (s : State) : Host.Outcome State Fault Refusal :=
  withSlot0 (.boxt d a b m) (fun s =>
    withIssue [(.v, .reg a), (.v, .reg (a + 1)), (.g, .reg b)] [(.v, .reg d), (.g, .reg m)] (fun s =>
      withStruct (s.rg b).toNat 128 96 64 (fun bs s =>
        let ro := s.rv a
        let rd := s.rv (a + 1)
        let rs := (List.range 4).map (fun k => boxTest k (structF32 bs) ro rd)
        let ord := boxOrder rs
        let lanes := ord.map (fun k => let r := rs.getD k (false, 0, 0); if r.1 then r.2 else (0x7F800000, 0))
        let mask := (List.range 4).foldl (fun x k => x + (rs.getD k (false, 0, 0)).1.toNat * 2 ^ k) 0
        let perm := (List.range 4).foldl (fun x q => x + ord.getD q 0 * 4 ^ q) 0
        .next (((s.updTh (·.wv d (vF32 lanes))).wg m (BitVec.ofNat 64 (perm * 16 + mask))).advance)) s) s) s

/-! ### `trit` (R235) -/

/-- Three fractions. -/
abbrev Q3 := Q × Q × Q

/-- The cross product, exact. -/
def Q3.cross (a b : Q3) : Q3 :=
  ((a.2.1.mul b.2.2).sub (a.2.2.mul b.2.1), (a.2.2.mul b.1).sub (a.1.mul b.2.2), (a.1.mul b.2.1).sub (a.2.1.mul b.1))

/-- The dot product, exact. -/
def Q3.dot (a b : Q3) : Q := ((a.1.mul b.1).add (a.2.1.mul b.2.1)).add (a.2.2.mul b.2.2)

/-- Three operands as fractions. -/
def opv3 (a b c : Opv) : Q3 := (a.v.q, b.v.q, c.v.q)

/-- The difference of two f32 operands rounded to nearest even, as an operand (R235). -/
def roundDiff (x y : Opv) : Opv := let r := fpAdd fmtF32 0 0 x y.negate; ⟨fmtF32, r.1.bits, r.2⟩

/-- A value of a triangle test: num/den rounded to nearest even with count `c` (R235). An exact zero has a zero dividend, an operand that
is zero, keeps `c` (R76 case 3; log entry 66) and is +0 (log entry 74). -/
def hitValue (c : Nat) (num den : Q) : Nat × Nat :=
  let r := fmtF32.roundQ 0 0 false (num.div den)
  (r.bits, fmtF32.count r c (num.num == 0) (c == 24) c)

/-- What `trit` finds: t and the barycentrics with their counts, or none for a miss. The fourth lane of a hit, a constant +0, counts 24
where c is 24, else 0 (R235 gives it no count; log entry 65). -/
def triTest (tri : List Opv) (ro rd : VReg) : Option ((Nat × Nat) × List (Nat × Nat)) :=
  let g := fun (j : Nat) => tri.getD j opv0
  let o := fun (j : Nat) => laneF ro j
  let dr := fun (j : Nat) => laneF rd j
  let tmin := laneF ro 3
  let tmax := laneF rd 3
  let bad := fun (x : Opv) => x.v.isNaN || x.v.isInf
  let e1 := fun (j : Nat) => roundDiff (g (3 + j)) (g j)
  let e2 := fun (j : Nat) => roundDiff (g (6 + j)) (g j)
  let sv := fun (j : Nat) => roundDiff (o j) (g j)
  let diffs := (List.range 3).flatMap (fun j => [e1 j, e2 j, sv j])
  let dirs := (List.range 3).map dr
  if (List.range 9).any (fun j => bad (g j)) || (List.range 3).any (fun j => bad (o j) || bad (dr j)) || tmin.v.isNaN ||
      tmax.v.isNaN || diffs.any bad then none
  else
    let E1 := opv3 (e1 0) (e1 1) (e1 2)
    let E2 := opv3 (e2 0) (e2 1) (e2 2)
    let S := opv3 (sv 0) (sv 1) (sv 2)
    let D := opv3 (dr 0) (dr 1) (dr 2)
    let q := S.cross E1
    let det := E1.dot (D.cross E2)
    let un := S.dot (D.cross E2)
    let vn := D.dot q
    let tn := E2.dot q
    if det.num = 0 then none
    else
      let sg := fun (x : Q) => if det.num < 0 then x.neg else x
      let t := tn.div det
      let tv : Fp := .num (decide (t.num < 0)) t.num.natAbs t.den
      if 0 ≤ (sg un).num && 0 ≤ (sg vn).num && (sg (un.add vn)).le (sg det) && fpOrd tv tmin.v != some true &&
          fpOrd tmax.v tv != some true then
        let c := (diffs ++ dirs).foldl (fun m x => min m x.t) 24
        some (hitValue c tn det, [hitValue c un det, hitValue c vn det, hitValue c ((det.sub un).sub vn) det,
          (0, if c = 24 then 24 else 0)])
      else none

/-- `TRIT` (R235): a hit's t is checked under R82. -/
def execTrit (d a b w : RegNo) (s : State) : Host.Outcome State Fault Refusal :=
  withSlot0 (.trit d a b w) (fun s =>
    withIssue [(.v, .reg a), (.v, .reg (a + 1)), (.g, .reg b)] [(.f, .reg d), (.v, .reg w)] (fun s =>
      withStruct (s.rg b).toNat 36 36 4 (fun bs s =>
        let ro := s.rv a
        let rd := s.rv (a + 1)
        match triTest (structF32 bs) ro rd with
        | none => .next (((s.updTh (·.wf d ⟨0x7F800000, 0⟩)).updTh (·.wv w (vF32 (List.replicate 4 (0, 0))))).advance)
        | some (t, bary) =>
          let x : FReg := ⟨BitVec.ofNat 64 t.1, t.2⟩
          let ta := (List.range 3).foldl (fun m q => min m (min (laneF ro q).t (laneF rd q).t)) 24
          if s.th.fails t.2 then
            s.doldrums (doldrumsVal 63 24 ta t.2 1 0 d.toNat) ⟨[.f d x, .v w (vF32 bary)], 0, []⟩
          else .next (((s.updTh (·.wf d x)).updTh (·.wv w (vF32 bary))).advance)) s) s) s

/-! ### The traversal stack (R236, R237) -/

/-- The place of spill entry `n`. -/
def ThreadSet.spillAt (t : ThreadSet) (n : Nat) : Nat := t.sbase.toNat + 8 * n

/-- The own-window check of a spill or refill (R237): Check's alignment test comes first (R155). -/
def State.spillCheck (store : Bool) (ea : Nat) (s : State) : Except Nat Target × State :=
  if ea % 8 ≠ 0 then (.error 0x04, s) else if 0xC000 ≤ ea then (.error 0x08, s) else s.check (s.issuer 0) .ordinary store ea 8 8

/-- `SPUSH` (R237). -/
def execSpush (a : Opnd) (s : State) : Host.Outcome State Fault Refusal :=
  withSlot0 (.spush a) (fun s =>
    withIssue [(.g, a)] [] (fun s =>
      let t := s.th
      let push := fun (s : State) => let x := s.takeG a; Host.Outcome.next ((x.2.updTh (fun t => { t with stack := t.stack ++ [x.1] })).advance)
      if t.stack.length < 8 then push s
      else
        let ea := t.spillAt t.scnt.toNat
        if t.scnt = t.scap then s.memTrap 0x08 ea
        else match s.spillCheck true ea with
          | (.error c, s) => s.memTrap c ea
          | (.ok tg, s) =>
            if s.behind s.cur.1 s.cur.2 tg.place 8 then .next s
            else
              let s := s.storeNow (s.issuer 0) tg ea (leBytes 8 (t.stack.headD 0).toNat)
              push (s.updTh (fun t => { t with stack := t.stack.drop 1, scnt := t.scnt + 1 }))) s) s

/-- `SPOP` (R237). -/
def execSpop (d : Opnd) (s : State) : Host.Outcome State Fault Refusal :=
  withSlot0 (.spop d) (fun s =>
    withIssue [] [(.g, d)] (fun s =>
      let t := s.th
      match t.stack.getLast? with
      | some x => .next (((s.updTh (fun t => { t with stack := t.stack.dropLast })).putG d x).advance)
      | none =>
        if t.scnt = 0 then .next ((s.putG d 0xFFFFFFFFFFFFFFFF).advance)
        else
          let ea := t.spillAt (t.scnt.toNat - 1)
          match s.spillCheck false ea with
          | (.error c, s) => s.memTrap c ea
          | (.ok tg, s) =>
            if s.behind s.cur.1 s.cur.2 tg.place 8 then .next s
            else match s.loadNow (s.issuer 0) tg ea 8 with
              | (.error x, s) => s.memTrap 0x0F x
              | (.ok bs, s) =>
                .next (((s.updTh (fun t => { t with scnt := t.scnt - 1 })).putG d (BitVec.ofNat 64 (leNat bs))).advance)) s) s

/-! ### Edges and coverage (R291, R292) -/

/-- A result of the rendering rules with count `c` (R290). `ops` are the inputs it is computed from, the operands whose zeros and counts decide
the count of a zero (R76 cases 2 and 3; log entry 66). -/
def renderCount (c : Nat) (ops : List Opv) (r : FpRes) : Nat × Nat :=
  (r.bits, fmtF32.count r c (ops.any (·.v.isZero)) (ops.all (fun o => o.t == o.f.p)) (ops.foldl (fun m o => min m o.t) 24))

/-- A value of the rendering rules: rounded to nearest even, with count `c` (R290). An exact zero is +0 (log entry 76). -/
def renderVal (c : Nat) (ops : List Opv) (x : Q) : Nat × Nat := renderCount c ops (fmtF32.roundQ 0 0 false x)

/-- D of a triangle (R291). -/
def edgeArea (v : Nat → Q) : Q :=
  (((v 3).sub (v 0)).mul ((v 7).sub (v 1))).sub (((v 6).sub (v 0)).mul ((v 4).sub (v 1)))

/-- Twelve coefficients of a triangle (R291): A0 to A2 and Az, B0 to B2 and Bz, C0 to C2 and Cz. -/
def edgeCoefs (v : Nat → Q) (ox oy : Q) : List Q :=
  let x := fun (k : Nat) => v (3 * k)
  let y := fun (k : Nat) => v (3 * k + 1)
  let z := fun (k : Nat) => v (3 * k + 2)
  let nx := fun (k : Nat) => (k + 1) % 3
  let A := fun (k : Nat) => (y k).sub (y (nx k))
  let B := fun (k : Nat) => (x (nx k)).sub (x k)
  let C := fun (k : Nat) => ((A k).mul (ox.sub (x k))).add ((B k).mul (oy.sub (y k)))
  let x1 := (x 1).sub (x 0)
  let x2 := (x 2).sub (x 0)
  let y1 := (y 1).sub (y 0)
  let y2 := (y 2).sub (y 0)
  let z1 := (z 1).sub (z 0)
  let z2 := (z 2).sub (z 0)
  let D := edgeArea v
  let zero : Q := ⟨0, 1⟩
  if D.num = 0 then
    [zero, zero, zero, zero, zero, zero, zero, zero, ⟨-1, 1⟩, ⟨-1, 1⟩, ⟨-1, 1⟩, zero]
  else
    let sg := fun (q : Q) => if D.num < 0 then q.neg else q
    let Az := ((z1.mul y2).sub (z2.mul y1)).div D
    let Bz := ((x1.mul z2).sub (x2.mul z1)).div D
    let Cz := ((z 0).add (Az.mul (ox.sub (x 0)))).add (Bz.mul (oy.sub (y 0)))
    [sg (A 0), sg (A 1), sg (A 2), Az, sg (B 0), sg (B 1), sg (B 2), Bz, sg (C 0), sg (C 1), sg (C 2), Cz]

/-- The pairs of vertices whose differences `edg` forms in component `j` (R291): all three in x and y, those with vertex 0 in z. -/
def edgePairs (j : Nat) : List (Nat × Nat) := if j = 2 then [(1, 0), (2, 0)] else [(0, 1), (1, 2), (2, 0)]

/-- The least count among the vertex differences (R290). -/
def edgeCount (v : Nat → Opv) : Nat :=
  ((List.range 3).flatMap (fun j => (edgePairs j).map (fun p => diffCount (v (3 * p.1 + j)) (v (3 * p.2 + j))))).foldl min 24

/-- The inputs that coefficient `j` of `edg` is computed from, in the order of `edgeCoefs` (R291). -/
def edgeOps (v : Nat → Opv) (ox oy : Opv) (j : Nat) : List Opv :=
  let k := j % 4
  let n := (k + 1) % 3
  let ends := fun (i : Nat) => [v (3 * k + i), v (3 * n + i)]
  if k = 3 then (List.range 9).map v ++ (if j = 11 then [ox, oy] else [])
  else if j < 4 then ends 1
  else if j < 8 then ends 0
  else ends 0 ++ ends 1 ++ [ox, oy]

/-- `EDG` (R291). A coefficient is NaN where one of its own inputs is, and every one is where D, which x and y give, is; where an infinity
is among them the spec states none, and it is free (log entries 4, 66). -/
def execEdg (d a b : RegNo) (s : State) : Host.Outcome State Fault Refusal :=
  withSlot0 (.edg d a b) (fun s =>
    withIssue [(.g, .reg a), (.v, .reg b)] [(.v, .reg d), (.v, .reg (d + 1)), (.v, .reg (d + 2))] (fun s =>
      withStruct (s.rg a).toNat 36 36 4 (fun bs s =>
        let tri := structF32 bs
        let v := fun (j : Nat) => tri.getD j opv0
        let ox := laneF (s.rv b) 0
        let oy := laneF (s.rv b) 1
        let flat := (List.range 9).filterMap (fun j => if j % 3 = 2 then none else some (v j))
        let key := 1 :: opKey tri ++ [ox.bits, oy.bits]
        let c := min (edgeCount v) (min ox.t oy.t)
        let val := fun (o : Opv) => o.v.q
        let coefs := edgeCoefs (fun j => val (v j)) ox.v.q oy.v.q
        let area := edgeArea (fun j => val (v j))
        let lane := fun (j : Nat) =>
          let ops := edgeOps v ox oy j
          let ins := if area.num = 0 then flat else flat ++ ops
          if flat.any (·.v.isNaN) then (fmtF32.nanBits, 0)
          else if flat.any (·.v.isInf) then renderCount c ops (freeRes key j)
          else if ins.any (·.v.isNaN) then (fmtF32.nanBits, 0)
          else if ins.any (·.v.isInf) then renderCount c ops (freeRes key j)
          else renderVal c ops (coefs.getD j ⟨0, 1⟩)
        let reg := fun (r : Nat) => vF32 ((List.range 4).map (fun q => lane (4 * r + q)))
        .next ((((s.updTh (·.wv d (reg 0))).updTh (·.wv (d + 1) (reg 1))).updTh (·.wv (d + 2) (reg 2))).advance)) s) s) s

/-- Whether edge value e with coefficients A and B covers (R292). -/
def edgeIn (e A B : Q) : Bool :=
  decide (0 < e.num) || (e.num == 0 && (decide (0 < A.num) || (A.num == 0 && decide (0 < B.num))))

/-- `COV` (R292). A NaN coefficient leaves every lane uncovered. Where an infinity enters an edge value or a depth the spec states none: that
edge's test, unless another edge already leaves the sample out, and that depth are free (log entry 4). -/
def execCov (d a b z : RegNo) (s : State) : Host.Outcome State Fault Refusal :=
  withSlot0 (.cov d a b z) (fun s =>
    withIssue [(.v, .reg a), (.v, .reg (a + 1)), (.v, .reg (a + 2)), (.v, .reg b)] [(.g, .reg d), (.v, .reg z)] (fun s =>
      let pos := s.rv b
      let co := fun (r q : Nat) => laneF (s.rv (a + BitVec.ofNat 5 r)) q
      let ins := (List.range 3).flatMap (fun r => (List.range 4).map (co r)) ++ (List.range 4).map (laneF pos)
      let key := 2 :: opKey ins
      let c := ins.foldl (fun m x => min m x.t) 24
      let at_ := fun (q k : Nat) =>
        let x := ((laneF pos 0).v.q.add ⟨2 * (q % 2 : Nat) + 1, 2⟩).sub (laneF pos 2).v.q
        let y := ((laneF pos 1).v.q.add ⟨2 * (q / 2 : Nat) + 1, 2⟩).sub (laneF pos 3).v.q
        (((co 0 k).v.q.mul x).add ((co 1 k).v.q.mul y)).add (co 2 k).v.q
      let nan := ins.any (·.v.isNaN)
      let ops := fun (k : Nat) => [co 0 k, co 1 k, co 2 k] ++ (List.range 4).map (laneF pos)
      let inf := fun (k : Nat) => (ops k).any (·.v.isInf)
      let inside := fun (q k : Nat) => edgeIn (at_ q k) (co 0 k).v.q (co 1 k).v.q
      let covered := fun (q : Nat) => (List.range 3).all (fun k => inf k || inside q k) &&
        (!(List.range 3).any inf || freeChoice key q)
      let mask : Nat := if nan then 0 else (List.range 4).foldl (fun m q => m + (covered q).toNat * 2 ^ q) 0
      let depth := fun (q : Nat) =>
        if nan then (fmtF32.nanBits, 0) else if inf 3 then renderCount c (ops 3) (freeRes key q) else renderVal c (ops 3) (at_ q 3)
      .next (((s.updTh (·.wv z (vF32 ((List.range 4).map depth)))).wg d (BitVec.ofNat 64 mask)).advance)) s) s

/-! ### Merging and derivatives (R293, R294) -/

/-- Whether two partial quads merge (R293); none where an infinite normal or depth leaves it open, which no other conjunct closes. -/
def mergeOk (a0 a1 b0 b1 : VReg) (thr tol : Fp) : Option Bool :=
  let ma := laneBits .f32 a0 0 % 16
  let mb := laneBits .f32 b0 0 % 16
  let u := ma ||| mb
  let qs := (List.range 4).filter (fun q => u / 2 ^ q % 2 == 1)
  let normals := [laneF a0 1, laneF a0 2, laneF a0 3, laneF b0 1, laneF b0 2, laneF b0 3]
  let depths := qs.flatMap (fun q => [laneF a1 q, laneF b1 q])
  if ma = 0 || mb = 0 || ma &&& mb != 0 then some false
  else if thr.isNaN || tol.isNaN || (normals ++ depths).any (·.v.isNaN) then some false
  else
    let dot := (opv3 (laneF a0 1) (laneF a0 2) (laneF a0 3)).dot (opv3 (laneF b0 1) (laneF b0 2) (laneF b0 3))
    let num := fun (q : Q) => Fp.num (decide (q.num < 0)) q.num.natAbs q.den
    let open1 := normals.any (·.v.isInf)
    let openAt := fun (q : Nat) => (laneF a1 q).v.isInf || (laneF b1 q).v.isInf
    let near := fun (q : Nat) => fpOrd tol (num ((laneF a1 q).v.q.sub (laneF b1 q).v.q).abs) != some true
    if (open1 || fpOrd (num dot) thr != some true) && qs.all (fun q => openAt q || near q) then
      if open1 || qs.any openAt then none else some true
    else some false

/-- The lanes of a register as bits and counts. -/
def lanes4 (v : VReg) : List (Nat × Nat) := (List.range 4).map (fun q => (laneBits .f32 v q, laneCount .f32 24 v q))

/-- `QMRG` (R293). -/
def execQmrg (d a b p : RegNo) (s : State) : Host.Outcome State Fault Refusal :=
  withSlot0 (.qmrg d a b p) (fun s =>
    withIssue [(.v, .reg a), (.v, .reg (a + 1)), (.v, .reg b), (.v, .reg (b + 1)), (.g, .reg p)]
        [(.v, .reg d), (.v, .reg (d + 1))] (fun s =>
      let a0 := s.rv a
      let a1 := s.rv (a + 1)
      let b0 := s.rv b
      let b1 := s.rv (b + 1)
      let pw := (s.rg p).toNat
      let key := [3, a0.bits.toNat, a1.bits.toNat, b0.bits.toNat, b1.bits.toNat, pw]
      let ok := (mergeOk a0 a1 b0 b1 (f32v (pw % 2 ^ 32)) (f32v (pw / 2 ^ 32))).getD (freeChoice key 0)
      let ma := laneBits .f32 a0 0 % 16
      let mb := laneBits .f32 b0 0 % 16
      let r0 := if ok then (256 + mb * 16 + (ma ||| mb), 24) :: (lanes4 a0).drop 1
        else match lanes4 a0 with
          | l :: ls => (if l.1 / 256 % 2 = 1 then l.1 - 256 else l.1, l.2) :: ls
          | [] => []
      let r1 := (List.range 4).map (fun q => (lanes4 (if ok && mb / 2 ^ q % 2 == 1 then b1 else a1)).getD q (0, 0))
      .next (((s.updTh (·.wv d (vF32 r0))).updTh (·.wv (d + 1) (vF32 r1))).advance)) s) s

/-- The difference of two lanes for each lane (R294), one draw a lane under mode 5, where the two lanes of one difference may so differ (log entry
76). -/
def laneDiffs (hi lo : Nat → Nat) (d a : RegNo) (s : State) : Host.Outcome State Fault Refusal :=
  withIssue [(.v, .reg a)] [(.v, .reg d)] (fun s =>
    let rm := s.th.rm
    let dr := s.draws rm 4
    let v := s.rv a
    let lane := fun (q : Nat) =>
      let r := fpAdd fmtF32 rm (dr.1.getD q 0) (laneF v (hi q)) (laneF v (lo q)).negate
      (r.1.bits, r.2)
    .next ((dr.2.updTh (·.wv d (vF32 ((List.range 4).map lane)))).advance)) s

/-- `DFX` (R294). -/
def execDfx (d a : RegNo) (s : State) : Host.Outcome State Fault Refusal :=
  withSlot0 (.dfx d a) (fun s => laneDiffs (fun q => q ||| 1) (fun q => q &&& 2) d a s) s

/-- `DFY` (R294). -/
def execDfy (d a : RegNo) (s : State) : Host.Outcome State Fault Refusal :=
  withSlot0 (.dfy d a) (fun s => laneDiffs (fun q => q ||| 2) (fun q => q &&& 1) d a s) s

/-! ### Sampling (R295 to R298) -/

/-- The place of `ea` as the sampler reads it: global memory that the thread may read; the error is the cause (R298). -/
def State.samplerPlace (ea : Nat) (s : State) : Except Nat Nat × State :=
  if rowOf ea ≠ .global then (.error 0x07, s)
  else match s.translate (s.tileOf s.cur.1) ea with
    | (none, s) => (.error 0x05, s)
    | (some e, s) =>
      if !e.rd || (e.sup && !s.th.inSup) then (.error 0x07, s)
      else match e.place ea with
        | some (.phys pa) => (.ok pa, s)
        | _ => (.error 0x07, s)

/-- `n` bytes of one line at `ea` through the tile's sampler cache, which fills from the homes (R153); a line leaves a full cache by a free
choice (log entry 4), and a line with a poisoned byte is not kept, so that only an access that reads the byte traps (R155, R298). The error is a cause with its address. -/
def State.sample (ea n : Nat) (s : State) : Except (Nat × Nat) (List Byte) × State :=
  match s.samplerPlace ea with
  | (.error c, s) => (.error (c, ea), s)
  | (.ok pa, s) =>
    let t := s.tileOf s.cur.1
    match Map.find (pa / 64) (s.tile t).sampler with
    | some l => (.ok ((l.drop (pa % 64)).take n), s)
    | none =>
      match firstPoison s.poison pa n, firstPoison s.poison (pa / 64 * 64) 64 with
      | some x, _ => (.error (0x0F, ea + (x - pa)), s)
      | none, some _ => (.ok (s.peek pa n), s.correctLine pa)
      | none, none =>
        let s := s.correctLine pa
        let l := s.peek (pa / 64 * 64) 64
        let r := s.freshFree
        let s := r.2.updTile t (fun tl =>
          let m := tl.sampler
          let m := if Config.samplerLines ≤ m.length then m.eraseIdx ((Config.freeByte r.1 0).toNat % m.length) else m
          { tl with sampler := Map.set (pa / 64) l m })
        (.ok ((l.drop (pa % 64)).take n), s)

/-- A sampler descriptor (R295). -/
structure Sampler where
  base : Nat
  w : Nat
  h : Nat
  lev : Nat
  fmt : Nat
  wrap : Nat
  zeros : Bool
  deriving DecidableEq, Repr

/-- Its fields. -/
def samplerOf (bs : List Byte) : Sampler :=
  ⟨leNat (bs.take 8), leNat ((bs.drop 8).take 2), leNat ((bs.drop 10).take 2), (bs.getD 12 0).toNat, (bs.getD 13 0).toNat,
   (bs.getD 14 0).toNat, (bs.drop 15).all (· == 0)⟩

/-- A malformed descriptor (R295). -/
def Sampler.malformed (d : Sampler) : Bool :=
  d.base % 256 != 0 || rowOf d.base != .global || d.w == 0 || d.h == 0 || decide (16384 < d.w) || decide (16384 < d.h) ||
  d.lev == 0 || decide (15 < d.lev) || decide (3 ≤ d.fmt) || decide (2 ≤ d.wrap % 4) || decide (2 ≤ d.wrap / 4 % 4) ||
  decide (16 ≤ d.wrap) || !d.zeros

/-- Width and height of a level. -/
def Sampler.dim (d : Sampler) (l : Nat) : Nat × Nat := (max 1 (d.w / 2 ^ l), max 1 (d.h / 2 ^ l))

/-- Bytes of a texel. -/
def Sampler.texel (d : Sampler) : Nat := [16, 8].getD d.fmt 4

/-- The address of a level: each starts at the first 256-byte boundary after the one before. -/
def Sampler.level (d : Sampler) : Nat → Nat
  | 0 => d.base
  | l + 1 => alignUp (d.level l + (d.dim l).1 * (d.dim l).2 * d.texel) 256

/-- An index wrapped: clamped to the edge, or repeated (R295). -/
def wrapIndex (mode : Nat) (i : Int) (n : Nat) : Nat :=
  if mode = 1 then (i % n).toNat else (min (max i 0) (n - 1)).toNat

/-- The four channels of texel (i, j) of a level, widened to f32 (R297). -/
def State.texelAt (d : Sampler) (l : Nat) (i j : Int) (s : State) : Except (Nat × Nat) (List Opv) × State :=
  let x := wrapIndex (d.wrap % 4) i (d.dim l).1
  let y := wrapIndex (d.wrap / 4) j (d.dim l).2
  match s.sample (d.level l + (y * (d.dim l).1 + x) * d.texel) d.texel with
  | (.error e, s) => (.error e, s)
  | (.ok bs, s) => (.ok (match d.fmt with
      | 0 => (leWords 4 4 bs).map (fun b => ⟨fmtF32, b, 24⟩)
      | 1 => (leWords 2 4 bs).map (fun b => ⟨fmtF16, b, 11⟩)
      | _ => [⟨fmtF32, leNat bs, 24⟩, ⟨fmtF32, 0, 24⟩, ⟨fmtF32, 0, 24⟩, ⟨fmtF32, 0x3F800000, 24⟩]), s)

/-- A texel's channel as `txl` returns it: widened exactly, a NaN canonical with count 0 (R296, R297); an infinite or subnormal texel keeps its
count, as what is loaded (log entry 74). -/
def texelVal (x : Opv) : Nat × Nat :=
  match x.v with
  | .nan => (fmtF32.nanBits, 0)
  | .inf s => (fmtF32.signed s fmtF32.infBits, x.t)
  | .num s n d => ((fmtF32.roundQ 0 0 s (if s then ⟨-(n : Int), d⟩ else ⟨n, d⟩)).bits, x.t)

/-- A channel filtered from four texels by weights in 1/65,536 (R297), with the least count of the texels and the cases of R76, whose operands
are the texels (log entry 66); an infinite texel leaves it free (log entry 4). -/
def filterVal (ts : List Opv) (ws : List Nat) : Nat × Nat :=
  let least : Nat := ts.foldl (fun m x => min m x.t) 24
  if ts.any (·.v.isNaN) then (fmtF32.nanBits, 0)
  else if ts.any (·.v.isInf) then renderCount least ts (freeRes (4 :: opKey ts ++ ws) 0)
  else renderVal least ts ((List.range 4).foldl (fun q k => Q.add q ((ts.getD k opv0).v.q.mul ⟨ws.getD k 0, 65536⟩)) ⟨0, 1⟩)

/-- A coordinate: NaN reads as 0, and an infinite one, whose floor and fraction the spec does not state, is free (log entry 4). -/
def coordQ (x : Opv) : Q :=
  match x.v with
  | .nan => ⟨0, 1⟩
  | .inf _ => ⟨(BitVec.ofNat 64 (freeNat [5, x.bits] 0 8)).toInt, 2 ^ 32⟩
  | v => v.q

/-- The four channels of one pixel, filtered at level `l`. -/
def State.bilinear (d : Sampler) (l : Nat) (u v : Opv) (s : State) : Except (Nat × Nat) (List (Nat × Nat)) × State :=
  let x := ((coordQ u).mul (Q.ofInt (d.dim l).1)).sub ⟨1, 2⟩
  let y := ((coordQ v).mul (Q.ofInt (d.dim l).2)).sub ⟨1, 2⟩
  let i := x.floor
  let j := y.floor
  let al := ((x.sub (Q.ofInt i)).mul (Q.ofInt 256)).floor.toNat
  let be := ((y.sub (Q.ofInt j)).mul (Q.ofInt 256)).floor.toNat
  match s.texelAt d l i j with
  | (.error e, s) => (.error e, s)
  | (.ok t0, s) =>
    match s.texelAt d l (i + 1) j with
    | (.error e, s) => (.error e, s)
    | (.ok t1, s) =>
      match s.texelAt d l i (j + 1) with
      | (.error e, s) => (.error e, s)
      | (.ok t2, s) =>
        match s.texelAt d l (i + 1) (j + 1) with
        | (.error e, s) => (.error e, s)
        | (.ok t3, s) =>
          let ws := [(256 - al) * (256 - be), al * (256 - be), (256 - al) * be, al * be]
          (.ok ((List.range 4).map (fun c =>
            filterVal [t0.getD c opv0, t1.getD c opv0, t2.getD c opv0, t3.getD c opv0] ws)), s)

/-- The level of `smp` from the quad's derivatives (R296): a NaN coordinate reads as 0 (R297); free where one is infinite (log entry 4). -/
def smpLevel (d : Sampler) (u v : VReg) : Nat :=
  let g := fun (r : VReg) (q : Nat) => (laneF r q).v
  if (List.range 3).any (fun q => (g u q).isInf || (g v q).isInf) then
    freeNat [6, u.bits.toNat, v.bits.toNat, d.w, d.h] 0 1 % max d.lev 1
  else
    let df := fun (r : VReg) (q n : Nat) => (((g r q).q.sub (g r 0).q).mul (Q.ofInt n)).abs
    let rho := ((df u 1 d.w).max (df v 1 d.h)).max ((df u 2 d.w).max (df v 2 d.h))
    ((List.range (d.lev - 1)).find? (fun l => (rho.mul rho).le (Q.ofInt (2 ^ (2 * l + 1))))).getD (d.lev - 1)

/-- The level of `smpl` (R296), with an infinite `f[l]` clamped as a number would be (log entry 76). -/
def smplLevel (d : Sampler) (f : Opv) : Nat :=
  match f.v with
  | .nan => 0
  | .inf s => if s then 0 else d.lev - 1
  | v => (min (max (v.q.add ⟨1, 2⟩).floor 0) (d.lev - 1 : Nat)).toNat

/-- The pixels of a sampler instruction in lane order, each by `px`. -/
def State.samplePixels (px : Nat → State → Except (Nat × Nat) (List (Nat × Nat)) × State) :
    List Nat → State → Except (Nat × Nat) (List (List (Nat × Nat))) × State
  | [], s => (.ok [], s)
  | q :: qs, s =>
    match px q s with
    | (.error e, s) => (.error e, s)
    | (.ok p, s) =>
      match State.samplePixels px qs s with
      | (.error e, s) => (.error e, s)
      | (.ok ps, s) => (.ok (p :: ps), s)

/-- A sampler instruction (R296, R298): the descriptor, the four pixels by `px`, and the channels written to `v[d]` to `v[d+3]`. -/
def samplerOp (d a b : RegNo) (more : List (Cls × Opnd))
    (px : Sampler → Nat → State → Except (Nat × Nat) (List (Nat × Nat)) × State) (s : State) : Host.Outcome State Fault Refusal :=
  withIssue ([(.g, .reg a), (.v, .reg b), (.v, .reg (b + 1))] ++ more)
      [(.v, .reg d), (.v, .reg (d + 1)), (.v, .reg (d + 2)), (.v, .reg (d + 3))] (fun s =>
    let ea := (s.rg a).toNat
    if ea % 32 ≠ 0 then s.memTrap 0x04 ea
    else if s.acquiring s.cur.1 s.cur.2 then .next s
    else match s.sample ea 32 with
      | (.error (c, x), s) => s.memTrap c x
      | (.ok bs, s) =>
        let ds := samplerOf bs
        if ds.malformed then s.trap 0x07 (s.rg a)
        else
          match s.samplePixels (px ds) [0, 1, 2, 3] with
          | (.error (c, x), s) => s.memTrap c x
          | (.ok ps, s) =>
            let reg := fun (c : Nat) => vF32 (ps.map (fun p => p.getD c (0, 0)))
            .next (((((s.updTh (·.wv d (reg 0))).updTh (·.wv (d + 1) (reg 1))).updTh (·.wv (d + 2) (reg 2))).updTh
              (·.wv (d + 3) (reg 3))).advance)) s

/-- `SMP` (R296). -/
def execSmp (d a b : RegNo) (s : State) : Host.Outcome State Fault Refusal :=
  withSlot0 (.smp d a b) (fun s =>
    let u := s.rv b
    let v := s.rv (b + 1)
    samplerOp d a b [] (fun ds q s => s.bilinear ds (smpLevel ds u v) (laneF u q) (laneF v q)) s) s

/-- `SMPL` (R296). -/
def execSmpl (d a b l : RegNo) (s : State) : Host.Outcome State Fault Refusal :=
  withSlot0 (.smpl d a b l) (fun s =>
    let u := s.rv b
    let v := s.rv (b + 1)
    let f := viewF fmtF32 (s.rf l)
    samplerOp d a b [(.f, .reg l)] (fun ds q s => s.bilinear ds (smplLevel ds f) (laneF u q) (laneF v q)) s) s

/-- `TXL` (R296): texel (x, y) of level 0, unfiltered. -/
def execTxl (d a b : RegNo) (s : State) : Host.Outcome State Fault Refusal :=
  withSlot0 (.txl d a b) (fun s =>
    let x := s.rv b
    let y := s.rv (b + 1)
    samplerOp d a b [] (fun ds q s =>
      match s.texelAt ds 0 (laneInt .i32 (laneBits .i32 x q)) (laneInt .i32 (laneBits .i32 y q)) with
      | (.error e, s) => (.error e, s)
      | (.ok t, s) => (.ok (t.map texelVal), s)) s) s

end Sys2Proof.Machine
end

