-- ==== Sys2Proof/Machine/Switch.lean ====
section
/-! DEFINITION. Contexts (R165, R357 to R367): start, calm points, the stop of a partition, the save of a context and its resume, halts, and
the changes made at a calm point. -/
namespace Sys2Proof.Machine

/-! ### Partitions and tables -/

/-- `x` put into an ascending list. -/
def insertSorted (x : Nat) : List Nat → List Nat
  | [] => [x]
  | y :: ys => if x ≤ y then x :: y :: ys else y :: insertSorted x ys

/-- A list in ascending order. -/
def ascending (xs : List Nat) : List Nat := xs.foldr insertSorted []

/-- The physical tiles of a partition in logical order (R110): narrow tiles ascending, then wide tiles ascending. -/
def partitionTiles (narrow wide : List Nat) : List Nat := ascending narrow ++ ascending wide

/-- The tiles make a partition (R110, R12): each once, of the class that names it. -/
def partitionOk (narrow wide : List Nat) : Bool :=
  partitionWf narrow wide && decide ((narrow ++ wide).Nodup) && narrow.all (fun t => !wideTile t) && wide.all wideTile

/-- A list of member numbers rises strictly (R103). -/
def rises : List Nat → Bool
  | [] => true
  | x :: xs => (match xs with
    | [] => true
    | y :: _ => decide (x < y)) && rises xs

/-- An entry of the group table has a count above 262,144 or a nonzero zero field (R103). -/
def groupRowsBad (bs : List Byte) : Bool :=
  (List.range 256).any (fun g => decide (262144 < leNat ((bs.drop (16 * g + 8)).take 4)) || leNat ((bs.drop (16 * g + 12)).take 4) != 0)

/-- The readable part of the group table breaks R103: a list that does not rise, a count above 262,144, a nonzero zero field, or an element in
more than four groups. -/
def State.groupsBroken (s : State) : Bool :=
  match s.unitRead s.ctx.gtab 4096 with
  | .error _ => false
  | .ok bs =>
    if groupRowsBad bs then true
    else
      let lists := (List.range 256).map s.members
      let all := lists.flatten
      lists.any (fun l => !rises l) || all.any (fun le => decide (4 < (lists.filter (fun l => l.contains le)).length))

/-- The table, and the member lists where its entries stand, have been read at their homes (R154). -/
def State.groupsRead (s : State) : State :=
  match s.unitRead s.ctx.gtab 4096 with
  | .ok bs => let t := s.unitSeen s.ctx.gtab 4096; if groupRowsBad bs then t else t.groupsSeen
  | .error _ => s.unitSeen s.ctx.gtab 4096

/-- Eight entries of a list, zeros after it. -/
def eight (xs : List (Nat × Nat)) : Vector (Nat × Nat) 8 := Vector.ofFn (fun i => xs.getD i.val (0, 0))

/-- The versions of the words in a region of virtual addresses are set to 0 (R319). -/
def State.zeroVersions (base len : Nat) (s : State) : State :=
  (List.range (len / 65536)).foldl (fun (s : State) k =>
    let s := s.walkSeen s.ctx.root (base + 65536 * k)
    match (s.walk s.ctx.asid s.ctx.root (base + 65536 * k)).bind (fun e => e.place (base + 65536 * k)) with
    | some (.phys pa) => { s with vers := s.vers.filter (fun v => !(decide (pa / 8 ≤ v.1) && decide (v.1 < pa / 8 + 8192))) }
    | _ => s) s

/-- A tile made ready for a context: its instruction cache invalidated (R134), its window buffers free, its matrix unit in the reset state of
R259 with the cadence the governor set, and its miss counters and last slots heard at 0 (R230 does not say; log entry 75). -/
def Tile.fresh (tick : Nat) (tl : Tile) : Tile :=
  { tl with
    icache := [], bufs := Vector.replicate 3 WinBuf.start, heard := [], misses := Vector.replicate 4 0
    lastSlot := Vector.replicate 4 0, copies := [], mx := { Matrix.start with cadence := tl.mx.cadence }, idleFrom := tick }

/-! ### The save (R362 to R364) -/

/-- What R360, R361 and R316 let finish before the save has finished: memory operations but parked `ldv`s, every fence, copies and contributions but one that waits for its group's round, the
open slot and its captures. -/
def State.quiesced (s : State) : Bool :=
  s.ctx.elems.all (fun e => e.2.ops.all MemOp.parked &&
    e.2.sets.toList.all (fun t => t.fences.isEmpty)) &&
  s.ctx.tiles.all (fun t => (s.tile t).copies.all (fun c => s.collWaits c || !s.storesDone c.who) && (s.tile t).heard.isEmpty &&
    (s.tile t).bufs.toList.all (fun b => b.capture.isNone)) &&
  s.cars.toList.all (fun c => !c.boundTo s.ctx.ctxid || c.slot.isNone)

/-- A request with its tile numbers changed by `f`. -/
def Flight.onTiles (f : Nat → Nat) : Flight → Flight
  | .matrix c t => .matrix c (f t)
  | .query w c t => .query w c (f t)
  | .notify car seg t nz => .notify car seg (f t) nz
  | .stealReq a b => .stealReq (f a) (f b)
  | .stealAns a b les => .stealAns (f a) (f b) les
  | x => x

/-- A context with its tile numbers changed by `f`: of requests and of moved elements. -/
def Ctx.onTiles (f : Nat → Nat) (c : Ctx) : Ctx :=
  { c with
    flights := c.flights.map (fun e => (e.1, e.2.onTiles f))
    moved := c.moved.map (fun e => (e.1, 64 * f (e.2 / 64) + e.2 % 64)) }

/-- Its parked `ldv`s taken back: they issue again on resume (R361). -/
def Ctx.unpark (c : Ctx) : Ctx := { c with elems := c.elems.map (fun e => (e.1, { e.2 with ops := e.2.ops.filter (fun o => !o.parked) })) }

/-- A carousel's arbiter with its tile numbers changed by `f`. -/
def Carousel.onTiles (f : Nat → Nat) (c : Carousel) : Carousel := { c with counts := c.counts.map (fun e => (e.1, e.2.map f)) }

/-- A memory place with the tile of a window buffer changed by `f`. -/
def placeOnTiles (f : Nat → Nat) (a : Nat) : Nat :=
  if 2 ^ 50 ≤ a then 2 ^ 50 + f ((a - 2 ^ 50) / 262144) * 262144 + (a - 2 ^ 50) % 262144 else a

/-- The 32-byte header of an image (R364): kind, version, class, row-disable map and the size of the rest. -/
def imageHeader (kind : Nat) (ver : Byte) (cls : Nat) (rows : BitVec 64) (size : Nat) : List Byte :=
  [BitVec.ofNat 8 kind, ver, BitVec.ofNat 8 cls] ++ leBytes 5 0 ++ leBytes 8 rows.toNat ++ leBytes 8 size ++ leBytes 8 0

/-- The row-disable map of a tile's matrix unit (R258), which step 4 of bring-up loads (R389); nothing is disabled before. -/
def State.rowMap (s : State) (tile : Nat) : BitVec 64 := if s.bringUp = 5 then Config.rowDisableMap tile else 0

/-- The header that the matrix unit of a physical tile with row-disable map `rows` gives its image; `r` is for the free size. -/
def matrixHeader (rows : BitVec 64) (tile r : Nat) : List Byte :=
  imageHeader 1 (Config.imageVersion 1 tile) (wideTile tile).toNat rows (Config.imageSize 1 r)

/-- The header that the vector unit of a physical quad gives its image. -/
def vectorHeader (quad r : Nat) : List Byte := imageHeader 2 (Config.imageVersion 2 quad) 0 0 (Config.imageSize 2 r)

/-- The running context saved and gone from its partition. -/
def State.save (s : State) : State :=
  let s := s.ctx.tiles.foldl (fun s t => (s.tile t).l1.foldl (fun s b => if b.asid == s.ctx.asid then s.evict t b else s) s) s
  let ix := s.tileIndex
  let n := s.ctx.tiles.length
  let tileAt := fun (j : Nat) => s.ctx.tiles.getD j 0
  let own : Nat → Bool := fun a => decide (2 ^ 48 ≤ a)
  let sv : Saved := {
    ctx := (s.ctx.onTiles ix).unpark
    lmem := (s.mem.filter (fun c => own c.1)).map (fun c => (placeOnTiles ix c.1, c.2))
    lpoison := s.poison.filter (fun w => own (8 * w))
    wops := (List.range (16 * n)).filterMap (fun i =>
      let q := 16 * tileAt (i / 16) + i % 16
      match (Map.get Quad.start s.quads q).wops with
      | [] => none
      | ws => some (i, vectorHeader q s.free, ws))
    mx := (List.range n).map (fun j => (j, matrixHeader (s.rowMap (tileAt j)) (tileAt j) s.free, (s.tile (tileAt j)).mx))
    copies := (List.range n).map (fun j => (j, (s.tile (tileAt j)).copies))
    bufs := (List.range n).map (fun j =>
      (j, ⟨(s.tile (tileAt j)).bufs, (s.tile (tileAt j)).misses, (s.tile (tileAt j)).lastSlot⟩))
    cars := (List.range 4).filterMap (fun k => if (s.car k).boundTo s.ctx.ctxid then some (k, (s.car k).onTiles ix) else none)
    diverted := [] }
  let s := s.ctx.tiles.foldl (fun s t => s.updTile t (Tile.fresh s.tick)) s
  { s with
    free := s.free + 1
    ctx := Ctx.none
    saved := s.saved ++ [sv]
    mem := s.mem.filter (fun c => !own c.1)
    poison := s.poison.filter (fun w => !own (8 * w))
    quads := s.quads.map (fun q => (q.1, { q.2 with wops := [], grants := [] })) }

/-- The partition made free for another context: a stopped context, halted or not, is saved once it has come to rest (R362, R367). None where
the context still runs or is coming to rest. -/
def State.vacate (s : State) : Option State :=
  if !s.ctx.present then some s
  else if s.ctx.stopped && s.quiesced then some s.save
  else none

/-- A carousel as it stands unbound: what the gap is counted from stays (R218, R399). -/
def Carousel.unbound (c : Carousel) : Carousel := { Carousel.start with lastOpen := c.lastOpen }

/-- A saved context ends: its save is dropped, and the bindings of its windows and carousels are released (R105, R367). -/
def State.endSaved (id : BitVec 12) (s : State) : State :=
  let s := (List.range 4).foldl (fun s k => if (s.car k).boundTo id then s.updCar k Carousel.unbound else s) s
  { s with
    saved := s.saved.filter (fun v => v.ctx.ctxid != id)
    windows := s.windows.map (fun w => (w.1, if w.2.bound = some id then w.2.unbind else w.2)) }

/-! ### Start (R165, R397) -/

/-- A window bound to a context (R105, R108). -/
def State.bindWindow (id : BitVec 12) (w : Nat) (s : State) : State := s.setWindow w ((s.window w).bind id)

/-- A carousel bound to a context as it starts (R397, R214): the gap is 1,024 ticks unless the request names one. -/
def State.startCar (id : BitVec 12) (r : CarouselRequest) (s : State) : State :=
  (s.updCar r.car (fun c => { c.unbound with
    ctab := BitVec.ofNat 64 r.ctab, cbind := 0x8000 ||| id.setWidth 16, cgap := r.cgap.getD 1024 })).clenPut r.car r.clen

/-- A tracked region as its CSRs hold it (R149). -/
def trackedFields (r : Nat × Nat) : Nat × Nat := (r.1 % 2 ^ 49 / 65536 * 65536, r.2 % 2 ^ 29 / 65536 * 65536)

/-- A trust window as its CSRs hold it (R152). -/
def trustFields (w : Nat × Nat × Nat) : Nat × Nat × Nat :=
  (w.1 % 2 ^ 49 / 256 * 256, w.2.1 % 2 ^ 32 / 256 * 256, w.2.2 % 2 ^ 49 / 64 * 64)

/-- A context as a load request starts it (R165, R86, R103, R127, R140, R149, R152, R347, R391), its capability epoch 0 (R265, R394). -/
def startCtx (r : LoadRequest) : Ctx :=
  { Ctx.none with
    present := true
    ctxid := r.ctxid
    asid := r.asid
    root := r.root
    ttab := r.ttab
    gtab := r.gtab
    trapEntry := BitVec.ofNat 64 (r.image.trapentry.getD 0)
    ownEntry := r.image.trapentry.isNone
    maint := r.maint
    jobseed := r.jobseed
    ringBase := r.ringBase
    tracked := eight (r.tracked.map trackedFields)
    trust := Vector.ofFn (fun i => trustFields (r.trust.getD i.val (0, 0, 0)))
    tiles := partitionTiles r.narrow r.wide
    narrow := r.narrow.length }

/-- The pages of an image's `.text` are mapped as R391 says: `rd` and `ex`, and `sup` from `trapentry` up to `trapend` alone. -/
def State.imageMapped (c : Ctx) (m : Image) (s : State) : Bool :=
  (List.range ((m.textEnd - m.text + 65535) / 65536)).all (fun k =>
    let va := m.text + 65536 * k
    match s.walk c.asid c.root va with
    | some e => e.rd && e.ex && !e.wr && (e.sup == (match m.trapend with
      | some b => decide (va < b)
      | none => false))
    | none => false)

/-- The device runs a context: once bring-up is complete, and in its step 4 one in maintenance mode, which tests (R389, R318). -/
def State.serves (s : State) (maint : Bool) : Bool := s.mailbox.ready || (s.bringUp == 4 && maint)

/-- `CONTEXT_START` (R165): once the device serves the context (R389), on a partition that is free, with an image placed by R391 and windows that no other
context holds. A halted context that was saved, and has the same id or one of the windows, ends (R367). -/
def execContextStart (req : LoadRequest) (s : State) : Host.Outcome State Fault Refusal :=
  let reset := fun (s : State) => (s.saved.filter (fun v => v.ctx.halted &&
    (v.ctx.ctxid == req.ctxid || req.windows.any (fun w => (s.window w).bound == some v.ctx.ctxid)))).map (·.ctx.ctxid)
  let held := fun (s : State) (w : Nat) => match (s.window w).bound with
    | some id => id != req.ctxid
    | none => false
  if !s.serves req.maint || !req.wf || !partitionOk req.narrow req.wide then .next s
  else match s.vacate with
    | none => .next s
    | some s1 =>
      let s1 := (reset s1).foldl (fun s id => s.endSaved id) s1
      if req.windows.any (held s1) || s1.saved.any (fun v => v.ctx.ctxid == req.ctxid) || !s1.imageMapped (startCtx req) req.image then
        .next s
      else
        let s := { s1 with ctx := startCtx req }
        let s := s.ctx.tiles.foldl (fun s t => s.updTile t (Tile.fresh s.tick)) s
        let s := req.windows.foldl (fun s w => s.bindWindow req.ctxid w) (s.countAnew req.ctxid)
        let s := s.ctx.tracked.toList.foldl (fun s r => s.zeroVersions r.1 r.2) s
        let s := req.carousels.foldl (fun s c => s.startCar req.ctxid c) s
        let s := s.ctx.tiles.foldl (fun s t => s.trimWays t) s
        let t := s.groupsRead
        .next { t with ctx := { t.ctx with groupsBad := s.groupsBroken } }

/-! ### Calm points (R357 to R361) -/

/-- `CALM_POINT_BROADCAST` (R357): at least 10,000 ticks ahead, one at a time. -/
def execCalmPointBroadcast (t : Nat) (s : State) : Host.Outcome State Fault Refusal :=
  if !s.ctx.present || s.ctx.stopped || s.ctx.calm.isSome || t < s.tick + 10000 then .next s
  else .next { s with ctx := { s.ctx with calm := some t } }

/-- A set is quiet when it is free or suspended at a `yld` (R359). -/
def ThreadSet.quiet (t : ThreadSet) : Bool := t.run == .free || t.yielded

/-- Every set of the partition is quiet. -/
def State.allQuiet (s : State) : Bool := s.ctx.elems.all (fun e => e.2.sets.toList.all ThreadSet.quiet)

/-- `FORCED_STOP` (R360): at tick T, where the test of R359 does not hold, every element stops at its next instruction boundary. The count of ticks
passes T no other way than with this stop or a cooperative switch (`State.advanceTime`). -/
def execForcedStop (s : State) : Host.Outcome State Fault Refusal :=
  match s.ctx.calm with
  | some t => if t < s.tick || (t == s.tick && !s.allQuiet) then .next s.stopAll else .next s
  | none => .next s

/-- `CONTEXT_HALT` (R367): at a calm point (R357), with no resume. -/
def execContextHalt (s : State) : Host.Outcome State Fault Refusal :=
  let there : Bool := s.ctx.stopped || (match s.ctx.calm with
    | some t => decide (t ≤ s.tick)
    | none => false)
  if !s.ctx.present || s.ctx.halted || !there then .next s else .next (s.halt (s.ctx.ctxid.setWidth 64) 0 0)

/-! ### Resume (R364, R365) -/

/-- Requests in the order in which they left. -/
def insertFlight (f : Nat × Flight) : List (Nat × Flight) → List (Nat × Flight)
  | [] => [f]
  | g :: gs => if f.1 ≤ g.1 then f :: g :: gs else g :: insertFlight f gs

/-- A set as it resumes (R358, R361): one suspended at a `yld` goes on after it, and a `qwait` waits again with its full limit. -/
def ThreadSet.resumed (t : ThreadSet) : ThreadSet := { t with yielded := false, waiting := none, waited := none }

/-- What two headers must agree in: version, class and row-disable map (R364). -/
def headerKey (h : List Byte) : List Byte := (h.drop 1).take 2 ++ (h.drop 8).take 8

/-- A matrix image with header `h` taken up by a unit of the same class, row-disable map and version; any difference loses it (R364, R284), the
commands queued in it too, whose tokens stay pending (R284 does not say; log entry 75). -/
def takeImage (rows : BitVec 64) (tile cadence : Nat) (h : List Byte) (m : Matrix) : Matrix :=
  if headerKey h = headerKey (matrixHeader rows tile 0) then { m with cadence := cadence }
  else { Matrix.start with cadence := cadence, lost := true }

/-- The arbiter's state restored into a carousel that is still bound to the context (R216): counts, FIFO, pointer, `cslots` and what the last slot
was. The control block stays as it stands, with the carousel's previous opening (R399), and so does a table taken in since, whose arbiter starts
idle (R214, R398). -/
def Carousel.takeState (v c : Carousel) : Carousel :=
  let c := { c with counts := v.counts, cslots := v.cslots }
  if v.clen = 0 then c
  else { c with fifo := v.fifo.filter c.hasSeg, ptr := v.ptr, lastPromoted := v.lastPromoted, idle := c.idle && v.idle }

/-- A saved context restored on the tiles `ts` (R365). -/
def State.restore (v : Saved) (ts : List Nat) (s : State) : State :=
  let f := fun (j : Nat) => ts.getD j 0
  let flights := (v.ctx.flights ++ v.diverted).foldr insertFlight []
  let ctx := { v.ctx with flights := flights }.onTiles f
  let s := { s with
    ctx := { ctx with
      tiles := ts, stopped := false, calm := none
      elems := ctx.elems.map (fun e => (e.1, { e.2 with fetchBuf := [], sets := e.2.sets.map ThreadSet.resumed })) }
    saved := s.saved.filter (fun w => w.ctx.ctxid != v.ctx.ctxid)
    mem := v.lmem.foldl (fun m c => Mem.write (placeOnTiles f c.1) c.2 m) (s.mem.filter (fun c => decide (c.1 < 2 ^ 48)))
    poison := s.poison.filter (fun w => decide (8 * w < 2 ^ 48)) ++ v.lpoison
    quads := v.wops.foldl (fun qs e =>
      let q := 16 * f (e.1 / 16) + e.1 % 16
      Map.set q { Map.get Quad.start qs q with wops := e.2.2 } qs) s.quads }
  let s := (List.range ts.length).foldl (fun (s : State) j => s.updTile (f j) (fun tl =>
    let tl := tl.fresh s.tick
    let tl := match Map.find j v.bufs with
      | some b => { tl with bufs := b.bufs, misses := b.misses, lastSlot := b.lastSlot }
      | none => tl
    let tl := match Map.find j v.mx with
      | some m => { tl with mx := takeImage (s.rowMap (f j)) (f j) tl.mx.cadence m.1 m.2 }
      | none => tl
    { tl with copies := Map.get [] v.copies j })) s
  let s := v.cars.foldl (fun s c =>
    if (s.car c.1).boundTo v.ctx.ctxid then s.updCar c.1 (Carousel.takeState (c.2.onTiles f)) else s) s
  ts.foldl (fun s t => s.trimWays t) s

/-- `CONTEXT_RESUME` (R365): a saved context that is not halted (R367) continues on a partition of as many tiles of each class, which must be
free. -/
def execContextResume (ctx : BitVec 12) (narrow wide : List Nat) (s : State) : Host.Outcome State Fault Refusal :=
  if !partitionOk narrow wide then .next s
  else match s.vacate with
    | none => .next s
    | some s1 =>
      match s1.saved.find? (fun v => v.ctx.ctxid == ctx) with
      | none => .next s
      | some v =>
        if v.ctx.halted || !s.serves v.ctx.maint then .next s
        else if v.ctx.narrow = narrow.length && v.ctx.tiles.length = narrow.length + wide.length then
          .next (s1.restore v (partitionTiles narrow wide))
        else .next s

/-! ### Changes at a calm point (R366) -/

/-- A group entry rewritten at its home (R103). -/
def State.putGroup (g va count : Nat) (s : State) : State :=
  let ea := s.ctx.gtab + 16 * g
  let s := s.walkSeen s.ctx.root ea
  match (s.walk s.ctx.asid s.ctx.root ea).bind (fun e => e.place ea) with
  | some (.phys pa) => s.homeWrite pa (leBytes 8 va ++ leBytes 4 count ++ leBytes 4 0)
  | _ => s

/-- A tracked region set (R149), every version in it 0 (R319, R150); refused outside global memory or where the lengths would pass 256 MiB. -/
def State.putTracked (k base len : Nat) (s : State) : State :=
  let r := trackedFields (base, len)
  let tr := vset s.ctx.tracked k r
  if 2 ^ 28 < (tr.toList.map (·.2)).sum || !globalRange r.1 r.2 then s
  else { s with ctx := { s.ctx with tracked := tr } }.zeroVersions r.1 r.2

/-- `CALM_POINT_CHANGE` (R366): only while the partition stands at a calm point. Records that stand in a window whose binding changes are
discarded without a completion (R105 does not say what becomes of them; log entry 65). -/
def execCalmPointChange (change : CalmChange) (s : State) : Host.Outcome State Fault Refusal :=
  if !s.ctx.present || !s.ctx.stopped then .next s
  else match change with
    | .groupEntry g va count => if g < 256 then .next (s.putGroup g va count) else .next s
    | .bindWindow w ctx => if w < 64 then
        .next (match ctx with
          | some id => if (s.window w).bound = some id then s else s.bindWindow id w
          | none => s.setWindow w (s.window w).unbind)
      else .next s
    | .tracked k base len => if k < 8 then .next (s.putTracked k base len) else .next s
    | .trustWindow k base len plane =>
      let w := trustFields (base, len, plane)
      if k < 4 && globalRange w.1 w.2.1 && globalRange w.2.2 (w.2.1 / 4) then
        .next { s with ctx := { s.ctx with trust := vset s.ctx.trust k w } }
      else .next s
    | .bindCarousel car bound ctx => if car < 4 then
        .next (s.bindCar car ((if bound then 0x8000 else 0) ||| ctx.setWidth 16))
      else .next s
    | .advanceEpoch => .next { s with ctx := { s.ctx with epoch := s.ctx.epoch + 1 } }

end Sys2Proof.Machine
end

