-- ==== Sys2Proof/Machine/System.lean ====
section
/-! DEFINITION. System instructions: `sys`, `tret`, `yld`, `mark` and the control and status registers (R353 to R358, R374, R50). -/
namespace Sys2Proof.Machine

/-- `SYS` (R353): the resumable cause 0x10 with the immediate. -/
def execSys (i : BitVec 12) (s : State) : Host.Outcome State Fault Refusal := s.trap 0x10 (i.setWidth 64)

/-- `TRET` (R354): outside the supervisor trap handler it raises 0x12 (R55 row 3). -/
def execTret (m : BitVec 2) (s : State) : Host.Outcome State Fault Refusal :=
  if s.th.inSup then s.supReturn m.toNat else s.trap 0x12 (instrVal (.tret m))

/-- `YLD` (R358): with a calm point pending it waits for the set's tokens and memory operations, retires and suspends the set. -/
def execYld (s : State) : Host.Outcome State Fault Refusal :=
  if s.ctx.calm.isNone then .next s.advance
  else if !s.th.pending.isEmpty || s.setBusy s.cur.1 s.cur.2 then .next s
  else .next (s.advance.updTh (fun t => { t with yielded := true }))

/-- `MARK` (R374). -/
def execMark (a : Opnd) (i : BitVec 12) (s : State) : Host.Outcome State Fault Refusal :=
  withIssue [(.g, a)] [] (fun s =>
    let x := s.takeG a
    let le := s.cur.1
    .next ((if s.slipOn le 1 then
        x.2.record (s.tileOf le) ⟨s.timebase, s.slipHead 3 le s.cur.2, x.1, i.setWidth 64⟩
      else x.2).advance)) s

/-! ### Control and status registers -/

/-- A class's budget register (R126). -/
def budgetWord (c : ClassShare) (brw : Bool) : Word :=
  BitVec.ofNat 64 (brw.toNat * 2 ^ 40 + c.qvu.toNat * 2 ^ 32 + c.twp.toNat * 2 ^ 24 + c.inj.toNat * 2 ^ 16 + c.l2w.toNat * 2 ^ 8 +
    c.mem.toNat)

/-- The CSR at address `n` as the issuing set reads it (R50, R67, R81, R72, R236, R120, R344, R152, R149, R126). `srseed` of a thread that has
migrated is slot 0's generator, the one that its instructions there draw from (R71 does not say; log entry 65). -/
def State.csr (s : State) (n : Nat) : Word :=
  let t := s.th
  let e := s.el s.cur.1
  let w := fun (x : Nat) => BitVec.ofNat 64 x
  if n = 0x01 then t.fcsr
  else if n = 0x02 then t.sigctl
  else if n = 0x03 then (s.el s.drawLe).srseed
  else if n = 0x04 then w (t.scnt.toNat * 2 ^ 32 + t.scap.toNat * 2 ^ 16 + t.sbase.toNat)
  else if n = 0x05 then
    w (e.ringRsv * 2 ^ 40 + e.ringCnt * 2 ^ 32 + e.ringHead * 2 ^ 24 + e.ringEn.toNat * 2 ^ 16 + e.ringBase.toNat)
  else if n = 0x10 then s.timebase
  else if n = 0x11 then w s.cur.1
  else if n = 0x12 then s.ctx.ctxid.setWidth 64
  else if n = 0x13 then w s.cur.2
  else if n = 0x20 then t.tcause
  else if n = 0x21 then t.tepc
  else if n = 0x22 then t.tval
  else if n = 0x23 then t.tmsg
  else if n = 0x24 then t.tstat
  else if 0x30 ≤ n && n < 0x3C then
    let r := vget s.ctx.trust ((n - 0x30) / 3)
    w (match (n - 0x30) % 3 with
      | 0 => r.1
      | 1 => r.2.1
      | _ => r.2.2)
  else if 0x40 ≤ n && n < 0x50 then
    let r := vget s.ctx.tracked ((n - 0x40) / 2)
    w (if n % 2 = 0 then r.1 else r.2)
  else if 0x50 ≤ n && n < 0x56 then budgetWord (vget s.ctx.shares (n - 0x50)) (s.ctx.borrowed.getLsbD (n - 0x50))
  else 0

/-- The bits of `new` that `m` selects over those of `old`. -/
def mixBits (m old new : Word) : Word := (old &&& ~~~m) ||| (new &&& m)

/-- A CSR written: only its writable fields change (R356, R211, R72, R120, R344). A ring base that is not 8-aligned, or whose 512 bytes pass the
local memory, is stored as it is (R120 gives it no behaviour; log entry 65), and so is an `sbase` that is not 8-aligned (R236; log entry 73). -/
def State.putCsr (n : Nat) (x : Word) (s : State) : State :=
  if n = 0x01 then s.updTh (fun t => { t with fcsr := mixBits 0xFF t.fcsr x })
  else if n = 0x02 then s.updTh (fun t => { t with sigctl := mixBits 0x73F t.sigctl x })
  else if n = 0x03 then s.updEl s.drawLe (fun e => { e with srseed := if x = 0 then 1 else x })
  else if n = 0x04 then s.updTh (fun t => { t with scap := x.extractLsb' 16 16, sbase := x.setWidth 16 })
  else if n = 0x05 then s.updEl s.cur.1 (fun e =>
    if e.ringCnt = 0 && e.ringRsv = 0 then { e with ringBase := x.setWidth 16, ringEn := x.getLsbD 16 } else e)
  else if n = 0x21 then s.updTh (fun t => { t with tepc := x &&& 0x0001FFFFFFFFFFFC })
  else if n = 0x22 then s.updTh (fun t => { t with tval := x })
  else if n = 0x24 then s.updTh (fun t => { t with tstat := mixBits 0x80000 t.tstat x })
  else s

/-- A result written to `d` would trap at issue: an absent link (R181) or a ninth pending word (R179). -/
def State.destTraps (d : Opnd) (s : State) : Bool :=
  (s.absentLink s.cur.1 (portUses [(.g, d)])).isSome || (d == .port .po && decide (8 ≤ s.th.pend.length))

/-- A CSR instruction (R355): the old value is read, the new one stored where there is a write, the old one written to `d`. A write of
a supervisor CSR outside the supervisor handler raises 0x12. One that would place 6 or 7 in `fcsr[2:0]` raises 0x01 before any check that
depends on data (R55, R56), so the traps of `d` come after it: a write of `fcsr` whose source cannot be read yet waits for it first (R172). -/
def csrOp (i : Instr) (f : Word → Word → Word) (wr : Bool) (d : Opnd) (src : List Opnd) (csr : BitVec 12) (s : State) :
    Host.Outcome State Fault Refusal :=
  if wr && csrSupervisor csr && !s.th.inSup then s.trap 0x12 (instrVal i)
  else
    let rds := src.map (fun a => (Cls.g, a))
    let take := fun (s : State) => match src with
      | a :: _ => s.takeG a
      | [] => (0, s)
    let whole := withIssue rds [(.g, d)] (fun s =>
      let x := take s
      let old := s.csr csr.toNat
      let new := f old x.1
      .next (((if wr then x.2.putCsr csr.toNat new else x.2).putG d old).advance)) s
    if wr && csr.toNat == 1 then
      match gate rds [] s with
      | .stop o => if s.destTraps d then o else whole
      | .go _ => if 6 ≤ ((f (s.csr 1) (take s).1).setWidth 3 : BitVec 3).toNat then (s.mended rds).trap 0x01 (instrVal i) else whole
    else whole

/-- `CSRR` (R355). -/
def execCsrr (d : Opnd) (csr : BitVec 12) (s : State) : Host.Outcome State Fault Refusal :=
  csrOp (.csrr d csr) (fun old _ => old) false d [] csr s
/-- `CSRW` (R355). -/
def execCsrw (d a : Opnd) (csr : BitVec 12) (s : State) : Host.Outcome State Fault Refusal :=
  csrOp (.csrw d a csr) (fun _ x => x) true d [a] csr s
/-- `CSRS` (R355): no write where field a is 0. -/
def execCsrs (d a : Opnd) (csr : BitVec 12) (s : State) : Host.Outcome State Fault Refusal :=
  csrOp (.csrs d a csr) (fun old x => old ||| x) (a != .reg 0) d [a] csr s
/-- `CSRC` (R355): no write where field a is 0. -/
def execCsrc (d a : Opnd) (csr : BitVec 12) (s : State) : Host.Outcome State Fault Refusal :=
  csrOp (.csrc d a csr) (fun old x => old &&& ~~~x) (a != .reg 0) d [a] csr s

end Sys2Proof.Machine
end

