-- ==== Sys2Proof/Machine/Time.lean ====
section
/-! DEFINITION. The passing of time: an advance of the timebase with what falls due on its way: the test of a calm point at every tick (R359, R360),
the plane's turns (R390), the PC samples (R372), the budget periods (R124), the intervals of the governors (R386, R387) and the limits of `qwait`
(R188). -/
namespace Sys2Proof.Machine

/-- The timebase advances by `n` ticks as far as the plane lets it. While a calm point is pending it ends a tick up to T only by the test of R359: where
every set is quiet the partition stops as the next tick begins. Else it does not pass T: there the partition stops (R360). What is left of the advance
is left on the agenda. -/
def State.advanceCalm (n : Nat) (s : State) : State :=
  match s.ctx.calm with
  | some t =>
    if 0 < n && decide (s.tick ≤ t) && s.allQuiet && s.planeDue.all (fun d => decide (s.tick < d)) then (s.stopAt (s.tick + 1) n).stopAll
    else if t < s.tick + n && s.planeDue.all (fun d => decide (t < d)) then (s.stopAt (max t s.tick) n).stopAll
    else s.advancePlane n
  | none => s.advancePlane n

/-- The chiplets with elements of the partition that make PC samples (R371, R372); elements outside it, and all of them while no context is present,
make none (log entry 77). -/
def State.samplers (s : State) : List Nat :=
  if s.ctx.present then (s.slips.filter (fun c => c.2.en.getLsbD 0 && c.2.en.getLsbD 2 && c.2.pcn != 0 &&
    (s.ctx.tiles.any (fun t => t / 256 == c.1) || s.ctx.moved.any (fun m => m.2 / 64 / 256 == c.1)))).map (·.1)
  else []

/-- Every element of the partition makes the PC sample that is due at this tick, if it has not yet (R372). -/
def State.takeSamples (s : State) : State :=
  if s.samplers.isEmpty then s else (List.range s.nLe).foldl (fun s le => s.pcSample le) s

/-- The governors decide and step down as far as that is due at this tick (R386, R387). -/
def State.governAll (s : State) : State :=
  (List.range 16).foldl (fun s c => (s.govern c (s.governor c).temp).stepDown c) s

/-- The waits at `qwait`s as the tick ends; a stop suspends them (R188, R361). -/
def State.closeWaits (s : State) : State :=
  if s.ctx.stopped then s
  else (s.ctx.elems.flatMap (fun e => (List.range 4).map (fun k => (e.1, k)))).foldl (fun s p => s.closeWait p.1 p.2) s

/-- The tick ends: what is due at it is done, so far as no step of the agenda has. -/
def State.closeTick (s : State) : State := s.takeSamples.beginPeriod.governAll.closeWaits

/-- The first multiple of `n` after `t`. -/
def nextMultiple (n t : Nat) : Nat := t + (n - t % n)

/-- The ticks at which something falls due that no advance may pass: a period, an interval, samples, a step of a governor, the limit of a wait. -/
def State.dues (s : State) : List Nat :=
  [nextMultiple 512 s.tick, nextMultiple 10000 s.tick] ++
  s.samplers.map (fun c => nextMultiple (s.slip c).pcn s.tick) ++
  s.govs.filterMap (fun g => if g.2.exceeds g.1 then g.2.stepped.map (· + 1000) else none) ++
  s.ctx.elems.flatMap (fun e => e.2.sets.toList.filterMap (fun t => t.waiting.map (fun w => w.1 + w.2.2)))

/-- The next of them. -/
def State.nextDue (s : State) : Nat := (s.dues.filter (fun d => decide (s.tick < d))).foldl min (nextMultiple 512 s.tick)

/-- The timebase advances by `n` ticks (R6, R15): what is due at this tick is done before it ends, and no later tick with something due is passed; the
rest of the advance is left on the agenda (log entry 1). -/
def State.advanceTime (n : Nat) (s : State) : State :=
  if n = 0 then s.advanceCalm 0
  else
    let s := s.closeTick
    let d := s.nextDue
    if d < s.tick + n then ({ s with agenda := .advance (s.tick + n - d) :: s.agenda } : State).advanceCalm (d - s.tick) else s.advanceCalm n

/-- `COOPERATIVE_SWITCH` (R359): where every set is quiet at a tick up to T, the tick ends, and the switch begins with the next one. An advance of the
timebase makes the same test as it ends such a tick (`State.advanceCalm`). -/
def execCooperativeSwitch (s : State) : Host.Outcome State Fault Refusal :=
  match s.ctx.calm with
  | some t => .next (if s.tick ≤ t && s.allQuiet then s.advanceTime 1 else s)
  | none => .next s

end Sys2Proof.Machine
end

