-- ==== Sys2Proof/Machine/Dispatch.lean ====
section
/-! DEFINITION. The meaning of every instruction: one arm for each row of spec/opcode_table.json. -/
namespace Sys2Proof.Machine

/-- One instruction executed: a word instruction for the set that `cur` names, or a step of another agent. -/
def exec (i : Instr) (s : State) : Host.Outcome State Fault Refusal :=
  match i with
  | .add d a b => Sys2Proof.Machine.execAdd d a b s
  | .sub d a b => Sys2Proof.Machine.execSub d a b s
  | .and d a b => Sys2Proof.Machine.execAnd d a b s
  | .or d a b => Sys2Proof.Machine.execOr d a b s
  | .xor d a b => Sys2Proof.Machine.execXor d a b s
  | .nor d a b => Sys2Proof.Machine.execNor d a b s
  | .sll d a b => Sys2Proof.Machine.execSll d a b s
  | .srl d a b => Sys2Proof.Machine.execSrl d a b s
  | .sra d a b => Sys2Proof.Machine.execSra d a b s
  | .rol d a b => Sys2Proof.Machine.execRol d a b s
  | .slt d a b => Sys2Proof.Machine.execSlt d a b s
  | .sltn d a b => Sys2Proof.Machine.execSltn d a b s
  | .min d a b => Sys2Proof.Machine.execMin d a b s
  | .max d a b => Sys2Proof.Machine.execMax d a b s
  | .minn d a b => Sys2Proof.Machine.execMinn d a b s
  | .maxn d a b => Sys2Proof.Machine.execMaxn d a b s
  | .mul d a b => Sys2Proof.Machine.execMul d a b s
  | .mulh d a b => Sys2Proof.Machine.execMulh d a b s
  | .mulhn d a b => Sys2Proof.Machine.execMulhn d a b s
  | .div d a b => Sys2Proof.Machine.execDiv d a b s
  | .divn d a b => Sys2Proof.Machine.execDivn d a b s
  | .rem d a b => Sys2Proof.Machine.execRem d a b s
  | .remn d a b => Sys2Proof.Machine.execRemn d a b s
  | .clz d a => Sys2Proof.Machine.execClz d a s
  | .ctz d a => Sys2Proof.Machine.execCtz d a s
  | .popc d a => Sys2Proof.Machine.execPopc d a s
  | .bswap d a => Sys2Proof.Machine.execBswap d a s
  | .bext d a b => Sys2Proof.Machine.execBext d a b s
  | .bins d a b => Sys2Proof.Machine.execBins d a b s
  | .sel d a b => Sys2Proof.Machine.execSel d a b s
  | .addw d a b => Sys2Proof.Machine.execAddw d a b s
  | .subw d a b => Sys2Proof.Machine.execSubw d a b s
  | .mulw d a b => Sys2Proof.Machine.execMulw d a b s
  | .lea0 d a b => Sys2Proof.Machine.execLea0 d a b s
  | .lea1 d a b => Sys2Proof.Machine.execLea1 d a b s
  | .lea2 d a b => Sys2Proof.Machine.execLea2 d a b s
  | .lea3 d a b => Sys2Proof.Machine.execLea3 d a b s
  | .addi d a imm => Sys2Proof.Machine.execAddi d a imm s
  | .andi d a imm => Sys2Proof.Machine.execAndi d a imm s
  | .ori d a imm => Sys2Proof.Machine.execOri d a imm s
  | .xori d a imm => Sys2Proof.Machine.execXori d a imm s
  | .slli d a imm => Sys2Proof.Machine.execSlli d a imm s
  | .srli d a imm => Sys2Proof.Machine.execSrli d a imm s
  | .srai d a imm => Sys2Proof.Machine.execSrai d a imm s
  | .slti d a imm => Sys2Proof.Machine.execSlti d a imm s
  | .sltni d a imm => Sys2Proof.Machine.execSltni d a imm s
  | .addwi d a imm => Sys2Proof.Machine.execAddwi d a imm s
  | .ldhi d imm => Sys2Proof.Machine.execLdhi d imm s
  | .pcadd d imm => Sys2Proof.Machine.execPcadd d imm s
  | .beq a b off => Sys2Proof.Machine.execBeq a b off s
  | .bne a b off => Sys2Proof.Machine.execBne a b off s
  | .blt a b off => Sys2Proof.Machine.execBlt a b off s
  | .bge a b off => Sys2Proof.Machine.execBge a b off s
  | .bltn a b off => Sys2Proof.Machine.execBltn a b off s
  | .bgen a b off => Sys2Proof.Machine.execBgen a b off s
  | .jal d off => Sys2Proof.Machine.execJal d off s
  | .jalr d a imm => Sys2Proof.Machine.execJalr d a imm s
  | .rpt c n kd ka kb => Sys2Proof.Machine.execRpt c n kd ka kb s
  | .callat d a b c => Sys2Proof.Machine.execCallat d a b c s
  | .bsiglt a lit off => Sys2Proof.Machine.execBsiglt a lit off s
  | .bsigge a lit off => Sys2Proof.Machine.execBsigge a lit off s
  | .ldn8 d a off => Sys2Proof.Machine.execLdn8 d a off s
  | .ldi8 d a off => Sys2Proof.Machine.execLdi8 d a off s
  | .ldn16 d a off => Sys2Proof.Machine.execLdn16 d a off s
  | .ldi16 d a off => Sys2Proof.Machine.execLdi16 d a off s
  | .ldn32 d a off => Sys2Proof.Machine.execLdn32 d a off s
  | .ldi32 d a off => Sys2Proof.Machine.execLdi32 d a off s
  | .ld64 d a off => Sys2Proof.Machine.execLd64 d a off s
  | .st8 d a off => Sys2Proof.Machine.execSt8 d a off s
  | .st16 d a off => Sys2Proof.Machine.execSt16 d a off s
  | .st32 d a off => Sys2Proof.Machine.execSt32 d a off s
  | .st64 d a off => Sys2Proof.Machine.execSt64 d a off s
  | .fld32 d a off => Sys2Proof.Machine.execFld32 d a off s
  | .fld64 d a off => Sys2Proof.Machine.execFld64 d a off s
  | .fst32 d a off => Sys2Proof.Machine.execFst32 d a off s
  | .fst64 d a off => Sys2Proof.Machine.execFst64 d a off s
  | .fldt32 d a off => Sys2Proof.Machine.execFldt32 d a off s
  | .fldt64 d a off => Sys2Proof.Machine.execFldt64 d a off s
  | .fstt32 d a off => Sys2Proof.Machine.execFstt32 d a off s
  | .fstt64 d a off => Sys2Proof.Machine.execFstt64 d a off s
  | .vld d a off => Sys2Proof.Machine.execVld d a off s
  | .vst d a off => Sys2Proof.Machine.execVst d a off s
  | .vldt d a off => Sys2Proof.Machine.execVldt d a off s
  | .vstt d a off => Sys2Proof.Machine.execVstt d a off s
  | .lda d a sc w => Sys2Proof.Machine.execLda d a sc w s
  | .stl d a sc w => Sys2Proof.Machine.execStl d a sc w s
  | .ldv d a b sc => Sys2Proof.Machine.execLdv d a b sc s
  | .stv d a sc => Sys2Proof.Machine.execStv d a sc s
  | .vrst a b => Sys2Proof.Machine.execVrst a b s
  | .aadd d a b w64 ar => Sys2Proof.Machine.execAadd d a b w64 ar s
  | .aand d a b w64 ar => Sys2Proof.Machine.execAand d a b w64 ar s
  | .aor d a b w64 ar => Sys2Proof.Machine.execAor d a b w64 ar s
  | .axor d a b w64 ar => Sys2Proof.Machine.execAxor d a b w64 ar s
  | .amin d a b w64 ar => Sys2Proof.Machine.execAmin d a b w64 ar s
  | .amax d a b w64 ar => Sys2Proof.Machine.execAmax d a b w64 ar s
  | .aminn d a b w64 ar => Sys2Proof.Machine.execAminn d a b w64 ar s
  | .amaxn d a b w64 ar => Sys2Proof.Machine.execAmaxn d a b w64 ar s
  | .aswp d a b w64 ar => Sys2Proof.Machine.execAswp d a b w64 ar s
  | .acas d a b w64 ar => Sys2Proof.Machine.execAcas d a b w64 ar s
  | .fenc d smp st ld sc => Sys2Proof.Machine.execFenc d smp st ld sc s
  | .fwait a => Sys2Proof.Machine.execFwait a s
  | .fence o sc => Sys2Proof.Machine.execFence o sc s
  | .fadd t d a b => Sys2Proof.Machine.execFadd t d a b s
  | .fsub t d a b => Sys2Proof.Machine.execFsub t d a b s
  | .fmul t d a b => Sys2Proof.Machine.execFmul t d a b s
  | .fdiv t d a b => Sys2Proof.Machine.execFdiv t d a b s
  | .fsqrt t d a => Sys2Proof.Machine.execFsqrt t d a s
  | .fmin t d a b => Sys2Proof.Machine.execFmin t d a b s
  | .fmax t d a b => Sys2Proof.Machine.execFmax t d a b s
  | .fabs t d a => Sys2Proof.Machine.execFabs t d a s
  | .fneg t d a => Sys2Proof.Machine.execFneg t d a s
  | .fsgn t d a b => Sys2Proof.Machine.execFsgn t d a b s
  | .fclass t d a => Sys2Proof.Machine.execFclass t d a s
  | .frnd t d a => Sys2Proof.Machine.execFrnd t d a s
  | .fmov t d a => Sys2Proof.Machine.execFmov t d a s
  | .ffma dbl d a b c => Sys2Proof.Machine.execFfma dbl d a b c s
  | .fcmp t cond d a b => Sys2Proof.Machine.execFcmp t cond d a b s
  | .fcvt dst src rm d a => Sys2Proof.Machine.execFcvt dst src rm d a s
  | .fmovi d imm => Sys2Proof.Machine.execFmovi d imm s
  | .ftc d a v lane => Sys2Proof.Machine.execFtc d a v lane s
  | .fstc d a v lane => Sys2Proof.Machine.execFstc d a v lane s
  | .vadd t d a b => Sys2Proof.Machine.execVadd t d a b s
  | .vsub t d a b => Sys2Proof.Machine.execVsub t d a b s
  | .vmul t d a b => Sys2Proof.Machine.execVmul t d a b s
  | .vmin t d a b => Sys2Proof.Machine.execVmin t d a b s
  | .vmax t d a b => Sys2Proof.Machine.execVmax t d a b s
  | .vabs t d a => Sys2Proof.Machine.execVabs t d a s
  | .vneg t d a => Sys2Proof.Machine.execVneg t d a s
  | .vand t d a b => Sys2Proof.Machine.execVand t d a b s
  | .vor t d a b => Sys2Proof.Machine.execVor t d a b s
  | .vxor t d a b => Sys2Proof.Machine.execVxor t d a b s
  | .vshl t d a b => Sys2Proof.Machine.execVshl t d a b s
  | .vshr t d a b => Sys2Proof.Machine.execVshr t d a b s
  | .vperm t d a b => Sys2Proof.Machine.execVperm t d a b s
  | .vbc t d a => Sys2Proof.Machine.execVbc t d a s
  | .vred t d a => Sys2Proof.Machine.execVred t d a s
  | .vins t d a l => Sys2Proof.Machine.execVins t d a l s
  | .vext t d a l => Sys2Proof.Machine.execVext t d a l s
  | .vdot t d a b => Sys2Proof.Machine.execVdot t d a b s
  | .vcmp t d a b => Sys2Proof.Machine.execVcmp t d a b s
  | .vsel t d a b => Sys2Proof.Machine.execVsel t d a b s
  | .vfmaF32 d a b c => Sys2Proof.Machine.execVfmaF32 d a b c s
  | .vfmaBf16 d a b c => Sys2Proof.Machine.execVfmaBf16 d a b c s
  | .vcvt dst src d a => Sys2Proof.Machine.execVcvt dst src d a s
  | .wadd d a => Sys2Proof.Machine.execWadd d a s
  | .wsub d a => Sys2Proof.Machine.execWsub d a s
  | .wmul d a => Sys2Proof.Machine.execWmul d a s
  | .wfma d a => Sys2Proof.Machine.execWfma d a s
  | .wmin d a => Sys2Proof.Machine.execWmin d a s
  | .wmax d a => Sys2Proof.Machine.execWmax d a s
  | .wcvt d a => Sys2Proof.Machine.execWcvt d a s
  | .wred d a => Sys2Proof.Machine.execWred d a s
  | .wexp d a => Sys2Proof.Machine.execWexp d a s
  | .wrsq d a => Sys2Proof.Machine.execWrsq d a s
  | .wact d a b => Sys2Proof.Machine.execWact d a b s
  | .wscl d a b => Sys2Proof.Machine.execWscl d a b s
  | .wcpy d a => Sys2Proof.Machine.execWcpy d a s
  | .wtrn d a => Sys2Proof.Machine.execWtrn d a s
  | .mld d a b c => Sys2Proof.Machine.execMld d a b c s
  | .mswp d a => Sys2Proof.Machine.execMswp d a s
  | .mrfp4 d a b c => Sys2Proof.Machine.execMrfp4 d a b c s
  | .mri8 d a b c => Sys2Proof.Machine.execMri8 d a b c s
  | .mri48 d a b c => Sys2Proof.Machine.execMri48 d a b c s
  | .mrbf d a b c => Sys2Proof.Machine.execMrbf d a b c s
  | .mrhf d a b c => Sys2Proof.Machine.execMrhf d a b c s
  | .mre43 d a b c => Sys2Proof.Machine.execMre43 d a b c s
  | .mre52 d a b c => Sys2Proof.Machine.execMre52 d a b c s
  | .mre45 d a b c => Sys2Proof.Machine.execMre45 d a b c s
  | .mdrn d a b c => Sys2Proof.Machine.execMdrn d a b c s
  | .mzro d a => Sys2Proof.Machine.execMzro d a s
  | .mcap d a b => Sys2Proof.Machine.execMcap d a b s
  | .mqry d a => Sys2Proof.Machine.execMqry d a s
  | .cpy d a b c => Sys2Proof.Machine.execCpy d a b c s
  | .cpym d a b c => Sys2Proof.Machine.execCpym d a b c s
  | .gath d a b c => Sys2Proof.Machine.execGath d a b c s
  | .scat d a b c => Sys2Proof.Machine.execScat d a b c s
  | .rbr d a b c => Sys2Proof.Machine.execRbr d a b c s
  | .coll d a b op => Sys2Proof.Machine.execColl d a b op s
  | .send d a n rel => Sys2Proof.Machine.execSend d a n rel s
  | .sendm d a n rel => Sys2Proof.Machine.execSendm d a n rel s
  | .doneI => Sys2Proof.Machine.execDone s
  | .mid d => Sys2Proof.Machine.execMid d s
  | .spawn d a b c => Sys2Proof.Machine.execSpawn d a b c s
  | .rdec d a => Sys2Proof.Machine.execRdec d a s
  | .alw d a => Sys2Proof.Machine.execAlw d a s
  | .qwait d p b => Sys2Proof.Machine.execQwait d p b s
  | .hset a b => Sys2Proof.Machine.execHset a b s
  | .hmask d a b => Sys2Proof.Machine.execHmask d a b s
  | .gbar d a => Sys2Proof.Machine.execGbar d a s
  | .gsend d a n rel => Sys2Proof.Machine.execGsend d a n rel s
  | .gid d imm => Sys2Proof.Machine.execGid d imm s
  | .stg a b => Sys2Proof.Machine.execStg a b s
  | .clone d a => Sys2Proof.Machine.execClone d a s
  | .merge d a b => Sys2Proof.Machine.execMerge d a b s
  | .krd d a imm => Sys2Proof.Machine.execKrd d a imm s
  | .xst d a b => Sys2Proof.Machine.execXst d a b s
  | .csub d a b => Sys2Proof.Machine.execCsub d a b s
  | .cskip d a b => Sys2Proof.Machine.execCskip d a b s
  | .cprom d a b => Sys2Proof.Machine.execCprom d a b s
  | .cstat d a sel => Sys2Proof.Machine.execCstat d a sel s
  | .boxt d a b m => Sys2Proof.Machine.execBoxt d a b m s
  | .trit d a b w => Sys2Proof.Machine.execTrit d a b w s
  | .spush a => Sys2Proof.Machine.execSpush a s
  | .spop d => Sys2Proof.Machine.execSpop d s
  | .edg d a b => Sys2Proof.Machine.execEdg d a b s
  | .cov d a b z => Sys2Proof.Machine.execCov d a b z s
  | .qmrg d a b p => Sys2Proof.Machine.execQmrg d a b p s
  | .dfx d a => Sys2Proof.Machine.execDfx d a s
  | .dfy d a => Sys2Proof.Machine.execDfy d a s
  | .smp d a b => Sys2Proof.Machine.execSmp d a b s
  | .smpl d a b l => Sys2Proof.Machine.execSmpl d a b l s
  | .txl d a b => Sys2Proof.Machine.execTxl d a b s
  | .sys imm => Sys2Proof.Machine.execSys imm s
  | .tret m => Sys2Proof.Machine.execTret m s
  | .yld => Sys2Proof.Machine.execYld s
  | .mark a imm => Sys2Proof.Machine.execMark a imm s
  | .csrr d csr => Sys2Proof.Machine.execCsrr d csr s
  | .csrw d a csr => Sys2Proof.Machine.execCsrw d a csr s
  | .csrs d a csr => Sys2Proof.Machine.execCsrs d a csr s
  | .csrc d a csr => Sys2Proof.Machine.execCsrc d a csr s
  | .launchWindowWrite w off bytes => Sys2Proof.Machine.execLaunchWindowWrite w off bytes s
  | .lstatRead w => Sys2Proof.Machine.execLstatRead w s
  | .launchDispatch w => Sys2Proof.Machine.execLaunchDispatch w s
  | .launchShareRetry w chiplet => Sys2Proof.Machine.execLaunchShareRetry w chiplet s
  | .messageArrival k => Sys2Proof.Machine.execMessageArrival k s
  | .activationDispatch le => Sys2Proof.Machine.execActivationDispatch le s
  | .spawnAtTarget k => Sys2Proof.Machine.execSpawnAtTarget k s
  | .spawnReply k => Sys2Proof.Machine.execSpawnReply k s
  | .rdecAtOwner k => Sys2Proof.Machine.execRdecAtOwner k s
  | .tileIdle tile => Sys2Proof.Machine.execTileIdle tile s
  | .stealRequest k => Sys2Proof.Machine.execStealRequest k s
  | .stealAnswer k => Sys2Proof.Machine.execStealAnswer k s
  | .budgetPeriodBoundary => Sys2Proof.Machine.execBudgetPeriodBoundary s
  | .budgetShareWrite shares => Sys2Proof.Machine.execBudgetShareWrite shares s
  | .splitQueue le ch => Sys2Proof.Machine.execSplitQueue le ch s
  | .cloneInstall le ch => Sys2Proof.Machine.execCloneInstall le ch s
  | .mergeExportQueue le ch => Sys2Proof.Machine.execMergeExportQueue le ch s
  | .mergeImportQueue le ch => Sys2Proof.Machine.execMergeImportQueue le ch s
  | .pageWalk tile va => Sys2Proof.Machine.execPageWalk tile va s
  | .shootdown va len => Sys2Proof.Machine.execShootdown va len s
  | .ldvWake le k => Sys2Proof.Machine.execLdvWake le k s
  | .scrub pa => Sys2Proof.Machine.execScrub pa s
  | .portUnblock le set => Sys2Proof.Machine.execPortUnblock le set s
  | .doneComplete le set => Sys2Proof.Machine.execDoneComplete le set s
  | .qwaitExpiry le set => Sys2Proof.Machine.execQwaitExpiry le set s
  | .copyCommandComplete tile k => Sys2Proof.Machine.execCopyCommandComplete tile k s
  | .remoteLocalAccess le k => Sys2Proof.Machine.execRemoteLocalAccess le k s
  | .wopExecute quad => Sys2Proof.Machine.execWopExecute quad s
  | .wopQuantumEnd quad => Sys2Proof.Machine.execWopQuantumEnd quad s
  | .collContribution k => Sys2Proof.Machine.execCollContribution k s
  | .gbarArrival k => Sys2Proof.Machine.execGbarArrival k s
  | .matrixCommandAccept k => Sys2Proof.Machine.execMatrixCommandAccept k s
  | .matrixCommandComplete tile => Sys2Proof.Machine.execMatrixCommandComplete tile s
  | .mqryAnswer k => Sys2Proof.Machine.execMqryAnswer k s
  | .clenWrite car v => Sys2Proof.Machine.execClenWrite car v s
  | .ncmtWrite car v => Sys2Proof.Machine.execNcmtWrite car v s
  | .tableCopyComplete car => Sys2Proof.Machine.execTableCopyComplete car s
  | .maskNotification k => Sys2Proof.Machine.execMaskNotification k s
  | .cpromAtArbiter k => Sys2Proof.Machine.execCpromAtArbiter k s
  | .arbiterTurn car => Sys2Proof.Machine.execArbiterTurn car s
  | .slotAnnouncement tile => Sys2Proof.Machine.execSlotAnnouncement tile s
  | .frameRead car => Sys2Proof.Machine.execFrameRead car s
  | .captureComplete tile buf => Sys2Proof.Machine.execCaptureComplete tile buf s
  | .fencComplete le set k => Sys2Proof.Machine.execFencComplete le set k s
  | .contextStart req => Sys2Proof.Machine.execContextStart req s
  | .calmPointBroadcast t => Sys2Proof.Machine.execCalmPointBroadcast t s
  | .cooperativeSwitch => Sys2Proof.Machine.execCooperativeSwitch s
  | .forcedStop => Sys2Proof.Machine.execForcedStop s
  | .contextResume ctx narrow wide => Sys2Proof.Machine.execContextResume ctx narrow wide s
  | .contextHalt => Sys2Proof.Machine.execContextHalt s
  | .pcSample le => Sys2Proof.Machine.execPcSample le s
  | .lossRecord tile => Sys2Proof.Machine.execLossRecord tile s
  | .allotmentRetire le k => Sys2Proof.Machine.execAllotmentRetire le k s
  | .launchCompletion k => Sys2Proof.Machine.execLaunchCompletion k s
  | .hostMemAccess acc => Sys2Proof.Machine.execHostMemAccess acc s
  | .cxlCacheRequest acc => Sys2Proof.Machine.execCxlCacheRequest acc s
  | .mbcmdWrite v => Sys2Proof.Machine.execMbcmdWrite v s
  | .spdmRequest nonce => Sys2Proof.Machine.execSpdmRequest nonce s
  | .governorInterval chiplet temp => Sys2Proof.Machine.execGovernorInterval chiplet temp s
  | .overcurrent chiplet milliamps => Sys2Proof.Machine.execOvercurrent chiplet milliamps s
  | .sramRailWindow quad => Sys2Proof.Machine.execSramRailWindow quad s
  | .powerGood => Sys2Proof.Machine.execPowerGood s
  | .registerWrite off bytes => Sys2Proof.Machine.execRegisterWrite off bytes s
  | .modulePowerOff => Sys2Proof.Machine.execModulePowerOff s
  | .softError at_ fatal => Sys2Proof.Machine.execSoftError at_ fatal s
  | .memoryOperationComplete le k => Sys2Proof.Machine.execMemoryOperationComplete le k s
  | .fetchLineFill le set => Sys2Proof.Machine.execFetchLineFill le set s
  | .calmPointChange change => Sys2Proof.Machine.execCalmPointChange change s
  | .mailboxCommandComplete => Sys2Proof.Machine.execMailboxCommandComplete s

end Sys2Proof.Machine
end

