-- ==== Sys2Proof/Machine/Cycle.lean ====
section
/-! DEFINITION. One arithmetic cycle of an element (R172, R173): which of its thread sets issues, the fetch of its instruction with the faults of
R133, its decoding, and the replays of a repeat frame (R196). -/
namespace Sys2Proof.Machine

/-! ### The next instruction of a set -/

/-- The word that the issuing set executes next: of its frame, else fetched at its pc. The error is a cause with its `tval`. -/
def State.nextWord (s : State) : Except (Nat × Nat) Code × State :=
  match s.th.frame with
  | some fr => (.ok fr.word, s)
  | none => s.fetchWord s.cur.1 s.th.inSup s.th.pc.toNat

/-- What the issuing set does when its turn comes: the decoded instruction is executed; a failed fetch traps (R133), and so does a word that
is no instruction, with cause 0x01 (R55). -/
def State.issue (s : State) : Host.Outcome State Fault Refusal :=
  match s.nextWord with
  | (.error e, s) => s.trap e.1 (BitVec.ofNat 64 e.2)
  | (.ok w, s) =>
    match decode w with
    | .error _ => s.trap 0x01 (w.setWidth 64)
    | .ok i => exec i s

/-! ### Which set issues -/

/-- The checks at issue let the instruction go, for a branch that may leave its set where it was. -/
def State.branchGoes (s : State) (i : Instr) : Bool :=
  let go := fun (rds wrs : List (Cls × Opnd)) => match gate rds wrs s with
    | .go _ => true
    | .stop _ => false
  match i with
  | .beq a b _ | .bne a b _ | .blt a b _ | .bge a b _ | .bltn a b _ | .bgen a b _ => go [(.g, a), (.g, b)] []
  | .jal d _ => go [] [(.g, d)]
  | .jalr d a _ => go [(.g, .reg a)] [(.g, d)]
  | .bsiglt a _ _ | .bsigge a _ _ => go [(.f, .reg a)] []
  | _ => false

/-- The issuing set did more than stall between two states: its pc, frame, run or another sign of progress changed, an `ldv` parked, a `qwait`
began to wait, a double trap stopped it, or a branch went to itself. -/
def State.progressed (s s' : State) : Bool :=
  let t := s.th
  let u := s'.thOf s.cur.1 s.cur.2
  u.pc != t.pc || u.frame != t.frame || u.run != t.run || u.ending != t.ending || u.yielded != t.yielded || u.susp != t.susp ||
  u.migrated != t.migrated || u.act != t.act || s'.ctx.halting != s.ctx.halting || u.waiting != t.waiting ||
  (s'.el s.cur.1).ops.any (fun o => o.set == s.cur.2 && o.parked) ||
  (match s.nextWord.1 with
   | .ok w => (match decode w with
     | .ok i => s.branchGoes i
     | .error _ => false)
   | .error _ => false)

/-- What came of a candidate's turn: it issued, it stalled with what that leaves, or the machine stops. -/
inductive Turn where
  | issued (s : State)
  | stalled (s : State)
  | ends (o : Host.Outcome State Fault Refusal)

/-- Set `k` of element `le` tries to issue (R172). -/
def State.attempt (le k : Nat) (s : State) : Turn :=
  if !s.canRun le k then .stalled s
  else
    let s := { s with cur := (le, k) }
    match s.issue with
    | .next s' => if s.progressed s' then .issued s' else .stalled s'
    | o => .ends o

/-- The candidates of a class in the order of their numbers: the element's own sets, and on slot 0 the guests from slots 1 to 3 (R233). A
migrated set is a candidate only there. -/
def State.candidates (s : State) (le : Nat) (cls : Bool) : List (Nat × Nat × Nat) :=
  let own := if cls then [(0, le, 3)] else [(0, le, 0), (1, le, 1), (2, le, 2)]
  let first := if cls then 1 else 3
  let guests := if s.physOf le % 4 = 0 then
      [1, 2, 3].flatMap (fun j => match s.leAt (s.physOf le + j) with
        | some m => (if cls then [3] else [0, 1, 2]).filterMap (fun k =>
            if (s.thOf m k).migrated then some (first + j - 1, m, k) else none)
        | none => [])
    else []
  own.filter (fun c => !(s.thOf le c.2.2).migrated) ++ guests

/-- The candidates in the order of a search that starts after number `last` (R172). -/
def after (last : Nat) (cs : List (Nat × Nat × Nat)) : List (Nat × Nat × Nat) :=
  cs.filter (fun c => decide (last < c.1)) ++ cs.filter (fun c => decide (c.1 ≤ last))

/-- The first candidate that issues, by number, with the state after it, and the state in which those before it have been passed over. -/
def firstIssue : List (Nat × Nat × Nat) → State → Except (Host.Outcome State Fault Refusal) (Option (Nat × State) × State)
  | [], s => .ok (none, s)
  | c :: cs, s =>
    match s.attempt c.2.1 c.2.2 with
    | .issued s' => .ok (some (c.1, s'), s)
    | .stalled s' => firstIssue cs s'
    | .ends o => .error o

/-- A class-0 set has issued. -/
def State.won (le last : Nat) (contested : Bool) (s : State) : State :=
  s.updEl le (fun e => { e with last0 := last, won0 := if contested then e.won0 + 1 else e.won0 })

/-- A class-1 set has issued. -/
def State.won1 (le last : Nat) (contested : Bool) (s : State) : State :=
  s.updEl le (fun e => { e with rotor := last, won3 := if contested then e.won3 + 1 else e.won3 })

/-- The sets in the cycle after a taken branch are ready again (R173). -/
def State.clearBubbles (cs : List (Nat × Nat × Nat)) (s : State) : State :=
  cs.foldl (fun s c => s.updThOf c.2.1 c.2.2 (fun t => { t with bubble := false })) s

/-- The set that issues in a cycle of element `le` (R172): in a contested cycle class 1 issues while it has won no more such cycles of the
budget period than class 0. -/
def State.arbitrate (le : Nat) (c1 c0 : List (Nat × Nat × Nat)) (s : State) : Host.Outcome State Fault Refusal :=
  match firstIssue (after (s.el le).rotor c1) s with
  | .error o => o
  | .ok (r1, s1) =>
    match firstIssue (after (s.el le).last0 c0) s1 with
    | .error o => o
    | .ok (r0, s0) =>
      match r1, r0 with
      | some (n1, a), some (n0, b) =>
        if (s.el le).won3 ≤ (s.el le).won0 then .next (a.won1 le n1 true) else .next (b.won le n0 true)
      | some (n1, a), none => .next (a.won1 le n1 false)
      | none, some (n0, b) => .next (b.won le n0 false)
      | none, none => .next s0

/-- One arithmetic cycle of element `le` (R172, R173). -/
def State.cycle (le : Nat) (s : State) : Host.Outcome State Fault Refusal :=
  let c1 := s.candidates le true
  let c0 := s.candidates le false
  let resting := (c1 ++ c0).filter (fun c => (s.thOf c.2.1 c.2.2).bubble)
  match s.arbitrate le c1 c0 with
  | .next s' => .next { s'.clearBubbles resting with cur := (le, s.cur.2) }
  | o => o

/-- A step of another agent, which has no encoding. -/
def isEvent (i : Instr) : Bool := (encode i).isNone

/-! ### Placing an instruction -/

/-- Where `withFetchWord` lets its instruction run: virtual address 2^40, which a 1 GiB page maps to place 0. -/
def fetchVa : Nat := 0x10000000000

/-- Element 0 with set T0 alone running at `fetchVa`. -/
def Element.fetching (e : Element) : Element :=
  let calm := e.sets.map (fun t => { t with run := Run.free, migrated := false })
  { e with
    fetchBuf := []
    sets := vset calm 0 { vget calm 0 with
      run := .user, pc := BitVec.ofNat 64 fetchVa, susp := none, frame := none, ending := none, yielded := false, waiting := none
      blocked := [], bubble := false } }

/-- `bs` at place 0 as the next instruction of element 0 (log entry 5): a page table that maps it, a running context of tile 0 alone, and set
T0 at its address. -/
def State.placeCode (bs : List Byte) (s : State) : State :=
  let m := Mem.writeN 0x4020 (leBytes 8 0x8003) (Mem.writeN 0x8000 (leBytes 8 0x5D) (Mem.writeN 0 bs s.mem))
  let tl := s.tile 0
  { s with
    power := true
    mem := m
    poison := s.poison.filter (fun w => decide (0x2000 ≤ w))
    agenda := []
    cur := (0, 0)
    tiles := Map.set 0 { tl with icache := [], tlb := [] } s.tiles
    ctx := { s.ctx with
      present := true, stopped := false, halted := false, halting := [], root := 0x4000, tiles := [0], moved := []
      elems := [(0, (s.el 0).fetching)] } }

end Sys2Proof.Machine
end

