-- ==== Sys2Proof/Machine/Step.lean ====
section
/-! DEFINITION. The step of the machine: the next entry of the agenda, or a cycle of the current element (log entry 1). -/
namespace Sys2Proof.Machine

/-- One step. With the module's power off only power good can come (R18, R389). An empty agenda lets the element of `cur` take an
arithmetic cycle; else the head of the agenda moves: an element's cycle, a step of another agent, or the 64-bit timebase, as far as
what falls due on its way (R6, R15, R124, R188, R359, R360, R372, R386, R387, R390). An instruction word is no step of another agent, and is passed over
there. Before each step comes what the last one lets the device do at once (R113, R376, R377), and what has changed under a queued w-op is noted,
with what follows (R10, R250). -/
def step (s : State) : Host.Outcome State Fault Refusal :=
  let s := s.atOnce.noted
  match s.agenda with
  | [] => if s.power then s.cycle s.cur.1 else .fault .poweredOff
  | a :: rest =>
    let t := { s with agenda := rest }
    match a with
    | .cycle le => if s.power then t.cycle le else .fault .poweredOff
    | .advance n => if s.power then .next (t.advanceTime n) else .fault .poweredOff
    | .event i =>
      if !s.power && i != .powerGood then .fault .poweredOff
      else if isEvent i && i.wellFormed then exec i t
      else .next t

/-- `s` with the instruction whose table bits are `w` placed where `step` fetches next (log entry 5). -/
def State.withFetchWord (s : State) (nbits w : Nat) : State :=
  s.placeCode (leBytes 4 (w % 2 ^ min nbits 32))

end Sys2Proof.Machine
end

