-- ==== Sys2Proof/Safety.lean ====
section
/-! DEFINITION. What counts as a safe run, in the terms that claims use: the machine's invariant, when an instruction issues and in which state
it then acts, and what "only the issuing set changes" means. Nothing of the machine depends on this file. -/
namespace Sys2Proof.Machine

/-! ### The invariant -/

/-- Memory stands in its canonical form. -/
def State.memInv (s : State) : Bool := Mem.wf s.mem

/-- A run is safe while memory keeps its canonical form: two memories that read alike are then equal data. -/
def State.safe (s : State) : Prop := s.memInv = true

/-! ### Issue -/

/-- What the checks at issue ask of an instruction that reads `rds` and writes `wrs`: every link named exists (R181); at most 8 words are
pending after its pushes (R179); every register read is sound or can be mended (R352); no register waits for an operation (R145, R151);
every port can serve (R180). -/
def State.readyFor (s : State) (rds wrs : List (Cls × Opnd)) : Bool :=
  (s.absentLink s.cur.1 (portUses rds ++ portUses wrs)).isNone &&
  (wordsAt .po (portUses wrs) == 0 || decide (s.th.pend.length + wordsAt .po (portUses wrs) ≤ 8)) &&
  ((s.th.readsOf rds).all (fun r => !s.th.badRegs.contains r || s.th.oplog.contains r)) &&
  ((regUses (rds ++ wrs)).all (fun r => !s.th.waits r)) &&
  ((portNeeds (portUses rds) (portUses wrs)).all (fun n => s.portReady s.cur.1 s.cur.2 n.1 n.2.1 n.2.2))

/-- The state in which an instruction that reads `rds` acts: parity errors of the registers read are mended and counted (R352, R154), and
the first read of a `gbar` token has acquired at device scope (R340). -/
def State.issued (rds : List (Cls × Opnd)) (s : State) : State :=
  (s.mended rds).barRead rds

/-- Nothing stands in the way of an instruction that reads `rds` and writes `wrs`, and issuing it has no effect of its own: no register
read has a parity error or holds an unread `gbar` token. -/
def State.clearFor (s : State) (rds wrs : List (Cls × Opnd)) : Bool :=
  s.readyFor rds wrs &&
  (s.th.readsOf rds).all (fun r => !s.th.badRegs.contains r) &&
  rds.all (fun u => match u with
    | (.g, .reg n) => !s.th.barTok.contains (s.th.inSup, n)
    | _ => true)

/-! ### What an instruction leaves alone -/

/-- `t` is `s` but for the issuing thread set, which is `u` in `t`. -/
def State.onlySet (s t : State) (u : ThreadSet) : Prop :=
  t.cur = s.cur ∧ t.th = u ∧ (∀ le k, (le, k % 4) ≠ (s.cur.1, s.cur.2 % 4) → t.thOf le k = s.thOf le k) ∧
  (∀ le, { t.el le with sets := (s.el le).sets } = s.el le) ∧
  { t with ctx := { t.ctx with elems := s.ctx.elems } } = s

/-- `u` is `t` but for general register `n` of the bank in use, the pc and the repeat frame, and what guards register `n` (R352). -/
def ThreadSet.onlyG (t u : ThreadSet) (n : RegNo) : Prop :=
  (∀ m, m ≠ n → u.rg m = t.rg m) ∧ (if t.inSup then u.g = t.g else u.sg = t.sg) ∧
  (∀ r, r ≠ (t.inSup, .g n) → (u.badRegs.contains r = t.badRegs.contains r)) ∧
  { u with g := t.g, sg := t.sg, pc := t.pc, frame := t.frame, oplog := t.oplog, badRegs := t.badRegs } = t

/-- `u` is `t` but for register `f[n]`, the accrued flags of `fcsr` (R67), the pc and the repeat frame, and what guards the register. -/
def ThreadSet.onlyF (t u : ThreadSet) (n : RegNo) : Prop :=
  (∀ m, m ≠ n → rget u.f m = rget t.f m) ∧ u.fcsr ||| 0xF8 = t.fcsr ||| 0xF8 ∧ t.fcsr &&& 0xF8 &&& ~~~u.fcsr = 0 ∧
  (∀ r, r ≠ (false, .f n) → (u.badRegs.contains r = t.badRegs.contains r)) ∧
  { u with f := t.f, fcsr := t.fcsr, pc := t.pc, frame := t.frame, oplog := t.oplog, badRegs := t.badRegs } = t

/-- `u` is `t` but for register `v[n]`, the accrued flags of `fcsr` (R67), the pc and the repeat frame, and what guards the register. -/
def ThreadSet.onlyV (t u : ThreadSet) (n : RegNo) : Prop :=
  (∀ m, m ≠ n → rget u.v m = rget t.v m) ∧ u.fcsr ||| 0xF8 = t.fcsr ||| 0xF8 ∧ t.fcsr &&& 0xF8 &&& ~~~u.fcsr = 0 ∧
  (∀ r, r ≠ (false, .v n) → (u.badRegs.contains r = t.badRegs.contains r)) ∧
  { u with v := t.v, fcsr := t.fcsr, pc := t.pc, frame := t.frame, oplog := t.oplog, badRegs := t.badRegs } = t

/-- `u` is `t` but for general register `n` of the bank in use, the accrued flags of `fcsr` (R67), the pc and the repeat frame, and what
guards the register. -/
def ThreadSet.onlyGFlags (t u : ThreadSet) (n : RegNo) : Prop :=
  t.onlyG { u with fcsr := t.fcsr } n ∧ u.fcsr ||| 0xF8 = t.fcsr ||| 0xF8 ∧ t.fcsr &&& 0xF8 &&& ~~~u.fcsr = 0

/-! ### The tables of the integer rules -/

/-- The bits of a word where `p` says so, as the number they make. -/
def bitsWhere (p : Nat → Bool) : Word := BitVec.ofNat 64 ((List.range 64).foldl (fun n k => n + (p k).toNat * 2 ^ k) 0)

/-- How many of the places 0 to 63 satisfy `p`. -/
def countWhere (p : Nat → Bool) : Word := BitVec.ofNat 64 ((List.range 64).filter p).length

/-- The two-operand operations of R189 and R190, by what they write: the operands d, a and b, and `g[d]` as a function of a and b, in terms
of integers, naturals and single bits. -/
def intTable : Instr → Option (Opnd × Opnd × Opnd × (Word → Word → Word))
  | .add d a b => some (d, a, b, fun a b => BitVec.ofNat 64 (a.toNat + b.toNat))
  | .sub d a b => some (d, a, b, fun a b => BitVec.ofInt 64 ((a.toNat : Int) - b.toNat))
  | .and d a b => some (d, a, b, fun a b => bitsWhere (fun k => a.getLsbD k && b.getLsbD k))
  | .or d a b => some (d, a, b, fun a b => bitsWhere (fun k => a.getLsbD k || b.getLsbD k))
  | .xor d a b => some (d, a, b, fun a b => bitsWhere (fun k => a.getLsbD k != b.getLsbD k))
  | .nor d a b => some (d, a, b, fun a b => bitsWhere (fun k => !(a.getLsbD k || b.getLsbD k)))
  | .sll d a b => some (d, a, b, fun a b => BitVec.ofNat 64 (a.toNat * 2 ^ (b.toNat % 64)))
  | .srl d a b => some (d, a, b, fun a b => BitVec.ofNat 64 (a.toNat / 2 ^ (b.toNat % 64)))
  | .sra d a b => some (d, a, b, fun a b => BitVec.ofInt 64 (a.toInt / 2 ^ (b.toNat % 64)))
  | .rol d a b => some (d, a, b, fun a b => BitVec.ofNat 64 (a.toNat * 2 ^ (b.toNat % 64) + a.toNat / 2 ^ (64 - b.toNat % 64)))
  | .slt d a b => some (d, a, b, fun a b => if a.toInt < b.toInt then 1 else 0)
  | .sltn d a b => some (d, a, b, fun a b => if a.toNat < b.toNat then 1 else 0)
  | .min d a b => some (d, a, b, fun a b => BitVec.ofInt 64 (min a.toInt b.toInt))
  | .max d a b => some (d, a, b, fun a b => BitVec.ofInt 64 (max a.toInt b.toInt))
  | .minn d a b => some (d, a, b, fun a b => BitVec.ofNat 64 (min a.toNat b.toNat))
  | .maxn d a b => some (d, a, b, fun a b => BitVec.ofNat 64 (max a.toNat b.toNat))
  | .mul d a b => some (d, a, b, fun a b => BitVec.ofNat 64 (a.toNat * b.toNat))
  | .mulh d a b => some (d, a, b, fun a b => BitVec.ofInt 64 (a.toInt * b.toInt / 2 ^ 64))
  | .mulhn d a b => some (d, a, b, fun a b => BitVec.ofNat 64 (a.toNat * b.toNat / 2 ^ 64))
  | .div d a b => some (d, a, b, fun a b => BitVec.ofInt 64 (if b.toInt = 0 then -1 else a.toInt.tdiv b.toInt))
  | .divn d a b => some (d, a, b, fun a b => BitVec.ofNat 64 (if b.toNat = 0 then 2 ^ 64 - 1 else a.toNat / b.toNat))
  | .rem d a b => some (d, a, b, fun a b => BitVec.ofInt 64 (if b.toInt = 0 then a.toInt else a.toInt - b.toInt * a.toInt.tdiv b.toInt))
  | .remn d a b => some (d, a, b, fun a b => BitVec.ofNat 64 (if b.toNat = 0 then a.toNat else a.toNat - b.toNat * (a.toNat / b.toNat)))
  | .bext d a b => some (d, a, b, fun a b => bitsWhere (fun k =>
      decide (k < min (b.toNat / 64 % 128) (64 - b.toNat % 64)) && a.getLsbD (b.toNat % 64 + k)))
  | .addw d a b => some (d, a, b, fun a b => BitVec.ofInt 64 (((a.toNat : Int) + b.toNat).bmod (2 ^ 32)))
  | .subw d a b => some (d, a, b, fun a b => BitVec.ofInt 64 (((a.toNat : Int) - b.toNat).bmod (2 ^ 32)))
  | .mulw d a b => some (d, a, b, fun a b => BitVec.ofInt 64 (((a.toNat : Int) * b.toNat).bmod (2 ^ 32)))
  | .lea0 d a b => some (d, a, b, fun a b => BitVec.ofNat 64 (a.toNat + b.toNat))
  | .lea1 d a b => some (d, a, b, fun a b => BitVec.ofNat 64 (a.toNat + 2 * b.toNat))
  | .lea2 d a b => some (d, a, b, fun a b => BitVec.ofNat 64 (a.toNat + 4 * b.toNat))
  | .lea3 d a b => some (d, a, b, fun a b => BitVec.ofNat 64 (a.toNat + 8 * b.toNat))
  | _ => none

/-- The one-operand operations of R189 and the immediate ones of R192, by what they write: d, a, and `g[d]` as a function of a. -/
def intTable1 : Instr → Option (Opnd × Opnd × (Word → Word))
  | .clz d a => some (d, a, fun a => countWhere (fun k => decide (a.toNat < 2 ^ (63 - k))))
  | .ctz d a => some (d, a, fun a => countWhere (fun k => a.toNat % 2 ^ (k + 1) == 0))
  | .popc d a => some (d, a, fun a => countWhere (fun k => a.getLsbD k))
  | .bswap d a => some (d, a, fun a => bitsWhere (fun k => a.getLsbD (8 * (7 - k / 8) + k % 8)))
  | .addi d a i => some (d, a, fun a => BitVec.ofInt 64 (a.toInt + i.toInt))
  | .andi d a i => some (d, a, fun a => bitsWhere (fun k => a.getLsbD k && i.getLsbD (min k 11)))
  | .ori d a i => some (d, a, fun a => bitsWhere (fun k => a.getLsbD k || i.getLsbD (min k 11)))
  | .xori d a i => some (d, a, fun a => bitsWhere (fun k => a.getLsbD k != i.getLsbD (min k 11)))
  | .slli d a i => some (d, a, fun a => BitVec.ofNat 64 (a.toNat * 2 ^ i.toNat))
  | .srli d a i => some (d, a, fun a => BitVec.ofNat 64 (a.toNat / 2 ^ i.toNat))
  | .srai d a i => some (d, a, fun a => BitVec.ofInt 64 (a.toInt / 2 ^ i.toNat))
  | .slti d a i => some (d, a, fun a => if a.toInt < i.toInt then 1 else 0)
  | .sltni d a i => some (d, a, fun a => if a.toNat < (BitVec.ofInt 64 i.toInt).toNat then 1 else 0)
  | .addwi d a i => some (d, a, fun a => BitVec.ofInt 64 ((a.toInt + i.toInt).bmod (2 ^ 32)))
  | _ => none

/-- The operations of R189 that also read `g[d]`, by what they write: d, a, b, and `g[d]` as a function of d, a and b. -/
def intTable3 : Instr → Option (RegNo × Opnd × Opnd × (Word → Word → Word → Word))
  | .bins d a b => some (d, a, b, fun d a b =>
      let lo := b.toNat % 64
      let w := min (b.toNat / 64 % 128) (64 - lo)
      bitsWhere (fun k => if lo ≤ k ∧ k < lo + w then a.getLsbD (k - lo) else d.getLsbD k))
  | .sel d a b => some (d, a, b, fun d a b => if d = 0 then b else a)
  | _ => none

/-- The conditional branches of R193: a, b, the offset and the condition on the operands. -/
def branchTable : Instr → Option (Opnd × Opnd × BitVec 12 × (Word → Word → Bool))
  | .beq a b off => some (a, b, off, fun x y => decide (x.toNat = y.toNat))
  | .bne a b off => some (a, b, off, fun x y => decide (x.toNat ≠ y.toNat))
  | .blt a b off => some (a, b, off, fun x y => decide (x.toInt < y.toInt))
  | .bge a b off => some (a, b, off, fun x y => decide (y.toInt ≤ x.toInt))
  | .bltn a b off => some (a, b, off, fun x y => decide (x.toNat < y.toNat))
  | .bgen a b off => some (a, b, off, fun x y => decide (y.toNat ≤ x.toNat))
  | _ => none

/-! ### Effects that several claims name -/

/-- a and b read in that order, `f` of them written to d, and the pc moved on (R191). -/
def State.binary (f : Word → Word → Word) (d a b : Opnd) (s : State) : State :=
  let x := s.takeG a
  let y := x.2.takeG b
  (y.2.putG d (f x.1 y.1)).advance

/-- a read, `f` of it written to d, and the pc moved on. -/
def State.unary (f : Word → Word) (d a : Opnd) (s : State) : State :=
  let x := s.takeG a
  (x.2.putG d (f x.1)).advance

/-- a and b read in that order, then `g[d]`; `f` of d, a and b written to `g[d]`, and the pc moved on. -/
def State.ternary (f : Word → Word → Word → Word) (d : RegNo) (a b : Opnd) (s : State) : State :=
  let x := s.takeG a
  let y := x.2.takeG b
  (y.2.wg d (f (y.2.rg d) x.1 y.1)).advance

/-- The word address `pc` + 4 + 4 · off, modulo 2^64 (R51, R193). -/
def targetOf {w : Nat} (pc : Word) (off : BitVec w) : Word := BitVec.ofInt 64 ((pc.toNat : Int) + 4 + 4 * off.toInt)

/-- The address base + sext(off) · n, modulo 2^64 (R157). -/
def addressOf (base : Word) (off : BitVec 12) (n : Nat) : Nat := (BitVec.ofInt 64 ((base.toNat : Int) + off.toInt * n)).toNat

/-! ### The tables of the memory rules (R157 to R159, R315) -/

/-- How the bytes of a load become a value, whether it is tagged, its bytes, d, a and the offset. -/
def loadTable : Instr → Option (LoadForm × Bool × Nat × Opnd × RegNo × BitVec 12)
  | .ldn8 d a off => some (.zx, false, 1, d, a, off)
  | .ldi8 d a off => some (.sx, false, 1, d, a, off)
  | .ldn16 d a off => some (.zx, false, 2, d, a, off)
  | .ldi16 d a off => some (.sx, false, 2, d, a, off)
  | .ldn32 d a off => some (.zx, false, 4, d, a, off)
  | .ldi32 d a off => some (.sx, false, 4, d, a, off)
  | .ld64 d a off => some (.zx, false, 8, d, a, off)
  | .fld32 d a off => some (.f32, false, 4, d, a, off)
  | .fld64 d a off => some (.f64, false, 8, d, a, off)
  | .fldt32 d a off => some (.f32, true, 4, d, a, off)
  | .fldt64 d a off => some (.f64, true, 8, d, a, off)
  | .vld d a off => some (.v128, false, 16, d, a, off)
  | .vldt d a off => some (.v128, true, 16, d, a, off)
  | _ => none

/-- The class of the data of a store, whether it is tagged, its bytes, d, a and the offset. -/
def storeTable : Instr → Option (LoadForm × Bool × Nat × Opnd × RegNo × BitVec 12)
  | .st8 d a off => some (.zx, false, 1, d, a, off)
  | .st16 d a off => some (.zx, false, 2, d, a, off)
  | .st32 d a off => some (.zx, false, 4, d, a, off)
  | .st64 d a off => some (.zx, false, 8, d, a, off)
  | .fst32 d a off => some (.f32, false, 4, d, a, off)
  | .fst64 d a off => some (.f64, false, 8, d, a, off)
  | .fstt32 d a off => some (.f32, true, 4, d, a, off)
  | .fstt64 d a off => some (.f64, true, 8, d, a, off)
  | .vst d a off => some (.v128, false, 16, d, a, off)
  | .vstt d a off => some (.v128, true, 16, d, a, off)
  | _ => none

/-- The atomics of R315 with one source: the operation, d, a, b, whether on 64 bits, and whether acquiring and releasing. -/
def atomicTable : Instr → Option (AtomOp × Opnd × RegNo × Opnd × Bool × Bool)
  | .aadd d a b w ar => some (.add, d, a, b, w, ar)
  | .aand d a b w ar => some (.and, d, a, b, w, ar)
  | .aor d a b w ar => some (.or, d, a, b, w, ar)
  | .axor d a b w ar => some (.xor, d, a, b, w, ar)
  | .amin d a b w ar => some (.min, d, a, b, w, ar)
  | .amax d a b w ar => some (.max, d, a, b, w, ar)
  | .aminn d a b w ar => some (.minn, d, a, b, w, ar)
  | .amaxn d a b w ar => some (.maxn, d, a, b, w, ar)
  | .aswp d a b w ar => some (.swp, d, a, b, w, ar)
  | _ => none

/-! ### The tables of the floating-point rules -/

/-- Checked operations on two operands (R200), by the function of Flags.lean that computes them. -/
def floatTable2 : Instr → Option (Fmt × (Nat → Nat → Opv → Opv → FpRes × Nat) × Opnd × Opnd × Opnd)
  | .fadd t d a b => some (ftypeFmt t, fpAdd (ftypeFmt t), d, a, b)
  | .fsub t d a b => some (ftypeFmt t, fun rm dr x y => fpAdd (ftypeFmt t) rm dr x y.negate, d, a, b)
  | .fmul t d a b => some (ftypeFmt t, fpMul (ftypeFmt t), d, a, b)
  | .fdiv t d a b => some (ftypeFmt t, fpDiv (ftypeFmt t), d, a, b)
  | _ => none

/-- Checked operations on one operand (R200, R203). -/
def floatTable1 : Instr → Option (Fmt × (Nat → Nat → Opv → FpRes × Nat) × Opnd × Opnd)
  | .fsqrt t d a => some (ftypeFmt t, fpSqrt (ftypeFmt t), d, a)
  | .frnd t d a => some (ftypeFmt t, fpRnd (ftypeFmt t), d, a)
  | _ => none

/-- Moves of the bits of one operand (R200), which leave a NaN's bits as they are (R61): the format and the new pattern from the old one. -/
def floatMoves1 : Instr → Option (Fmt × (Nat → Nat) × Opnd × Opnd)
  | .fabs t d a => some (ftypeFmt t, fun x => if ((ftypeFmt t).val x).isNaN then x else x % 2 ^ ((ftypeFmt t).w - 1), d, a)
  | .fneg t d a => some (ftypeFmt t, fun x =>
      if ((ftypeFmt t).val x).isNaN then x else (x + 2 ^ ((ftypeFmt t).w - 1)) % 2 ^ (ftypeFmt t).w, d, a)
  | .fmov t d a => some (ftypeFmt t, fun x => x, d, a)
  | _ => none

/-- Choices between two operands or of their bits (R200, R201): the format, the pattern and count from the operands. -/
def floatMoves2 : Instr → Option (Fmt × (Opv → Opv → Nat × Nat) × Opnd × Opnd × Opnd)
  | .fmin t d a b => some (ftypeFmt t, fpPick (ftypeFmt t) false, d, a, b)
  | .fmax t d a b => some (ftypeFmt t, fpPick (ftypeFmt t) true, d, a, b)
  | .fsgn t d a b => some (ftypeFmt t, fun x y =>
      if x.v.isNaN then (x.bits, 0)
      else (x.bits % 2 ^ ((ftypeFmt t).w - 1) + y.bits / 2 ^ ((ftypeFmt t).w - 1) % 2 * 2 ^ ((ftypeFmt t).w - 1), x.t), d, a, b)
  | _ => none

/-- A checked result that passes: `d` written with its count, the flags accrued, the pc moved on (R82, R198). -/
def State.retireF (r : FpRes × Nat) (d : Opnd) (s : State) : State :=
  ((s.putF d ⟨BitVec.ofNat 64 r.1.bits, r.2⟩).updTh (·.raise r.1.fl)).advance

/-! ### The short-vector rules -/

/-- The quad's unit may take a v-instruction of the issuing element (R248): no w-op is queued, or the element holds a grant. -/
def State.vecTurn (s : State) : Bool :=
  (Map.get Quad.start s.quads (s.quadOf s.cur.1)).wops.isEmpty ||
  (Map.get Quad.start s.quads (s.quadOf s.cur.1)).grants.contains s.cur.1

/-- The state in which a v-instruction that reads `rds` acts: a grant is used up while w-ops are queued (R248). -/
def State.vecIssued (rds : List (Cls × Opnd)) (s : State) : State :=
  if (Map.get Quad.start s.quads (s.quadOf s.cur.1)).wops.isEmpty then s.issued rds
  else (s.issued rds).takeGrant (s.quadOf s.cur.1)

/-- Lane operations on two sources without rounding (R240): the lane type, lane q's bits and count from the two registers, the flags, and
the operands. -/
def laneTable2 : Instr → Option (LaneType × (VReg → VReg → Nat → Nat × Nat) × (VReg → VReg → FpFlags) × Opnd × Opnd × Opnd)
  | .vmin t d a b => some (t, vPickLane t false, fun _ _ => 0, d, a, b)
  | .vmax t d a b => some (t, vPickLane t true, fun _ _ => 0, d, a, b)
  | .vand t d a b => some (t, fun x y q => ((laneBits t x q &&& laneBits t y q) % 2 ^ laneW t, 24), fun _ _ => 0, d, a, b)
  | .vor t d a b => some (t, fun x y q => ((laneBits t x q ||| laneBits t y q) % 2 ^ laneW t, 24), fun _ _ => 0, d, a, b)
  | .vxor t d a b => some (t, fun x y q => ((laneBits t x q ^^^ laneBits t y q) % 2 ^ laneW t, 24), fun _ _ => 0, d, a, b)
  | .vshl t d a b => some (t, fun x y q => (laneBits t x q * 2 ^ (laneBits t y q % laneW t) % 2 ^ laneW t, 24), fun _ _ => 0, d, a, b)
  | .vshr t d a b => some (t, fun x y q =>
      (laneOfInt (laneW t) (laneInt t (laneBits t x q) / 2 ^ (laneBits t y q % laneW t)) % 2 ^ laneW t, 24), fun _ _ => 0, d, a, b)
  | .vperm t d a b => some (t, fun x y q => laneMoved t x (laneBits t y q % laneN t), fun _ _ => 0, d, a, b)
  | _ => none

/-- Arithmetic on lanes (R240): floating lanes by a function of Flags.lean, integer lanes by one on integers, modulo their width. -/
def laneArith : Instr → Option (LaneType × (Fmt → Nat → Nat → Opv → Opv → FpRes × Nat) × (Int → Int → Int) × Opnd × Opnd × Opnd)
  | .vadd t d a b => some (t, fpAdd, fun x y => x + y, d, a, b)
  | .vsub t d a b => some (t, fun f rm dr x y => fpAdd f rm dr x y.negate, fun x y => x - y, d, a, b)
  | .vmul t d a b => some (t, fpMul, fun x y => x * y, d, a, b)
  | _ => none

/-- A lane's result fails the check of `sigctl` (R82, R241). -/
def laneBad (t : ThreadSet) (l : LaneRes) : Bool := t.sigctl.getLsbD 9 && t.fails l.r.2

/-- The flags that the lanes of a result raise. -/
def laneFlags (rs : List LaneRes) : FpFlags := rs.foldl (fun a l => a ||| l.r.1.fl) 0

/-- The register that lane results make. -/
def laneReg (t : LaneType) (rs : List LaneRes) : VReg := vregOf t (rs.map (fun l => (l.r.1.bits, l.r.2)))

/-- The doldrums trap of lane `q` with result `l`: the counts and the slot in `tval`, the whole result held with its pops (R83, R84, R241). -/
def State.laneTrap (t : LaneType) (rds : List (Cls × Opnd)) (d : Opnd) (rs : List LaneRes) (q : Nat) (l : LaneRes) (s : State) :
    Host.Outcome State Fault Refusal :=
  s.doldrums (doldrumsVal l.tc l.tb l.ta l.r.2 2 (laneSlot t q) (Opnd.field d)) ⟨[outV d (laneReg t rs)], laneFlags rs, portUses rds⟩

/-- A checked vector result that passes: `d` written, the flags accrued, the pc moved on. -/
def State.retireV (t : LaneType) (rs : List LaneRes) (d : Opnd) (s : State) : State :=
  ((s.putV d (laneReg t rs)).updTh (·.raise (laneFlags rs))).advance

/-! ### What floating-point and vector instructions read and write -/

/-- A floating-point or vector instruction by its registers: what it reads, the class and operand of its destination, the mode under which it
rounds where it rounds, the bit of `sigctl` that has its result checked where it is checked, whether it can raise flags, and whether it runs on
the quad's vector unit. -/
structure FvRow where
  rds : List (Cls × Opnd)
  cls : Cls
  d : Opnd
  rounds : Option RmField
  checked : Option Nat
  flags : Bool
  vec : Bool
  deriving DecidableEq, Repr

/-- A checked scalar operation (R82, R200, R205). -/
def FvRow.arith (rds : List (Cls × Opnd)) (d : Opnd) (m : RmField) : FvRow := ⟨rds, .f, d, some m, some 8, true, false⟩

/-- A scalar operation that moves or tests bits (R199 to R202, R206, R208, R209). -/
def FvRow.move (rds : List (Cls × Opnd)) (c : Cls) (d : Opnd) (flags : Bool) : FvRow := ⟨rds, c, d, none, none, flags, false⟩

/-- A lane operation that rounds nothing (R240). -/
def FvRow.lanes (rds : List (Cls × Opnd)) (c : Cls) (d : Opnd) (flags : Bool) : FvRow := ⟨rds, c, d, none, none, flags, true⟩

/-- Lane arithmetic (R240, R241): floating results are rounded and checked, integer ones are not. -/
def FvRow.laneArith (float : Bool) (rds : List (Cls × Opnd)) (d : Opnd) : FvRow :=
  if float then ⟨rds, .v, d, some .dyn, some 9, true, true⟩ else .lanes rds .v d false

/-- The floating-point and vector instructions of R200 to R209 and R240. -/
def fvTable : Instr → Option FvRow
  | .fadd _ d a b | .fsub _ d a b | .fmul _ d a b | .fdiv _ d a b => some (.arith [(.f, a), (.f, b)] d .dyn)
  | .fsqrt _ d a | .frnd _ d a => some (.arith [(.f, a)] d .dyn)
  | .ffma _ d a b c => some (.arith [(.f, a), (.f, b), (.f, c)] d .dyn)
  | .fcvt dst src m d a => match cvtFmt src, cvtFmt dst with
    | some _, some _ => some (.arith [(.f, a)] d m)
    | none, some _ => some (.arith [(.g, a)] d m)
    | some _, none => some ⟨[(.f, a)], .g, d, some m, none, true, false⟩
    | none, none => none
  | .fmin _ d a b | .fmax _ d a b | .fsgn _ d a b => some (.move [(.f, a), (.f, b)] .f d false)
  | .fabs _ d a | .fneg _ d a | .fmov _ d a => some (.move [(.f, a)] .f d false)
  | .fcmp _ _ d a b => some (.move [(.f, a), (.f, b)] .g d true)
  | .fclass _ d a => some (.move [(.f, a)] .g d false)
  | .fmovi d _ => some (.move [] .f d false)
  | .ftc d a v _ => some (.move [(if v then .v else .f, .reg a)] .g d false)
  | .fstc d a v _ => some (.move [(.g, a)] (if v then .v else .f) (.reg d) false)
  | .vadd t d a b | .vsub t d a b | .vmul t d a b | .vdot t d a b => some (.laneArith (laneFmt t).isSome [(.v, a), (.v, b)] d)
  | .vred t d a => some (.laneArith (laneFmt t).isSome [(.v, a)] d)
  | .vfmaF32 d a b c | .vfmaBf16 d a b c => some (.laneArith true [(.v, a), (.v, b), (.v, c)] d)
  | .vcvt dst src d a => some (if (laneFmt dst).isSome || (laneFmt src).isSome
      then ⟨[(.v, a)], .v, d, some .dyn, if (laneFmt dst).isSome then some 9 else none, true, true⟩ else .lanes [(.v, a)] .v d true)
  | .vmin _ d a b | .vmax _ d a b | .vand _ d a b | .vor _ d a b | .vxor _ d a b | .vshl _ d a b | .vshr _ d a b | .vperm _ d a b =>
    some (.lanes [(.v, a), (.v, b)] .v d false)
  | .vabs _ d a | .vneg _ d a => some (.lanes [(.v, a)] .v d false)
  | .vcmp _ d a b => some (.lanes [(.v, a), (.v, b)] .v d true)
  | .vsel _ d a b => some (.lanes [(.v, a), (.v, b), (.v, .reg d)] .v (.reg d) false)
  | .vbc t d a => some (.lanes [(scalarCls t, a)] .v d false)
  | .vins t d a _ => some (.lanes [(scalarCls t, a), (.v, .reg d)] .v (.reg d) false)
  | .vext t d a _ => some (.lanes [(.v, a)] (scalarCls t) d false)
  | _ => none

/-! ### Engine commands -/

/-- The w-ops (R246): the sub-operation, d, a and the scalar operand. -/
def wopTable : Instr → Option (WSub × RegNo × RegNo × List Opnd)
  | .wadd d a => some (.add, d, a, [])
  | .wsub d a => some (.sub, d, a, [])
  | .wmul d a => some (.mul, d, a, [])
  | .wfma d a => some (.fma, d, a, [])
  | .wmin d a => some (.min, d, a, [])
  | .wmax d a => some (.max, d, a, [])
  | .wcvt d a => some (.cvt, d, a, [])
  | .wred d a => some (.red, d, a, [])
  | .wexp d a => some (.exp, d, a, [])
  | .wrsq d a => some (.rsq, d, a, [])
  | .wact d a b => some (.act, d, a, [b])
  | .wscl d a b => some (.scl, d, a, [b])
  | .wcpy d a => some (.cpy, d, a, [])
  | .wtrn d a => some (.trn, d, a, [])
  | _ => none

/-- The matrix commands (R276 to R281): the opcode, d, the capability's register, the registers read beside it, and the right it needs. -/
def matrixTable : Instr → Option (MxOp × RegNo × RegNo × List (Cls × Opnd) × Nat)
  | .mld d a b c => some (.mld, d, a, [(.g, .reg b), (.g, .reg c)], 0x8000)
  | .mswp d a => some (.mswp, d, a, [], 0x8000)
  | .mrfp4 d a b c => some (.mrfp4, d, a, [(.g, .reg b), (.f, .reg c)], 0x4000)
  | .mri8 d a b c => some (.mri8, d, a, [(.g, .reg b), (.f, .reg c)], 0x4000)
  | .mri48 d a b c => some (.mri48, d, a, [(.g, .reg b), (.f, .reg c)], 0x4000)
  | .mrbf d a b c => some (.mrbf, d, a, [(.g, .reg b), (.f, .reg c)], 0x4000)
  | .mrhf d a b c => some (.mrhf, d, a, [(.g, .reg b), (.f, .reg c)], 0x4000)
  | .mre43 d a b c => some (.mre43, d, a, [(.g, .reg b), (.f, .reg c)], 0x4000)
  | .mre52 d a b c => some (.mre52, d, a, [(.g, .reg b), (.f, .reg c)], 0x4000)
  | .mre45 d a b c => some (.mre45, d, a, [(.g, .reg b), (.f, .reg c)], 0x4000)
  | .mdrn d a b c => some (.mdrn, d, a, [(.g, .reg b), (.f, .reg c)], 0x2000)
  | .mzro d a => some (.mzro, d, a, [], 0x1000)
  | _ => none

/-! ### Rendering -/

/-- The instructions of slot 0 (R233). -/
def slot0Instr : Instr → Bool
  | .boxt _ _ _ _ | .trit _ _ _ _ | .spush _ | .spop _ | .edg _ _ _ | .cov _ _ _ _ | .qmrg _ _ _ _ | .dfx _ _ | .dfy _ _ | .smp _ _ _
  | .smpl _ _ _ _ | .txl _ _ _ => true
  | _ => false

/-- The issuing thread executes on slot 0 (R233). -/
def State.onSlot0 (s : State) : Bool := s.physOf s.cur.1 % 4 == 0 || s.th.migrated

/-- The structure of `n` bytes at `ea`, of its own alignment `al`, is readable: its first `m` bytes are `bs`, and the state after the read
is `t`. -/
def State.structAt (s : State) (ea n m al : Nat) (bs : List Byte) (t : State) : Prop :=
  ea % al = 0 ∧ ∃ g u, s.resolve (s.issuer 0) .special false ea n = (.ok g, u) ∧ u.structBehind ea m = false ∧
    u.readStruct (u.issuer 0) ea 4 (m / 4) = (.ok bs, t)

/-- The structure of `n` bytes at `ea` cannot be read: it is misaligned, its Check fails, or one of its first `m` bytes is poisoned; the trap
is taken in `t` with its cause and `tval` (R155, R156, R234, R235, R291). -/
def State.structFails (s : State) (ea n m al cause : Nat) (tval : Word) (t : State) : Prop :=
  (ea % al ≠ 0 ∧ cause = 0x04 ∧ tval = BitVec.ofNat 64 ea ∧ t = s) ∨
  (ea % al = 0 ∧ s.resolve (s.issuer 0) .special false ea n = (.error cause, t) ∧ tval = BitVec.ofNat 64 ea) ∨
  (ea % al = 0 ∧ ∃ g u a, s.resolve (s.issuer 0) .special false ea n = (.ok g, u) ∧ u.structBehind ea m = false ∧
    u.readStruct (u.issuer 0) ea 4 (m / 4) = (.error (cause, a), t) ∧ tval = BitVec.ofNat 64 a)

/-- `g[d]` of the issuing set waits for command `id` (R151); `g0` never waits. -/
def State.awaits (s : State) (d : RegNo) (id : Nat) : Bool :=
  d == 0 || s.th.pending.any (fun p => p.1 == s.th.inSup && p.2.1 == RegKey.g d && p.2.2 == id)

end Sys2Proof.Machine
end

