-- ==== Sys2Proof/Certificates/Slice0/Obligations.lean ====
section
/-! DEFINITION. The statements for the provers: each formalises rules of spec/, named in its docstring and in OBLIGATIONS.json. A completion
statement gives the next state with the operations that the meanings share, applied to the state in which the instruction acts
(`State.issued`), for every form of the operands. -/

open Sys2Proof Sys2Proof.Machine

/-- Decoding the word of a well-formed instruction gives the instruction back (R36, R39, R40, R41, R42, R55). -/
def Obligations.EncodedInstructionsDecodeToThemselves : Prop :=
  ∀ (i : Instr) (w : Code), i.wellFormed = true → encode i = some w → decode w = .ok i

/-- A word that decodes has one meaning: its instruction is well formed and encodes to that word (R55). -/
def Obligations.DecodedWordsEncodeBack : Prop :=
  ∀ (w : Code) (i : Instr), decode w = .ok i → i.wellFormed = true ∧ encode i = some w

/-- Example words written out in the spec decode to the instructions it names. -/
def Obligations.SpecExampleWordsDecode : Prop :=
  decode 0x01104080 = .ok (.add (.reg 4) (.reg 4) (.reg 2)) ∧
  decode 0x0230CFFF = .ok (.addi (.reg 12) (.reg 12) (-1)) ∧
  decode 0x140C4005 = .ok (.bltn (.reg 3) (.reg 4) 5) ∧
  decode 0x1A55400C = .ok (.bsiglt 21 20 12) ∧
  decode 0x26103001 = .ok (.ld64 (.reg 4) 3 1) ∧
  decode 0x370C7023 = .ok (.lda (.reg 3) 7 .dv .w64) ∧
  decode 0x3F000015 = .ok (.fence .ar .sy) ∧
  decode 0x415480C1 = .ok (.fsub .f32 (.reg 21) (.reg 8) (.reg 3)) ∧
  decode 0x46093009 = .ok (.fcmp .f32 .lt (.reg 2) (.reg 19) (.reg 0)) ∧
  decode 0x51105191 = .ok (.vdot .bf16 (.reg 4) (.reg 5) (.reg 6)) ∧
  decode 0x6D1461C1 = .ok (.mrbf 5 6 7 1) ∧
  decode 0x7D109284 = .ok (.coll 4 9 10 .minnN64) ∧
  decode 0x80247089 = .ok (.send 9 7 2 (some .dv)) ∧
  decode 0x9B0C1040 = .ok (.cstat (.reg 3) 1 1) ∧
  decode 0xA0100209 = .ok (.boxt 4 0 8 9)

/-- A set that issues runs the instruction its word decodes to, or traps (R55, R133, R196). -/
def Obligations.IssueRunsTheDecodedInstruction : Prop :=
  ∀ s s1 : State,
    (∀ e, s.nextWord = (.error e, s1) → s.issue = s1.trap e.1 (BitVec.ofNat 64 e.2)) ∧
    (∀ w e, s.nextWord = (.ok w, s1) → decode w = .error e → s.issue = s1.trap 0x01 (w.setWidth 64)) ∧
    (∀ w i, s.nextWord = (.ok w, s1) → decode w = .ok i → s.issue = exec i s1)

/-- With one set that can run, a step is exec of its decoded instruction (agenda: log entry 1) (R172, R173, R6; log entry 71). -/
def Obligations.StepRunsTheOneReadySet : Prop :=
  ∀ s0 : State, s0.power = true → s0.agenda = [] →
    let s := s0.atOnce.noted
    let le := s.cur.1
    let all := s.candidates le true ++ s.candidates le false
    let resting := all.filter (fun c => (s.thOf c.2.1 c.2.2).bubble)
    (∀ (s1 t : State) (n m k : Nat) (w : Code) (i : Instr),
      (n, m, k) ∈ s.candidates le (k == 3) → (∀ c ∈ all, s.canRun c.2.1 c.2.2 = true ↔ c = (n, m, k)) →
      ({ s with cur := (m, k) } : State).nextWord = (.ok w, s1) → decode w = .ok i → exec i s1 = .next t →
      ({ s with cur := (m, k) } : State).progressed t = true →
      step s0 = .next { (if k = 3 then t.won1 le n false else t.won le n false).clearBubbles resting with cur := (le, s.cur.2) }) ∧
    ((∀ c ∈ all, s.canRun c.2.1 c.2.2 = false) → step s0 = .next { s.clearBubbles resting with cur := (le, s.cur.2) })

/-- A step with an agenda takes its head: an element cycle, a step of another agent, or the timebase (log entry 1) (R6, R15, R113, R124,
R188, R217, R359, R360, R372, R376, R377, R390; log entries 1, 10, 71). -/
def Obligations.StepRunsTheHeadOfTheAgenda : Prop :=
  ∀ (s0 : State) (rest : List Agenda), s0.power = true →
    let r := s0.atOnce
    let s := r.noted
    (∀ le, s.agenda = .cycle le :: rest → step s0 = ({ s with agenda := rest } : State).cycle le) ∧
    (∀ n, s.agenda = .advance n :: rest → step s0 = .next (({ s with agenda := rest } : State).advanceTime n)) ∧
    (∀ i, s.agenda = .event i :: rest → encode i = none → i.wellFormed = true → step s0 = exec i { s with agenda := rest }) ∧
    (∀ i w, s.agenda = .event i :: rest → encode i = some w → step s0 = .next { s with agenda := rest }) ∧
    s.timebase.toNat = s.tick % 2 ^ 64 ∧
    r = { s0 with
      ctx := { s0.ctx with elems := r.ctx.elems, launches := r.ctx.launches, flights := r.ctx.flights, released := r.ctx.released }
      tiles := r.tiles, mem := r.mem, poison := r.poison, latent := r.latent, nextId := r.nextId, windows := r.windows } ∧
    ((∀ e ∈ s0.ctx.elems, ∀ a ∈ e.2.allots, s0.live e.1 a = true) → s0.ctx.released = [] → r = s0) ∧
    s = { r with quads := s.quads, mem := s.mem, tiles := s.tiles, ctx := { r.ctx with unspec := s.ctx.unspec, elems := s.ctx.elems }, free := s.free } ∧
    (s.ctx.unspec = false → s = { r with quads := s.quads }) ∧
    ((∀ q ∈ s0.quads, q.2.wops = []) → s0.ctx.unspec = false → s = r) ∧
    (∀ (v : State) (n : Nat), 0 < n → let c := v.closeTick
      (c.tick + n ≤ c.nextDue → v.advanceTime n = c.advanceCalm n) ∧
      (c.nextDue < c.tick + n → v.advanceTime n =
        ({ c with agenda := .advance (c.tick + n - c.nextDue) :: c.agenda } : State).advanceCalm (c.nextDue - c.tick))) ∧
    (∀ (v : State), v.tick < v.nextDue ∧ (∀ k, v.tick < 512 * k → v.nextDue ≤ 512 * k) ∧ (∀ k, v.tick < 10000 * k → v.nextDue ≤ 10000 * k) ∧
      (∀ e ∈ v.ctx.elems, ∀ t ∈ e.2.sets.toList, ∀ w, t.waiting = some w → v.tick < w.1 + w.2.2 → v.nextDue ≤ w.1 + w.2.2) ∧
      (v.samplers = [] → v.boundaryDue = false → (∀ c, c < 16 → v.intervalDue c = false ∧ v.stepDue c = false) →
        (∀ e ∈ v.ctx.elems, ∀ k, k < 4 → (v.thOf e.1 k).waiting = none) → v.closeTick = v)) ∧
    (∀ (v : State) (n : Nat), (∀ d, v.turnDue = some d → v.tick + n < d) → (∀ d, v.slotEnd = some d → v.tick + n < d) →
      (∀ t, v.ctx.calm = some t → v.tick + n ≤ t ∧ (n = 0 ∨ v.allQuiet = false)) → v.advanceCalm n = { v with tick := v.tick + n }) ∧
    (∀ (v : State) (n d : Nat), v.slotEnd = some d → d ≤ v.tick + n →
      (∀ t, v.ctx.calm = some t → (d ≤ t ∨ v.tick + n ≤ t) ∧ (n = 0 ∨ v.allQuiet = false ∨ d ≤ v.tick)) →
      v.advanceCalm n = ({ v with tick := d, agenda := .advance (v.tick + n - d) :: v.agenda } : State).endSlot) ∧
    (∀ (v : State) (n d : Nat), v.turnDue = some d → d ≤ v.tick + n →
      (∀ c, v.ctx.calm = some c → (d ≤ c ∨ v.tick + n ≤ c) ∧ (n = 0 ∨ v.allQuiet = false ∨ d ≤ v.tick)) → (v.advanceCalm n).tick = d) ∧
    (∀ (v : State) (n c : Nat), v.ctx.calm = some c → v.tick ≤ c → 0 < n → v.allQuiet = true →
      (∀ d, v.turnDue = some d → v.tick < d) → (∀ d, v.slotEnd = some d → v.tick < d) →
      v.advanceCalm n = ({ v with tick := v.tick + 1, agenda := .advance (n - 1) :: v.agenda } : State).stopAll) ∧
    (∀ (v : State) (n c : Nat), v.ctx.calm = some c → v.tick ≤ c → c < v.tick + n → v.allQuiet = false →
      (∀ d, v.turnDue = some d → c < d) → (∀ d, v.slotEnd = some d → c < d) →
      v.advanceCalm n = ({ v with tick := c, agenda := .advance (v.tick + n - c) :: v.agenda } : State).stopAll)

/-- No instruction and no step of another agent stops the machine (R55, R56). -/
def Obligations.ExecAlwaysAnswersANextState : Prop :=
  ∀ (i : Instr) (s : State), ∃ t, exec i s = .next t

/-- The machine stops only while module power is off, until power good (that it answers a fault then: log entry 48) (R18; log entry 48).
-/
def Obligations.StepStopsOnlyWithoutPower : Prop :=
  ∀ s : State,
    ((∃ r, step s = .fault r) ↔ (s.power = false ∧ ∀ rest, s.agenda ≠ .event .powerGood :: rest)) ∧
    (∀ r, step s ≠ .refused r)

/-- Every step keeps memory in its canonical form (R131, R137, R147). -/
def Obligations.StepKeepsMemoryCanonical : Prop :=
  ∀ s t : State, s.memInv = true → step s = .next t → t.memInv = true

/-- Memory is in its canonical form at reset (R389). -/
def Obligations.ResetMemoryIsCanonical : Prop :=
  State.reset.memInv = true

/-- Reset leaves bring-up at step 1, the timebase at 0, no window bound and GDDR 7 reading zero (a choice: log entry 3) (R389, R105, R217,
R165; log entries 2, 3). -/
def Obligations.ResetReleasesStepOneOfBringUp : Prop :=
  State.reset.power = true ∧ State.reset.bringUp = 1 ∧ State.reset.tick = 0 ∧ State.reset.mailbox.ready = false ∧
  (∀ w, (State.reset.window w).bound = none) ∧ State.reset.ctx.present = false ∧ (∀ p, Mem.read p State.reset.mem = 0) ∧
  State.reset.planeLast = 3 ∧
  (∀ n, rget ThreadSet.start.g n = 0 ∧ rget ThreadSet.start.f n = ⟨0, 53⟩ ∧ (rget ThreadSet.start.v n).bits = 0 ∧
    (∀ k, vget (rget ThreadSet.start.v n).tc k = 24)) ∧
  ThreadSet.start.callctr = 1 ∧ ThreadSet.start.sndctr = 1

/-- A byte written is read back, every other byte stays, and the form stays canonical (R131, R140). -/
def Obligations.MemoryReadsBackWhatWasWritten : Prop :=
  ∀ (m : List Host.Cell), Mem.wf m = true →
    (∀ a b, Mem.read a (Mem.write a b m) = b ∧ Mem.wf (Mem.write a b m) = true) ∧
    (∀ a b c, c ≠ a → Mem.read c (Mem.write a b m) = Mem.read c m) ∧
    (∀ a bs, Mem.readN (Mem.writeN a bs m) a bs.length = bs ∧ Mem.wf (Mem.writeN a bs m) = true ∧
      (∀ c, c < a ∨ a + bs.length ≤ c → Mem.read c (Mem.writeN a bs m) = Mem.read c m))

/-- Two canonical memories that read alike are the same list (R389). -/
def Obligations.CanonicalMemoriesThatReadAlikeAreEqual : Prop :=
  ∀ m n : List Host.Cell, Mem.wf m = true → Mem.wf n = true → (∀ a, Mem.read a m = Mem.read a n) → m = n

/-- An instruction whose conditions of issue hold acts in the issued state (R145, R151, R179, R180, R181, R340, R352). -/
def Obligations.ReadyInstructionsIssue : Prop :=
  ∀ (s : State) (rds wrs : List (Cls × Opnd)), s.readyFor rds wrs = true → gate rds wrs s = .go (s.issued rds)

/-- Issuing changes nothing where no register read is damaged and no barrier token is read (R340, R352). -/
def Obligations.IssueIsQuietWhereNothingIsToMend : Prop :=
  ∀ (s : State) (rds wrs : List (Cls × Opnd)), s.clearFor rds wrs = true →
    s.onlySet (s.issued rds) s.th ∧ ∀ p, Mem.read p (s.issued rds).mem = Mem.read p s.mem

/-- A register that cannot be mended traps 0x0E, an absent link 0x11, a ninth pending word 0x0B (their order: log entry 74) (R181, R179,
R352, R343; log entries 69, 74, 75). -/
def Obligations.ChecksAtIssueTrapInTheirOrder : Prop :=
  ∀ (s : State) (rds wrs : List (Cls × Opnd)) (k : State → Host.Outcome State Fault Refusal),
    (∀ r, (s.th.readsOf rds).find? (fun r => s.th.badRegs.contains r && !s.th.oplog.contains r) = some r →
      withIssue rds wrs k s = (s.railUp (s.quadOf s.cur.1)).trap 0x0E r.2.parityVal) ∧
    ((∀ r ∈ s.th.readsOf rds, s.th.badRegs.contains r = true → s.th.oplog.contains r = true) →
      (∀ p, s.absentLink s.cur.1 (portUses rds ++ portUses wrs) = some p →
        withIssue rds wrs k s = (s.mended rds).trap 0x11 (BitVec.ofNat 64 p.number)) ∧
      (s.absentLink s.cur.1 (portUses rds ++ portUses wrs) = none → 0 < wordsAt .po (portUses wrs) →
        8 < s.th.pend.length + wordsAt .po (portUses wrs) →
        withIssue rds wrs k s = (s.mended rds).trap 0x0B (BitVec.ofNat 64 (s.th.sendBuf.length * 256 + s.th.pend.length))))

/-- A queue gives its oldest word and takes a new one last; pi gives the next payload word, then zero; po fills the pending payload (R35,
R178, R179, R180, R191). -/
def Obligations.PortsPopAndPush : Prop :=
  ∀ (s : State) (n : BitVec 2) (x : Word),
    (∀ w ws, (vget (s.el s.cur.1).queues n.toNat).words = w :: ws →
      (s.takeG (.port (.q n))).1 = w ∧
      (vget ((s.takeG (.port (.q n))).2.el s.cur.1).queues n.toNat).words = ws ∧
      (s.takeG (.port (.q n))).2.mem = s.mem ∧ (s.takeG (.port (.q n))).2.th = s.th) ∧
    ((vget ((s.putG (.port (.q n)) x).el s.cur.1).queues n.toNat).words = (vget (s.el s.cur.1).queues n.toNat).words ++ [x] ∧
      (s.putG (.port (.q n)) x).mem = s.mem ∧ (s.putG (.port (.q n)) x).th = s.th) ∧
    (∀ a, s.th.act = some a → s.th.inSup = false → a.read < a.payload.length →
      (s.takeG (.port .pi)).1 = a.payload.getD a.read 0 ∧
      (s.takeG (.port .pi)).2.th.act = some { a with read := a.read + 1 }) ∧
    ((s.th.inSup = true ∨ (∃ a, s.th.act = some a ∧ a.payload.length ≤ a.read)) → s.takeG (.port .pi) = (0, s)) ∧
    ((s.putG (.port .po) x).th.pend = s.th.pend ++ [x])

/-- Each two-operand integer instruction writes the result of its row, for register and port operands (R190). -/
def Obligations.IntegerTwoOperandResults : Prop :=
  ∀ (i : Instr) (d a b : Opnd) (f : Word → Word → Word) (s : State), intTable i = some (d, a, b, f) →
    s.readyFor [(.g, a), (.g, b)] [(.g, d)] = true →
    exec i s = .next ((s.issued [(.g, a), (.g, b)]).binary f d a b)

/-- Counts, byte reversal and the immediate instructions write the result of their row (R189, R192, R51). -/
def Obligations.IntegerOneOperandResults : Prop :=
  ∀ (i : Instr) (d a : Opnd) (f : Word → Word) (s : State), intTable1 i = some (d, a, f) →
    s.readyFor [(.g, a)] [(.g, d)] = true → exec i s = .next ((s.issued [(.g, a)]).unary f d a)

/-- bins and sel also read g[d]; ldhi and pcadd write the shifted immediate, pcadd added to its own address (R189, R191, R192, R51). -/
def Obligations.RemainingIntegerResults : Prop :=
  (∀ (i : Instr) (d : RegNo) (a b : Opnd) (f : Word → Word → Word → Word) (s : State), intTable3 i = some (d, a, b, f) →
    s.readyFor [(.g, a), (.g, b), (.g, .reg d)] [(.g, .reg d)] = true →
    exec i s = .next ((s.issued [(.g, a), (.g, b), (.g, .reg d)]).ternary f d a b)) ∧
  (∀ (d : Opnd) (i : BitVec 18) (s : State), s.readyFor [] [(.g, d)] = true →
    exec (.ldhi d i) s = .next (((s.issued []).putG d (BitVec.ofInt 64 (i.toInt * 4096))).advance) ∧
    exec (.pcadd d i) s = .next (((s.issued []).putG d (BitVec.ofInt 64 (s.th.pc.toNat + i.toInt * 4096))).advance))

/-- An integer instruction on registers changes one register and the pc, and no memory; g0 discards the write (R189, R192, R34, R191). -/
def Obligations.IntegerRegisterFrame : Prop :=
  ∀ (i : Instr) (d a b : RegNo) (s : State) (x : Word) (rds : List (Cls × Opnd)),
    ((∃ f, intTable i = some (.reg d, .reg a, .reg b, f) ∧ x = f (s.rg a) (s.rg b) ∧ rds = [(.g, .reg a), (.g, .reg b)]) ∨
      (∃ f, intTable1 i = some (.reg d, .reg a, f) ∧ x = f (s.rg a) ∧ rds = [(.g, .reg a)]) ∨
      (∃ f, intTable3 i = some (d, .reg a, .reg b, f) ∧ x = f (s.rg d) (s.rg a) (s.rg b) ∧ rds = [(.g, .reg a), (.g, .reg b), (.g, .reg d)]) ∨
      (∃ k : BitVec 18, i = .ldhi (.reg d) k ∧ x = BitVec.ofInt 64 (k.toInt * 4096) ∧ rds = []) ∨
      (∃ k : BitVec 18, i = .pcadd (.reg d) k ∧ x = BitVec.ofInt 64 (s.th.pc.toNat + k.toInt * 4096) ∧ rds = [])) →
    s.clearFor rds [(.g, .reg d)] = true → s.th.frame = none →
    ∃ t, exec i s = .next t ∧ s.onlySet t t.th ∧ s.th.onlyG t.th d ∧ t.th.rg d = (if d = 0 then 0 else x) ∧
      t.th.pc = s.th.pc + 4 ∧ ∀ p, Mem.read p t.mem = Mem.read p s.mem

/-- A conditional branch goes to next + 4 * off where its condition holds, and on otherwise (R193, R51, R173, R210). -/
def Obligations.BranchesGoWhereTheirConditionSays : Prop :=
  (∀ (i : Instr) (a b : Opnd) (off : BitVec 12) (c : Word → Word → Bool) (s : State), branchTable i = some (a, b, off, c) →
    s.readyFor [(.g, a), (.g, b)] [] = true →
    exec i s = .next (
      let x := (s.issued [(.g, a), (.g, b)]).takeG a
      let y := x.2.takeG b
      if c x.1 y.1 then y.2.jump (targetOf s.th.pc off) else y.2.advance)) ∧
  (∀ (s : State) (x : Word), (s.jump x).th.pc = x ∧ (s.jump x).th.bubble = true ∧
    (s.th.frame = none → s.advance.th.pc = s.th.pc + 4)) ∧
  (∀ (a : RegNo) (lit : BitVec 6) (off : BitVec 12) (s : State), s.readyFor [(.f, .reg a)] [] = true →
    let u := s.issued [(.f, .reg a)]
    exec (.bsiglt a lit off) s = .next (if (s.rf a).tc < lit.toNat then u.jump (targetOf s.th.pc off) else u.advance) ∧
    exec (.bsigge a lit off) s = .next (if (s.rf a).tc < lit.toNat then u.advance else u.jump (targetOf s.th.pc off)))

/-- jal and jalr write the link and go to their target; a misaligned jalr target traps 0x04 (R194, R51, R343). -/
def Obligations.JumpsLinkAndGo : Prop :=
  (∀ (d : Opnd) (off : BitVec 18) (s : State), s.readyFor [] [(.g, d)] = true →
    exec (.jal d off) s = .next (((s.issued []).putG d (s.th.pc + 4)).jump (targetOf s.th.pc off))) ∧
  (∀ (d : Opnd) (a : RegNo) (i : BitVec 12) (s : State), s.readyFor [(.g, .reg a)] [(.g, d)] = true →
    let u := s.issued [(.g, .reg a)]
    let t := BitVec.ofInt 64 ((s.rg a).toNat + i.toInt)
    (t.toNat % 4 = 0 → exec (.jalr d a i) s = .next ((u.putG d (s.th.pc + 4)).jump t)) ∧
    (t.toNat % 4 ≠ 0 → exec (.jalr d a i) s = u.trap 0x04 t))

/-- rpt captures its instructions and starts their replays, or traps at capture (R195, R55). -/
def Obligations.RepeatCapturesItsFrame : Prop :=
  ∀ (c : BitVec 6) (n : BitVec 4) (kd ka kb : BitVec 2) (s s1 : State),
    (∀ ws, s.capture s.th.pc (c.toNat + 1) kd.toNat ka.toNat kb.toNat (n.toNat + 1) (s.th.pc + 4) = (.ok ws, s1) →
      exec (.rpt c n kd ka kb) s = .next (s1.updTh (fun t => { t with
        frame := some ⟨s.th.pc, ws, c.toNat + 1, kd.toNat, ka.toNat, kb.toNat, 0, 0⟩, pc := s.th.pc + 4 }))) ∧
    (∀ e, s.capture s.th.pc (c.toNat + 1) kd.toNat ka.toNat kb.toNat (n.toNat + 1) (s.th.pc + 4) = (.error e, s1) →
      exec (.rpt c n kd ka kb) s = (s1.updTh (fun t => { t with pc := e.2.1 })).trap e.1 e.2.2)

/-- A frame of n instructions and c replays issues replay by replay, in order, and then leaves to the address after it (R195, R196). -/
def Obligations.FramesReplayInOrder : Prop :=
  ∀ (t : ThreadSet) (fr : Frame), t.frame = some fr → fr.i = 0 → fr.j = 0 → fr.words ≠ [] → 0 < fr.count →
    let n := fr.words.length
    (∀ m, m < fr.count * n → ∃ u, (List.range m).foldl (fun t _ => t.advance) t = u ∧
      u.frame = some { fr with i := m / n, j := m % n } ∧
      (0 < m → u.pc = fr.start + 4 + BitVec.ofNat 64 (4 * (m % n)))) ∧
    (let u := (List.range (fr.count * n)).foldl (fun t _ => t.advance) t
     u.frame = none ∧ u.pc = fr.start + BitVec.ofNat 64 (4 * (n + 1)))

/-- A load writes its value at once where it is served at issue, else it joins the outstanding operations; a failed check traps (R157,
R158, R145, R303, R156; log entries 1, 62, 76). -/
def Obligations.LoadsWriteWhatTheyRead : Prop :=
  ∀ (i : Instr) (form : LoadForm) (tagged : Bool) (n : Nat) (d : Opnd) (a : RegNo) (off : BitVec 12) (s : State),
    loadTable i = some (form, tagged, n, d, a, off) → s.readyFor [(.g, .reg a)] [(form.cls, d)] = true →
    let u := s.issued [(.g, .reg a)]
    let ea := addressOf (s.rg a) off n
    let check := u.dataTargets (u.issuer 0) tagged false ea n
    (∀ e s1, check = (.error e, s1) → exec i s = s1.trap e.1 (BitVec.ofNat 64 e.2)) ∧
    (∀ t ps s1, check = (.ok (t, ps), s1) →
      let now := s1.allServed (u.issuer 0) t ea ps false
      ∀ v : State, ((∃ p, d = .port p) ∧ s1.behindAny t n ps = false ∧ (s1.opsFull s1.cur.1 = false ∨ now = true) ∧ v = s1 ∨
        (∃ r, d = .reg r) ∧ (!s1.behindAny t n ps && now && untagged ps) = true ∧ s1.defers t = (false, v)) →
      (∀ a s2, v.loadNow (u.issuer 0) t ea n = (.error a, s2) → exec i s = s2.trap 0x0F (BitVec.ofNat 64 a)) ∧
      (∀ bs s2 cs s3, v.loadNow (u.issuer 0) t ea n = (.ok bs, s2) → s2.loadPlanes (u.issuer 0) ps = (.ok cs, s3) →
        exec i s = .next ((s3.write (loadWrite d form bs (if untagged ps then [] else cs))).advance))) ∧
    (∀ t ps s1 r, check = (.ok (t, ps), s1) → d = .reg r →
      let now := s1.allServed (u.issuer 0) t ea ps false
      ∀ v : State, ((!s1.behindAny t n ps && now && untagged ps) = false ∧ (s1.opsFull s1.cur.1 = false ∨ now = true) ∧ v = s1 ∨
        (!s1.behindAny t n ps && now && untagged ps) = true ∧ s1.defers t = (true, v)) →
      exec i s = .next (((({ v with nextId := s1.nextId + 1 } : State).addOp
        ⟨s1.nextId, s1.cur.2, (u.issuer 0).inSup, s1.th.pc, ea, n, t.place, t.wr, t.supPage, ps, .load (form.cls.key r) form,
          false, Parts.none, !now⟩).mark
          (form.cls.key r) s1.nextId).advance)) ∧
    (∀ (t : Target) (v : State), ((∃ tile o, t.place = .win tile o) → v.defers t = (false, v)) ∧
      (v.choices = [] → v.defers t = (false, v)) ∧
      (∀ c cs, (∀ tile o, t.place ≠ .win tile o) → v.choices = c :: cs → v.defers t = (c != 0, { v with choices := cs })))

/-- A store writes its bytes at once where it is served at issue, else it joins the outstanding operations; a failed check traps (R157,
R158, R145, R303, R156; log entry 1). -/
def Obligations.StoresWriteTheirData : Prop :=
  ∀ (i : Instr) (form : LoadForm) (tagged : Bool) (n : Nat) (d : Opnd) (a : RegNo) (off : BitVec 12) (s : State),
    storeTable i = some (form, tagged, n, d, a, off) → s.readyFor [(.g, .reg a), (form.cls, d)] [] = true →
    let u := s.issued [(.g, .reg a), (form.cls, d)]
    let who := u.issuer 0
    let ea := addressOf (s.rg a) off n
    let check := u.dataTargets who tagged true ea n
    (∀ e s1, check = (.error e, s1) → exec i s = s1.trap e.1 (BitVec.ofNat 64 e.2)) ∧
    (∀ t ps s1, check = (.ok (t, ps), s1) →
      let x := s1.storeData form n d
      let now := s1.allServed who t ea ps true
      ∀ v : State,
      ((!s1.behindAny t n ps && now && untagged ps) = true → x.2.2.defers t = (false, v) →
        exec i s = .next ((v.storeNow who t ea x.1).advance)) ∧
      ((!s1.behindAny t n ps && now && untagged ps) = false ∧ (s1.opsFull s1.cur.1 = false ∨ now = true) ∧ v = x.2.2 ∨
        (!s1.behindAny t n ps && now && untagged ps) = true ∧ x.2.2.defers t = (true, v) →
        exec i s = .next ((({ v with nextId := x.2.2.nextId + 1 } : State).addOp
          ⟨x.2.2.nextId, s1.cur.2, who.inSup, s1.th.pc, ea, n, t.place, t.wr, t.supPage, ps, .store (x.1 ++ x.2.1),
            false, Parts.none, !now⟩).advance)))

/-- A store to the own local window puts the low bytes of g[d] at base + ea and nothing else changes (R129, R131, R157, R140, R155; log
entry 1). -/
def Obligations.OwnLocalStoresWriteTheirBytesOnly : Prop :=
  ∀ (i : Instr) (n : Nat) (d a : RegNo) (off : BitVec 12) (s : State) (A : Allot),
    storeTable i = some (.zx, false, n, .reg d, a, off) → s.memInv = true →
    s.clearFor [(.g, .reg a), (.g, .reg d)] [] = true → s.th.frame = none →
    s.allotOf s.cur.1 (s.act.getD Act.idle).allot = some A →
    let ea := addressOf (s.rg a) off n
    let p := locPlace s.cur.1 (A.base + ea)
    ea % n = 0 → ea + n ≤ 0xC000 → ea + n ≤ A.size →
    s.behind s.cur.1 s.cur.2 (.loc s.cur.1 (A.base + ea)) n = false → s.choices.headD 0 = 0 →
    ∃ t, exec i s = .next t ∧
      (∀ k, k < n → Mem.read (p + k) t.mem = BitVec.ofNat 8 ((s.rg d).toNat / 2 ^ (8 * k))) ∧
      (∀ q, q < p ∨ p + n ≤ q → Mem.read q t.mem = Mem.read q s.mem) ∧
      t.th = { s.th with pc := s.th.pc + 4 } ∧
      (∀ k, t.poison.contains k = (s.poison.contains k && !(decide (p ≤ 8 * k) && decide (8 * k + 8 ≤ p + n))) ∧
        t.latent.contains k = (s.latent.contains k && !(decide (p ≤ 8 * k) && decide (8 * k + 8 ≤ p + n)))) ∧
      (∀ k, k < p / 8 ∨ (p + n - 1) / 8 < k →
        t.poison.contains k = s.poison.contains k ∧ t.latent.contains k = s.latent.contains k) ∧
      s.onlySet { t with mem := s.mem, poison := s.poison, latent := s.latent, choices := s.choices } t.th ∧ t.choices = s.choices.tail

/-- A load from the own local window gives the bytes there, zero- or sign-extended, and changes one register (R129, R131, R157, R155; log
entry 1). -/
def Obligations.OwnLocalLoadsReadTheirBytes : Prop :=
  ∀ (i : Instr) (form : LoadForm) (n : Nat) (d a : RegNo) (off : BitVec 12) (s : State) (A : Allot),
    loadTable i = some (form, false, n, .reg d, a, off) → form = .zx ∨ form = .sx →
    s.clearFor [(.g, .reg a)] [(.g, .reg d)] = true → s.th.frame = none →
    s.allotOf s.cur.1 (s.act.getD Act.idle).allot = some A →
    let ea := addressOf (s.rg a) off n
    let p := locPlace s.cur.1 (A.base + ea)
    ea % n = 0 → ea + n ≤ 0xC000 → ea + n ≤ A.size → firstPoison s.poison p n = none →
    s.behind s.cur.1 s.cur.2 (.loc s.cur.1 (A.base + ea)) n = false →
    s.choices.headD 0 = 0 →
    let x := leNat ((List.range n).map (fun k => Mem.read (p + k) s.mem))
    ∃ t, exec i s = .next t ∧ s.onlySet { t with choices := s.choices } t.th ∧ t.choices = s.choices.tail ∧ s.th.onlyG t.th d ∧
      t.th.rg d = (if d = 0 then 0
        else BitVec.ofInt 64 (if form = .sx ∧ 2 ^ (8 * n - 1) ≤ x then (x : Int) - 2 ^ (8 * n) else x)) ∧
      t.th.pc = s.th.pc + 4 ∧ ∀ q, Mem.read q t.mem = Mem.read q s.mem

/-- A misaligned access traps 0x04, an address at or above 2^49 traps 0x07, and one past the allotment traps 0x08 (R156, R128, R129, R144;
log entry 74). -/
def Obligations.MisalignedAndOutOfBoundsAccessesTrap : Prop :=
  ∀ (i : Instr) (form : LoadForm) (tagged : Bool) (n : Nat) (d : Opnd) (a : RegNo) (off : BitVec 12) (s : State)
      (rds wrs : List (Cls × Opnd)),
    (loadTable i = some (form, tagged, n, d, a, off) ∧ rds = [(.g, .reg a)] ∧ wrs = [(form.cls, d)] ∨
      storeTable i = some (form, tagged, n, d, a, off) ∧ rds = [(.g, .reg a), (form.cls, d)] ∧ wrs = []) →
    s.readyFor rds wrs = true →
    let ea := addressOf (s.rg a) off n
    let u := s.issued rds
    (ea % n ≠ 0 → exec i s = u.trap 0x04 (BitVec.ofNat 64 ea)) ∧
    (ea % n = 0 → 2 ^ 49 ≤ ea → exec i s = u.trap 0x07 (BitVec.ofNat 64 ea)) ∧
    (ea % n = 0 → ea + n ≤ 0xC000 →
      (∀ A, s.allotOf s.cur.1 (s.act.getD Act.idle).allot = some A → A.size < ea + n) →
      exec i s = u.trap 0x08 (BitVec.ofNat 64 ea))

/-- lda, stl, stv and vrst become outstanding, ldv returns or parks, where their checks pass; elsewhere they trap (R159, R160, R161, R162,
R149, R145, R180; log entries 57, 61). -/
def Obligations.OrderedAccessesIssueOrAct : Prop :=
  (∀ (d : Opnd) (a : RegNo) (sc : Scope) (w : Width) (s s1 : State) (t : Target), s.readyFor [(.g, .reg a)] [(.g, d)] = true →
    let u := s.issued [(.g, .reg a)]
    let ea := (s.rg a).toNat
    let n := Width.bytes w
    (∀ c, u.check (u.issuer 0) .special false ea n n = (.error c, s1) → exec (.lda d a sc w) s = s1.trap c (BitVec.ofNat 64 ea)) ∧
    (u.check (u.issuer 0) .special false ea n n = (.ok t, s1) →
      (∀ r, d = .reg r → s1.opsFull s1.cur.1 = false →
        exec (.lda d a sc w) s = .next ((s1.issueOp ea n t (.lda (.g r) sc) (some (.g r))).advance)) ∧
      (∀ p x s2, d = .port p → s1.opsFull s1.cur.1 = false → s1.behind s1.cur.1 s1.cur.2 t.place n = false →
        s1.ldaNow (s1.issuer 0) t ea n sc = (.ok x, s2) →
        exec (.lda d a sc w) s = .next ((s2.putG d x).advance)))) ∧
  (∀ (d : Opnd) (a : RegNo) (sc : Scope) (w : Width) (s s1 : State) (t : Target), s.readyFor [(.g, .reg a), (.g, d)] [] = true →
    let u := s.issued [(.g, .reg a), (.g, d)]
    let ea := (s.rg a).toNat
    let n := Width.bytes w
    (∀ c, u.check (u.issuer 0) .special true ea n n = (.error c, s1) → exec (.stl d a sc w) s = s1.trap c (BitVec.ofNat 64 ea)) ∧
    (u.check (u.issuer 0) .special true ea n n = (.ok t, s1) → s1.opsFull s1.cur.1 = false →
      let x := s1.takeG d
      exec (.stl d a sc w) s = .next ((x.2.issueOp ea n t (.stl (leBytes n x.1.toNat) sc) none).advance))) ∧
  (∀ (d : Opnd) (a : RegNo) (b : Opnd) (sc : Scope) (s s1 : State) (t : Target), s.readyFor [(.g, .reg a), (.g, b)] [(.g, d)] = true →
    let u := s.issued [(.g, .reg a), (.g, b)]
    let ea := (s.rg a).toNat
    (∀ c, u.check (u.issuer 0) .special false ea 8 8 = (.error c, s1) → exec (.ldv d a b sc) s = s1.trap c (BitVec.ofNat 64 ea)) ∧
    (u.check (u.issuer 0) .special false ea 8 8 = (.ok t, s1) →
      let x := s1.takeG b
      (s1.isTracked ea = false → exec (.ldv d a b sc) s = s1.trap 0x07 (BitVec.ofNat 64 ea)) ∧
      (∀ y s2, s1.isTracked ea = true → s1.opsFull s1.cur.1 = false → s1.behind s1.cur.1 s1.cur.2 t.place 8 = false →
        (s1.version t.place.key - x.1.setWidth 8).toNat < 128 → s1.ldvNow (s1.issuer 0) t ea sc = (.ok y, s2) →
        exec (.ldv d a b sc) s = .next (((s2.takeG b).2.putG d y).advance)) ∧
      (∀ y s2, s1.isTracked ea = true → s1.opsFull s1.cur.1 = false → s1.behind s1.cur.1 s1.cur.2 t.place 8 = false →
        (s1.version t.place.key - x.1.setWidth 8).toNat < 128 → s1.ldvNow (s1.issuer 0) t ea sc = (.error y, s2) →
        exec (.ldv d a b sc) s = s2.trap 0x0F (BitVec.ofNat 64 y)) ∧
      (∀ r q, d = .reg r → b = .reg q → s1.isTracked ea = true → s1.opsFull s1.cur.1 = false →
        (s1.behind s1.cur.1 s1.cur.2 t.place 8 = true ∨ 128 ≤ (s1.version t.place.key - x.1.setWidth 8).toNat) →
        exec (.ldv d a b sc) s = .next (s1.issueOp ea 8 t (.ldv (.g r) (x.1.setWidth 8) sc) none)) ∧
      (∀ p, d = .port p ∨ b = .port p → s1.isTracked ea = true → s1.opsFull s1.cur.1 = false →
        (s1.behind s1.cur.1 s1.cur.2 t.place 8 = true ∨ 128 ≤ (s1.version t.place.key - x.1.setWidth 8).toNat) →
        exec (.ldv d a b sc) s =
          .next (s1.holdPlaces s1.cur.1 s1.cur.2 (portNeeds (portUses [(.g, b)]) (portUses [(.g, d)])))))) ∧
  (∀ (d : Opnd) (a : RegNo) (sc : Scope) (s s1 : State) (t : Target), s.readyFor [(.g, .reg a), (.g, d)] [] = true →
    let u := s.issued [(.g, .reg a), (.g, d)]
    let ea := (s.rg a).toNat
    (∀ c, u.check (u.issuer 0) .special true ea 8 8 = (.error c, s1) → exec (.stv d a sc) s = s1.trap c (BitVec.ofNat 64 ea)) ∧
    (u.check (u.issuer 0) .special true ea 8 8 = (.ok t, s1) →
      let x := s1.takeG d
      (s1.isTracked ea = false → exec (.stv d a sc) s = s1.trap 0x07 (BitVec.ofNat 64 ea)) ∧
      (s1.isTracked ea = true → s1.opsFull s1.cur.1 = false →
        exec (.stv d a sc) s = .next ((x.2.issueOp ea 8 t (.stv x.1 sc) none).advance)))) ∧
  (∀ (a : RegNo) (b : Opnd) (s s1 : State) (ws : List Nat), s.readyFor [(.g, .reg a), (.g, b)] [] = true →
    let u := s.issued [(.g, .reg a), (.g, b)]
    let ea := (s.rg a).toNat
    let x := u.takeG b
    let n := x.1.toNat / 8
    (ea % 8 ≠ 0 → exec (.vrst a b) s = u.trap 0x04 (BitVec.ofNat 64 ea)) ∧
    (ea % 8 = 0 → x.1.toNat % 8 ≠ 0 → exec (.vrst a b) s = u.trap 0x04 x.1) ∧
    (ea % 8 = 0 → x.1 = 0 → exec (.vrst a b) s = .next x.2.advance) ∧
    (∀ c addr zs, ea % 8 = 0 → x.1.toNat % 8 = 0 → x.1 ≠ 0 → (∀ k, k < n → u.isTracked (ea + 8 * k) = true) →
      u.vrstWords (u.issuer 0) n ea [] none = (.error (c, addr, zs), s1) →
      ((∀ w ∈ zs, s1.behind s1.cur.1 s1.cur.2 (.phys (8 * w)) 8 = false) →
        exec (.vrst a b) s = (zs.foldl (fun s w => s.setVersion (8 * w) 0) s1).trap c (BitVec.ofNat 64 addr)) ∧
      ((∃ w ∈ zs, s1.behind s1.cur.1 s1.cur.2 (.phys (8 * w)) 8 = true) → exec (.vrst a b) s = .next s1)) ∧
    (ea % 8 = 0 → x.1.toNat % 8 = 0 → x.1 ≠ 0 → (∃ k, k < n ∧ u.isTracked (ea + 8 * k) = false) →
      exec (.vrst a b) s = u.trap 0x07 (BitVec.ofNat 64 ea)) ∧
    (ea % 8 = 0 → x.1.toNat % 8 = 0 → x.1 ≠ 0 → (∀ k, k < n → u.isTracked (ea + 8 * k) = true) →
      u.vrstWords (u.issuer 0) n ea [] none = (.ok ws, s1) → s1.opsFull s1.cur.1 = false →
      exec (.vrst a b) s =
        .next (((s1.takeG b).2.issueOp ea x.1.toNat ⟨.phys (8 * ws.headD 0), true, false⟩ (.vrst ws) none).advance)))

/-- An atomic becomes outstanding with its operands, or acts at once into a port (R315, R303, R308, R145). -/
def Obligations.AtomicsIssueOrAct : Prop :=
  (∀ (i : Instr) (op : AtomOp) (d : Opnd) (a : RegNo) (b : Opnd) (w64 ar : Bool) (s s1 : State) (t : Target),
    atomicTable i = some (op, d, a, b, w64, ar) → s.readyFor [(.g, .reg a), (.g, b)] [(.g, d)] = true →
    let u := s.issued [(.g, .reg a), (.g, b)]
    let ea := (s.rg a).toNat
    let n := if w64 then 8 else 4
    (∀ c, u.check (u.issuer 0) .special true ea n n = (.error c, s1) → exec i s = s1.trap c (BitVec.ofNat 64 ea)) ∧
    (u.check (u.issuer 0) .special true ea n n = (.ok t, s1) →
      let x := s1.takeG b
      (∀ r q, d = .reg r → b = .reg q → s1.opsFull s1.cur.1 = false →
        exec i s = .next (((s1.flushOwn s1.cur.1 t.place).issueOp ea n t (.atom op (some (.g r)) (s1.rg q) 0 ar) (some (.g r))).advance)) ∧
      (∀ p, d = .port p ∨ b = .port p → s1.opsFull s1.cur.1 = false → s1.behind s1.cur.1 s1.cur.2 t.place n = false →
        (ar = true → s1.setBusy s1.cur.1 s1.cur.2 = false) →
        let now := (if ar then s1.release s1.cur.1 .dv else s1).atomNow s1.cur.1 t.place ea n op x.1 0
        (∀ y s2, now = (.ok y, s2) →
          let s3 := (s2.takeG b).2.putG d y
          exec i s = .next (if ar then s3.acquire s3.cur.1 .dv else s3).advance) ∧
        (∀ y s2, now = (.error y, s2) → exec i s = s2.trap 0x0F (BitVec.ofNat 64 y))))) ∧
  (∀ (d a : RegNo) (b : Opnd) (w64 ar : Bool) (s s1 : State) (t : Target),
    s.readyFor [(.g, .reg a), (.g, b), (.g, .reg d)] [(.g, .reg d)] = true →
    let u := s.issued [(.g, .reg a), (.g, b), (.g, .reg d)]
    let ea := (s.rg a).toNat
    let n := if w64 then 8 else 4
    (∀ c, u.check (u.issuer 0) .special true ea n n = (.error c, s1) → exec (.acas d a b w64 ar) s = s1.trap c (BitVec.ofNat 64 ea)) ∧
    (u.check (u.issuer 0) .special true ea n n = (.ok t, s1) → s1.opsFull s1.cur.1 = false →
      let x := s1.takeG b
      (∀ q, b = .reg q → exec (.acas d a b w64 ar) s = .next (((s1.flushOwn s1.cur.1 t.place).issueOp ea n t
        (.atom .cas (some (.g d)) (s1.rg q) (s1.rg d) ar) (some (.g d))).advance)) ∧
      (∀ p, b = .port p → s1.behind s1.cur.1 s1.cur.2 t.place n = false →
        (ar = true → s1.setBusy s1.cur.1 s1.cur.2 = false) →
        let now := (if ar then s1.release s1.cur.1 .dv else s1).atomNow s1.cur.1 t.place ea n .cas x.1 (s1.rg d)
        (∀ y s2, now = (.ok y, s2) →
          let s3 := (s2.takeG b).2.putG (.reg d) y
          exec (.acas d a b w64 ar) s = .next (if ar then s3.acquire s3.cur.1 .dv else s3).advance) ∧
        (∀ y s2, now = (.error y, s2) → exec (.acas d a b w64 ar) s = s2.trap 0x0F (BitVec.ofNat 64 y)))))

/-- An atomic gives the old value and stores the value of its row, as one action on its word (R315). -/
def Obligations.AtomicsAreOneActionAtTheirWord : Prop :=
  ∀ (le l off ea n : Nat) (op : AtomOp) (b cmp : Word) (s : State), s.memInv = true → n = 4 ∨ n = 8 →
    let p := locPlace l off
    let m := 2 ^ (8 * n)
    let old := leNat (Mem.readN s.mem p n)
    let x := b.toNat % m
    let signed := fun (v : Nat) => if 2 * v < m then (v : Int) else (v : Int) - m
    let new := match op with
      | .add => (old + x) % m
      | .and => old &&& x
      | .or => old ||| x
      | .xor => old ^^^ x
      | .min => if signed old < signed x then old else x
      | .max => if signed old < signed x then x else old
      | .minn => if old < x then old else x
      | .maxn => if old < x then x else old
      | .swp => x
      | .cas => if old = cmp.toNat % m then x else old
    firstPoison s.poison p n = none →
    ∃ t, s.atomNow le (.loc l off) ea n op b cmp = (.ok (BitVec.ofNat 64 old), t) ∧
      leNat (Mem.readN t.mem p n) = new ∧ (∀ q, q < p ∨ p + n ≤ q → Mem.read q t.mem = Mem.read q s.mem)

/-- An outstanding operation completes by its own event and has the effect of its kind (R145, R131, R160, R162, R303, R304, R308, R306,
R79, R155, R159, R315; log entries 1, 57, 62, 76). -/
def Obligations.OutstandingOperationsComplete : Prop :=
  (∀ (le k : Nat) (s : State) (o : MemOp), (s.el le).ops.find? (fun o => o.id == k) = some o →
    ((∀ l off, o.place ≠ .loc l off) → (∀ d x sc, o.kind ≠ .ldv d x sc) →
      exec (.memoryOperationComplete le k) s = .next (s.completeOp le k)) ∧
    ((∃ l off, o.place = .loc l off) → exec (.remoteLocalAccess le k) s = .next (s.completeOp le k)) ∧
    ((∃ d x sc, o.kind = .ldv d x sc) → s.ctx.stopped = false → exec (.ldvWake le k) s = .next (s.completeOp le k)) ∧
    (s.firstOnWords le o = false → s.completeOp le k = s) ∧
    (∀ d x sc, o.kind = .ldv d x sc → 128 ≤ (s.version o.place.key - x).toNat → s.completeOp le k = s) ∧
    (∀ r x sc y u, o.kind = .ldv (.g r) x sc → s.firstOnWords le o = true → (s.version o.place.key - x).toNat < 128 →
      (s.dropOp le k).ldvNow (o.who le) o.target o.ea sc = (.ok y, u) →
      s.completeOp le k = (u.updThOf le o.set (fun t => t.wgIn o.inSup r y)).updThOf le o.set (·.advance)) ∧
    (o.parked = true → s.canRun le o.set = false) ∧
    (∀ d form, o.kind = .load d form → s.firstOnWords le o = true →
      let c := s.choose o
      (∀ q u, c.2.loadParts (o.who le) o c.1 o.parts = (.ok q, u) → c.1.length = o.rest.length →
        s.completeOp le k = (u.dropOp le k).finishLoad le o d form (q.lo.getD [] ++ q.hi.getD []) (q.planes.getD [])) ∧
      (∀ q u, c.2.loadParts (o.who le) o c.1 o.parts = (.ok q, u) → c.1.length ≠ o.rest.length → s.completeOp le k = u.setParts le o q) ∧
      (∀ a u, c.2.loadParts (o.who le) o c.1 o.parts = (.error a, u) → s.completeOp le k = (u.dropOp le k).lateTrap le o 0x0F a)) ∧
    (∀ bs, o.kind = .store bs → s.firstOnWords le o = true →
      let c := s.choose o
      let r := c.2.storeParts (o.who le) o bs c.1 o.parts
      s.completeOp le k = (if c.1.length = o.rest.length then r.2.dropOp le k else r.2.setParts le o r.1)) ∧
    (∀ d sc, o.kind = .lda d sc → s.firstOnWords le o = true →
      (∀ x u, (s.dropOp le k).ldaNow (o.who le) o.target o.ea o.n sc = (.ok x, u) → s.completeOp le k = u.finish le o.set k x) ∧
      (∀ a u, (s.dropOp le k).ldaNow (o.who le) o.target o.ea o.n sc = (.error a, u) →
        s.completeOp le k = u.lateTrap le o 0x0F a)) ∧
    (∀ bs sc, o.kind = .stl bs sc → s.firstOnWords le o = true → s.firstOfSet le o = true →
      s.completeOp le k = (s.dropOp le k).stlNow (o.who le) o.target o.ea bs sc) ∧
    (∀ op d b cmp ar, o.kind = .atom op d b cmp ar → s.firstOnWords le o = true → (ar = true → s.firstOfSet le o = true) →
      let v := if ar then (s.dropOp le k).release le .dv else s.dropOp le k
      (∀ x u, v.atomNow le o.place o.ea o.n op b cmp = (.ok x, u) →
        s.completeOp le k = (if ar then (u.finish le o.set k x).acquire le .dv else u.finish le o.set k x)) ∧
      (∀ a u, v.atomNow le o.place o.ea o.n op b cmp = (.error a, u) → s.completeOp le k = u.lateTrap le o 0x0F a)) ∧
    (∀ x sc, o.kind = .stv x sc → s.firstOnWords le o = true → s.firstOfSet le o = true → s.completeOp le k =
      ((((s.dropOp le k).release le sc).flushOwn le o.place).homeStore o.place (leBytes 8 x.toNat)).bump o.place.key) ∧
    (∀ ws, o.kind = .vrst ws → s.firstOnWords le o = true →
      let c := s.chooseWords (ws.filter (fun w => s.firstAt le o.set o.id (.phys (8 * w)) 8))
      let left := ws.filter (fun w => !c.1.contains w)
      let u := c.1.foldl (fun s w => s.setVersion (8 * w) 0) c.2
      s.completeOp le k = (if left = [] then u.dropOp le k
        else u.updEl le (fun e => { e with ops := e.ops.map (fun p => if p.id = k then { p with kind := .vrst left } else p) })))) ∧
  (∀ (s : State) (ws : List Nat), (s.choices = [] ∨ ws.length ≤ 1 → s.chooseWords ws = (ws, s)) ∧
    (∀ c cs, s.choices = c :: cs → 2 ≤ ws.length → (s.chooseWords ws).2 = { s with choices := cs } ∧
      (c = 0 → (s.chooseWords ws).1 = ws) ∧ (∀ m, c = m + 1 → (s.chooseWords ws).1 = [ws.getD (m % ws.length) 0]))) ∧
  (∀ (o : MemOp) (p : Part), p ∈ o.rest ↔
    (p = .lo ∧ o.parts.lo = none ∨ p = .hi ∧ o.n = 16 ∧ (∀ x, o.place ≠ .ctl x) ∧ o.parts.hi = none ∨
      p = .planes ∧ o.parts.planes = none ∧ ∃ q, some q ∈ o.planes)) ∧
  (∀ (s : State) (o : MemOp), (s.choices = [] ∨ o.rest.length ≤ 1 → s.choose o = (o.rest, s)) ∧
    (∀ c cs, s.choices = c :: cs → 2 ≤ o.rest.length → (s.choose o).2 = { s with choices := cs } ∧
      (c = 0 → (s.choose o).1 = o.rest) ∧ (∀ m, c = m + 1 → (s.choose o).1 = [o.first.getD (m % o.first.length) .lo])) ∧
    (∀ p, p ∈ o.first ↔ p ∈ o.rest ∧ (p = .hi → (∃ d form, o.kind = .load d form) → o.parts.lo.isSome = true))) ∧
  (∀ (s u : State) (who : Issuer) (o : MemOp) (q : Parts) (bs : List Byte),
    let m := if o.halved then 8 else o.n
    let up : Target := { o.target with place := o.place.plus 8 }
    (∀ b, s.loadNow who o.target o.ea m = (.ok b, u) → s.loadParts who o [.lo] q = (.ok { q with lo := some b }, u)) ∧
    (∀ b, s.loadNow who up (o.ea + 8) m = (.ok b, u) → s.loadParts who o [.hi] q = (.ok { q with hi := some b }, u)) ∧
    (∀ b, s.loadPlanes who o.planes = (.ok b, u) → s.loadParts who o [.planes] q = (.ok { q with planes := some b }, u)) ∧
    (∀ a, s.loadNow who o.target o.ea m = (.error a, u) → s.loadParts who o [.lo] q = (.error a, u)) ∧
    s.storeParts who o bs [.lo] q = ({ q with lo := some [] }, s.storeNow who o.target o.ea (bs.take m)) ∧
    s.storeParts who o bs [.hi] q = ({ q with hi := some [] }, s.storeNow who up (o.ea + 8) ((bs.drop 8).take m)) ∧
    s.storeParts who o bs [.planes] q = ({ q with planes := some [] }, s.storePlanes who o.planes (bs.drop o.n))) ∧
  (∀ (le : Nat) (s : State) (o : MemOp) (form : LoadForm) (bs : List Byte) (ps : List (Option Byte)),
    (∀ r sup, (s.thOf le o.set).pending.find? (fun p => p.2.2 == o.id) = some (sup, .g r, o.id) → form = .zx ∨ form = .sx →
      s.finishLoad le o (.g r) form bs ps = s.updThOf le o.set (fun t =>
        { t with pending := t.pending.filter (fun p => p.2.2 != o.id) }.wgIn sup r (loadG form bs))) ∧
    (∀ r sup, (s.thOf le o.set).pending.find? (fun p => p.2.2 == o.id) = some (sup, .f r, o.id) → form = .f32 ∨ form = .f64 →
      s.finishLoad le o (.f r) form bs ps = s.updThOf le o.set (fun t =>
        { t with pending := t.pending.filter (fun p => p.2.2 != o.id) }.wf r
          ⟨BitVec.ofNat 64 (leNat bs), planeCount (if form = LoadForm.f32 then 24 else 53) ps⟩)) ∧
    (∀ r sup, (s.thOf le o.set).pending.find? (fun p => p.2.2 == o.id) = some (sup, .v r, o.id) →
      s.finishLoad le o (.v r) .v128 bs ps = s.updThOf le o.set (fun t =>
        { t with pending := t.pending.filter (fun p => p.2.2 != o.id) }.wv r
          ⟨BitVec.ofNat 128 (leNat bs), Vector.ofFn (fun q => planeCount 24 [(ps.getD q.val none)])⟩)))

/-- fenc records what it covers, completes when all of it has, fwait waits for its token, fence needs maintenance mode (R316, R317, R318,
R151, R55). -/
def Obligations.FencesIssueAndComplete : Prop :=
  (∀ (d : RegNo) (smp st ld : Bool) (sc : Scope) (s : State), s.readyFor [] [(.g, .reg d)] = true →
    s.th.fences.length < Config.fencesOut →
    let f : FenceRec := ⟨s.nextId, smp, st, ld, sc,
      ((s.el s.cur.1).ops.filter (fun o => o.set == s.cur.2 && o.covered st ld)).map (·.id),
      if st then s.cmdsOf s.cur.1 s.cur.2 else []⟩
    exec (.fenc d smp st ld sc) s = .next (((({ s.issued [] with nextId := s.nextId + 1 } : State).updTh (fun t => { t with
      fences := t.fences ++ [f] })).mark (.g d) f.id).advance) ∧
    ∃ t, exec (.fenc d smp st ld sc) s = .next t ∧ t.th.fences = s.th.fences ++ [f] ∧ t.awaits d f.id = true ∧ t.mem = s.mem) ∧
  (∀ (d : RegNo) (smp st ld : Bool) (sc : Scope) (s : State), s.readyFor [] [(.g, .reg d)] = true →
    Config.fencesOut ≤ s.th.fences.length → exec (.fenc d smp st ld sc) s = .next (s.issued [])) ∧
  (∀ (le set k : Nat) (s : State) (f : FenceRec), (s.thOf le set).fences.find? (fun f => f.id == k) = some f →
    (∀ o ∈ (s.el le).ops, f.ops.contains o.id = false) → (∀ c ∈ s.cmdsOf le set, f.cmds.contains c = false) →
    exec (.fencComplete le set k) s = .next ((((s.fenceEffect le f).updThOf le set (fun t => { t with
      fences := t.fences.filter (fun g => g.id != k) }))).finish le set k 0)) ∧
  (∀ (le set k : Nat) (s : State) (f : FenceRec), (s.thOf le set).fences.find? (fun f => f.id == k) = some f →
    ((∃ o ∈ (s.el le).ops, f.ops.contains o.id = true) ∨ (∃ c ∈ s.cmdsOf le set, f.cmds.contains c = true)) →
    exec (.fencComplete le set k) s = .next s) ∧
  (∀ (a : RegNo) (s : State), s.readyFor [(.g, .reg a)] [] = true →
    exec (.fwait a) s = .next (s.issued [(.g, .reg a)]).advance) ∧
  (∀ (o : FenceOrder) (sc : Scope) (s : State), s.ctx.maint = true → (o ≠ .acq → s.setBusy s.cur.1 s.cur.2 = false) →
    (o = .acq → ∀ p ∈ (s.el s.cur.1).ops, p.set = s.cur.2 → p.covered false true = false) →
    exec (.fence o sc) s = .next (match o with
      | .acq => (s.acquire s.cur.1 sc).advance
      | .rel => (s.release s.cur.1 sc).advance
      | _ => let r := s.release s.cur.1 sc; (r.acquire r.cur.1 sc).advance)) ∧
  (∀ (o : FenceOrder) (sc : Scope) (s : State), s.ctx.maint = true → (o ≠ .acq ∧ s.setBusy s.cur.1 s.cur.2 = true ∨
      o = .acq ∧ ∃ p ∈ (s.el s.cur.1).ops, p.set = s.cur.2 ∧ p.covered false true = true) →
    exec (.fence o sc) s = .next s) ∧
  (∀ (o : FenceOrder) (sc : Scope) (s : State), s.ctx.maint = false →
    exec (.fence o sc) s = s.trap 0x13 (instrVal (.fence o sc)))

/-- A checked floating operation writes its result with count and flags, or takes the doldrums trap and holds it (R82, R84, R198, R200,
R203, R205, R73, R212). -/
def Obligations.FloatArithmeticRetiresOrTraps : Prop :=
  (∀ (i : Instr) (f : Fmt) (k : Nat → Nat → Opv → Opv → FpRes × Nat) (d a b : Opnd) (s : State), floatTable2 i = some (f, k, d, a, b) →
    s.readyFor [(.f, a), (.f, b)] [(.f, d)] = true →
    let u := s.issued [(.f, a), (.f, b)]
    let dr := u.draws u.th.rm 1
    let x := dr.2.takeF f.p a
    let y := x.2.takeF f.p b
    let r := k u.th.rm (dr.1.headD 0) (viewF f x.1) (viewF f y.1)
    (dr.2.th.fails r.2 = false → exec i s = .next (y.2.retireF r d)) ∧
    (dr.2.th.fails r.2 = true → exec i s = dr.2.doldrums
      (doldrumsVal 63 (viewF f y.1).t (viewF f x.1).t r.2 1 0 (Opnd.field d))
      ⟨[outF d ⟨BitVec.ofNat 64 r.1.bits, r.2⟩], r.1.fl, portUses [(.f, a), (.f, b)]⟩)) ∧
  (∀ (i : Instr) (f : Fmt) (k : Nat → Nat → Opv → FpRes × Nat) (d a : Opnd) (s : State), floatTable1 i = some (f, k, d, a) →
    s.readyFor [(.f, a)] [(.f, d)] = true →
    let u := s.issued [(.f, a)]
    let dr := u.draws u.th.rm 1
    let x := dr.2.takeF f.p a
    let r := k u.th.rm (dr.1.headD 0) (viewF f x.1)
    (dr.2.th.fails r.2 = false → exec i s = .next (x.2.retireF r d)) ∧
    (dr.2.th.fails r.2 = true → exec i s = dr.2.doldrums
      (doldrumsVal 63 63 (viewF f x.1).t r.2 1 0 (Opnd.field d))
      ⟨[outF d ⟨BitVec.ofNat 64 r.1.bits, r.2⟩], r.1.fl, portUses [(.f, a)]⟩)) ∧
  (∀ (dbl : Bool) (d a b c : Opnd) (s : State), s.readyFor [(.f, a), (.f, b), (.f, c)] [(.f, d)] = true →
    let f := if dbl then fmtF64 else fmtF32
    let u := s.issued [(.f, a), (.f, b), (.f, c)]
    let dr := u.draws u.th.rm 1
    let x := dr.2.takeF f.p a
    let y := x.2.takeF f.p b
    let z := y.2.takeF f.p c
    let r := fpFma f u.th.rm (dr.1.headD 0) (viewF f x.1) (viewF f y.1) (viewF f z.1)
    (dr.2.th.fails r.2 = false → exec (.ffma dbl d a b c) s = .next (z.2.retireF r d)) ∧
    (dr.2.th.fails r.2 = true → exec (.ffma dbl d a b c) s = dr.2.doldrums
      (doldrumsVal (viewF f z.1).t (viewF f y.1).t (viewF f x.1).t r.2 1 0 (Opnd.field d))
      ⟨[outF d ⟨BitVec.ofNat 64 r.1.bits, r.2⟩], r.1.fl, portUses [(.f, a), (.f, b), (.f, c)]⟩))

/-- Moves, sign operations, choices, classes, comparisons and count access write what their rows say and are never checked (R199, R200,
R201, R202, R206, R208, R209; log entry 74). -/
def Obligations.FloatMovesKeepBitsAndCounts : Prop :=
  (∀ (i : Instr) (f : Fmt) (k : Nat → Nat) (d a : Opnd) (s : State), floatMoves1 i = some (f, k, d, a) →
    s.readyFor [(.f, a)] [(.f, d)] = true →
    let x := (s.issued [(.f, a)]).takeF f.p a
    let v := viewF f x.1
    exec i s = .next ((x.2.putF d ⟨BitVec.ofNat 64 (k v.bits), if v.v.isNaN then 0 else v.t⟩).advance)) ∧
  (∀ (i : Instr) (f : Fmt) (k : Opv → Opv → Nat × Nat) (d a b : Opnd) (s : State), floatMoves2 i = some (f, k, d, a, b) →
    s.readyFor [(.f, a), (.f, b)] [(.f, d)] = true →
    let x := (s.issued [(.f, a), (.f, b)]).takeF f.p a
    let y := x.2.takeF f.p b
    let r := k (viewF f x.1) (viewF f y.1)
    exec i s = .next ((y.2.putF d ⟨BitVec.ofNat 64 r.1, r.2⟩).advance)) ∧
  (∀ (t : FType) (d a : Opnd) (s : State), s.readyFor [(.f, a)] [(.g, d)] = true →
    let x := (s.issued [(.f, a)]).takeF (ftypeFmt t).p a
    exec (.fclass t d a) s = .next ((x.2.putG d (BitVec.ofNat 64 (fpClass (ftypeFmt t) (viewF (ftypeFmt t) x.1).bits))).advance)) ∧
  (∀ (t : FType) (c : FCond) (d a b : Opnd) (s : State), s.readyFor [(.f, a), (.f, b)] [(.g, d)] = true →
    let x := (s.issued [(.f, a), (.f, b)]).takeF (ftypeFmt t).p a
    let y := x.2.takeF (ftypeFmt t).p b
    let r := fpCmp c (viewF (ftypeFmt t) x.1).v (viewF (ftypeFmt t) y.1).v
    exec (.fcmp t c d a b) s = .next (((y.2.putG d (if r.1 then 1 else 0)).updTh (·.raise r.2)).advance)) ∧
  (∀ (d : Opnd) (i : BitVec 12) (s : State), s.readyFor [] [(.f, d)] = true →
    exec (.fmovi d i) s = .next (((s.issued []).putF d ⟨BitVec.ofNat 64 (i.toNat * 2 ^ 20), 24⟩).advance)) ∧
  (∀ (d : Opnd) (a : RegNo) (v : Bool) (l : BitVec 2) (s : State), s.readyFor [(if v then .v else .f, .reg a)] [(.g, d)] = true →
    exec (.ftc d a v l) s = .next (((s.issued [(if v then .v else .f, .reg a)]).putG d
      (BitVec.ofNat 64 (if v then vget (s.rv a).tc l.toNat else (s.rf a).tc))).advance)) ∧
  (∀ (d : RegNo) (a : Opnd) (v : Bool) (l : BitVec 2) (s : State), s.readyFor [(.g, a)] [(if v then .v else .f, .reg d)] = true →
    let x := (s.issued [(.g, a)]).takeG a
    exec (.fstc d a v l) s = .next ((x.2.updTh (fun t => if v
      then t.wv d { rget t.v d with tc := vset (rget t.v d).tc l.toNat (min x.1.toNat 24) }
      else t.wf d { rget t.f d with tc := min x.1.toNat 53 })).advance))

/-- fcvt converts between its types under the named mode; a floating destination is checked (R207, R82, R73). -/
def Obligations.ConversionsRoundUnderTheirMode : Prop :=
  ∀ (dst src : CvtType) (rm : RmField) (d a : Opnd) (s : State),
    let m := s.th.cvtMode rm
    (∀ fs fd, cvtFmt src = some fs → cvtFmt dst = some fd → s.readyFor [(.f, a)] [(.f, d)] = true →
      let dr := (s.issued [(.f, a)]).draws m 1
      let x := dr.2.takeF fs.p a
      let r := fpConv fd m (dr.1.headD 0) (viewF fs x.1)
      (dr.2.th.fails r.2 = false → exec (.fcvt dst src rm d a) s = .next (x.2.retireF r d)) ∧
      (dr.2.th.fails r.2 = true → exec (.fcvt dst src rm d a) s = dr.2.doldrums
        (doldrumsVal 63 63 (viewF fs x.1).t r.2 1 0 (Opnd.field d))
        ⟨[outF d ⟨BitVec.ofNat 64 r.1.bits, r.2⟩], r.1.fl, portUses [(.f, a)]⟩)) ∧
    (∀ fd, cvtFmt src = none → cvtFmt dst = some fd → s.readyFor [(.g, a)] [(.f, d)] = true →
      let dr := (s.issued [(.g, a)]).draws m 1
      let x := dr.2.takeG a
      let r := intConv fd m (dr.1.headD 0) (cvtSource src x.1)
      (dr.2.th.fails r.2 = false → exec (.fcvt dst src rm d a) s = .next (x.2.retireF r d)) ∧
      (dr.2.th.fails r.2 = true → exec (.fcvt dst src rm d a) s = dr.2.doldrums
        (doldrumsVal 63 63 fd.p r.2 1 0 (Opnd.field d)) ⟨[outF d ⟨BitVec.ofNat 64 r.1.bits, r.2⟩], r.1.fl, portUses [(.g, a)]⟩)) ∧
    (∀ fs, cvtFmt src = some fs → cvtFmt dst = none → s.readyFor [(.f, a)] [(.g, d)] = true →
      let dr := (s.issued [(.f, a)]).draws m 1
      let x := dr.2.takeF fs.p a
      let r := fpToInt m (dr.1.headD 0) (cvtBounds dst).1 (cvtBounds dst).2 (viewF fs x.1)
      exec (.fcvt dst src rm d a) s = .next (((x.2.putG d (BitVec.ofInt 64 r.1)).updTh (·.raise r.2)).advance))

/-- Lane operations without rounding write each lane of their row, and wait for their turn at the quad's unit (R238, R240, R248, R35, R43,
R61, R74, R76; log entries 56, 74). -/
def Obligations.VectorLaneMoves : Prop :=
  (∀ (i : Instr) (t : LaneType) (k : VReg → VReg → Nat → Nat × Nat) (fl : VReg → VReg → FpFlags) (d a b : Opnd) (s : State),
    laneTable2 i = some (t, k, fl, d, a, b) → (s.vecTurn = false → exec i s = .next s) ∧
    (s.readyFor [(.v, a), (.v, b)] [(.v, d)] = true → s.vecTurn = true →
      let x := (s.vecIssued [(.v, a), (.v, b)]).takeV (laneFull t) a
      let y := x.2.takeV (laneFull t) b
      exec i s = .next (((y.2.putV d (vregOf t ((List.range (laneN t)).map (k x.1 y.1)))).updTh (·.raise (fl x.1 y.1))).advance))) ∧
  (∀ (t : LaneType) (d a : Opnd) (s : State), s.readyFor [(.v, a)] [(.v, d)] = true → s.vecTurn = true →
    let x := (s.vecIssued [(.v, a)]).takeV (laneFull t) a
    let moved := fun (fk : Nat → Nat) (ik : Int → Int) => vregOf t ((List.range (laneN t)).map (fun q =>
      let b := laneBits t x.1 q
      match laneFmt t with
      | some f => (if (f.val b).isNaN then b else fk b, movedCount t b (laneCount t f.p x.1 q))
      | none => (laneOfInt (laneW t) (ik (laneInt t b)), 24)))
    exec (.vabs t d a) s = .next ((x.2.putV d (moved (fun b => b % 2 ^ (laneW t - 1)) (fun v => v.natAbs))).advance) ∧
    exec (.vneg t d a) s = .next ((x.2.putV d (moved (fun b => (b + 2 ^ (laneW t - 1)) % 2 ^ laneW t) (fun v => -v))).advance)) ∧
  (∀ (t : LaneType) (d a : Opnd) (s : State), s.readyFor [(scalarCls t, a)] [(.v, d)] = true → s.vecTurn = true →
    let x := (s.vecIssued [(scalarCls t, a)]).takeScalar t a
    exec (.vbc t d a) s = .next ((x.2.putV d (vregOf t (List.replicate (laneN t) x.1))).advance)) ∧
  (∀ (t : LaneType) (d : RegNo) (a : Opnd) (l : BitVec 6) (s : State),
    s.readyFor [(scalarCls t, a), (.v, .reg d)] [(.v, .reg d)] = true → s.vecTurn = true →
    let x := (s.vecIssued [(scalarCls t, a), (.v, .reg d)]).takeScalar t a
    exec (.vins t d a l) s = .next ((x.2.putV (.reg d) (vregOf t ((List.range (laneN t)).map (fun q =>
      if q = l.toNat then x.1 else (laneBits t (s.rv d) q, laneCount t (laneFull t) (s.rv d) q))))).advance)) ∧
  (∀ (t : LaneType) (d a : Opnd) (l : BitVec 6) (s : State), s.readyFor [(.v, a)] [(scalarCls t, d)] = true → s.vecTurn = true →
    let x := (s.vecIssued [(.v, a)]).takeV (laneFull t) a
    exec (.vext t d a l) s = .next ((if (laneFmt t).isSome
      then x.2.putF d ⟨BitVec.ofNat 64 (laneMoved t x.1 l.toNat).1, (laneMoved t x.1 l.toNat).2⟩
      else x.2.putG d (BitVec.ofInt 64 (laneInt t (laneBits t x.1 l.toNat)))).advance)) ∧
  (∀ (t : LaneType) (d a b : Opnd) (s : State), s.readyFor [(.v, a), (.v, b)] [(.v, d)] = true → s.vecTurn = true →
    let x := (s.vecIssued [(.v, a), (.v, b)]).takeV (laneFull t) a
    let y := x.2.takeV (laneFull t) b
    let ones := 2 ^ laneW t - 1
    exec (.vcmp t d a b) s = .next (((y.2.putV d (vregOf t ((List.range (laneN t)).map (fun q =>
        match laneFmt t with
        | some f =>
          let p := (laneOpv t f x.1 q).v
          let r := (laneOpv t f y.1 q).v
          (if p.isNaN || r.isNaN then 0 else if fpOrd p r = some true then ones else if fpOrd p r = none then 1 else 0, 0)
        | none =>
          let p := laneInt t (laneBits t x.1 q)
          let r := laneInt t (laneBits t y.1 q)
          (if p < r then ones else if p = r then 1 else 0, 24))))).updTh (·.raise (match laneFmt t with
        | some f => if (List.range (laneN t)).any (fun q => (laneOpv t f x.1 q).v.isNaN || (laneOpv t f y.1 q).v.isNaN) then flNV else 0
        | none => 0))).advance)) ∧
  (∀ (t : LaneType) (d : RegNo) (a b : Opnd) (s : State),
    s.readyFor [(.v, a), (.v, b), (.v, .reg d)] [(.v, .reg d)] = true → s.vecTurn = true →
    let x := (s.vecIssued [(.v, a), (.v, b), (.v, .reg d)]).takeV (laneFull t) a
    let y := x.2.takeV (laneFull t) b
    exec (.vsel t d a b) s = .next ((y.2.putV (.reg d) (vregOf t ((List.range (laneN t)).map (fun q =>
      laneMoved t (if 2 ^ (laneW t - 1) ≤ laneBits t (s.rv d) q then x.1 else y.1) q)))).advance))

/-- Checked vector operations write all lanes with their counts, or trap for the lowest lane that fails (R238, R240, R241, R242, R243,
R73, R82, R84; log entries 35, 56, 65, 75, 76). -/
def Obligations.VectorLaneArithmetic : Prop :=
  (∀ (i : Instr) (t : LaneType) (kf : Fmt → Nat → Nat → Opv → Opv → FpRes × Nat) (ki : Int → Int → Int) (d a b : Opnd) (s : State),
    laneArith i = some (t, kf, ki, d, a, b) → s.readyFor [(.v, a), (.v, b)] [(.v, d)] = true → s.vecTurn = true →
    let u := s.vecIssued [(.v, a), (.v, b)]
    (∀ f, laneFmt t = some f →
      let dr := u.draws u.th.rm (laneN t)
      let x := dr.2.takeV f.p a
      let y := x.2.takeV f.p b
      let rs : List LaneRes := (List.range (laneN t)).map (fun q =>
        ⟨kf f u.th.rm (dr.1.getD q 0) (laneOpv t f x.1 q) (laneOpv t f y.1 q), (laneOpv t f x.1 q).t, (laneOpv t f y.1 q).t, 63⟩)
      (rs.findIdx? (laneBad dr.2.th) = none → exec i s = .next (y.2.retireV t rs d)) ∧
      (∀ q l, rs.findIdx? (laneBad dr.2.th) = some q → rs[q]? = some l →
        exec i s = dr.2.laneTrap t [(.v, a), (.v, b)] d rs q l)) ∧
    (laneFmt t = none →
      let x := u.takeV 24 a
      let y := x.2.takeV 24 b
      exec i s = .next ((y.2.putV d (vregOf t ((List.range (laneN t)).map (fun q =>
        ((ki (laneInt t (laneBits t x.1 q)) (laneInt t (laneBits t y.1 q)) % 2 ^ laneW t).toNat, 24))))).advance))) ∧
  (∀ (bf : Bool) (d a b c : Opnd) (s : State), s.readyFor [(.v, a), (.v, b), (.v, c)] [(.v, d)] = true → s.vecTurn = true →
    let t := if bf then LaneType.bf16 else LaneType.f32
    let f := if bf then fmtBf16 else fmtF32
    let u := s.vecIssued [(.v, a), (.v, b), (.v, c)]
    let dr := u.draws u.th.rm (laneN t)
    let x := dr.2.takeV f.p a
    let y := x.2.takeV f.p b
    let z := y.2.takeV f.p c
    let rs : List LaneRes := (List.range (laneN t)).map (fun q =>
      ⟨fpFma f u.th.rm (dr.1.getD q 0) (laneOpv t f x.1 q) (laneOpv t f y.1 q) (laneOpv t f z.1 q),
        (laneOpv t f x.1 q).t, (laneOpv t f y.1 q).t, (laneOpv t f z.1 q).t⟩)
    let i := if bf then Instr.vfmaBf16 d a b c else Instr.vfmaF32 d a b c
    (rs.findIdx? (laneBad dr.2.th) = none → exec i s = .next (z.2.retireV t rs d)) ∧
    (∀ q l, rs.findIdx? (laneBad dr.2.th) = some q → rs[q]? = some l →
      exec i s = dr.2.laneTrap t [(.v, a), (.v, b), (.v, c)] d rs q l)) ∧
  (∀ (t : LaneType) (d a : Opnd) (s : State), s.readyFor [(.v, a)] [(.v, d)] = true → s.vecTurn = true →
    let u := s.vecIssued [(.v, a)]
    (∀ f, laneFmt t = some f →
      let dr := u.draws u.th.rm (laneN t - 1)
      let x := dr.2.takeV f.p a
      let rs : List LaneRes := ⟨vredSum t f u.th.rm dr.1 x.1, laneCount t f.p x.1 0, 63, 63⟩ ::
        List.replicate (laneN t - 1) ⟨(f.zeroRes false, f.p), 63, 63, 63⟩
      (rs.findIdx? (laneBad dr.2.th) = none → exec (.vred t d a) s = .next (x.2.retireV t rs d)) ∧
      (∀ q l, rs.findIdx? (laneBad dr.2.th) = some q → rs[q]? = some l → exec (.vred t d a) s = dr.2.laneTrap t [(.v, a)] d rs q l)) ∧
    (laneFmt t = none →
      let x := u.takeV 24 a
      exec (.vred t d a) s = .next ((x.2.putV d (vregOf t
        ((((List.range (laneN t)).map (laneBits t x.1)).sum % 2 ^ laneW t, 24) :: List.replicate (laneN t - 1) (0, 24)))).advance))) ∧
  (∀ (t : LaneType) (d a b : Opnd) (s : State), s.readyFor [(.v, a), (.v, b)] [(.v, d)] = true → s.vecTurn = true →
    let u := s.vecIssued [(.v, a), (.v, b)]
    (∀ f, laneFmt t = some f →
      let dr := u.draws u.th.rm 1
      let x := dr.2.takeV f.p a
      let y := x.2.takeV f.p b
      let z : LaneRes := ⟨(fmtF32.zeroRes false, 24), 63, 63, 63⟩
      let rs : List LaneRes := [⟨fpDot u.th.rm (dr.1.headD 0) ((List.range (laneN t)).map (fun q => (laneOpv t f x.1 q, laneOpv t f y.1 q))),
        laneCount t f.p x.1 0, laneCount t f.p y.1 0, 63⟩, z, z, z]
      (rs.findIdx? (laneBad dr.2.th) = none → exec (.vdot t d a b) s = .next (y.2.retireV .f32 rs d)) ∧
      (∀ q l, rs.findIdx? (laneBad dr.2.th) = some q → rs[q]? = some l →
        exec (.vdot t d a b) s = dr.2.laneTrap .f32 [(.v, a), (.v, b)] d rs q l)) ∧
    (laneFmt t = none →
      let x := u.takeV 24 a
      let y := x.2.takeV 24 b
      exec (.vdot t d a b) s = .next ((y.2.putV d ⟨BitVec.ofNat 128 ((((List.range (laneN t)).map (fun q =>
        laneInt t (laneBits t x.1 q) * laneInt t (laneBits t y.1 q))).sum % 2 ^ 32).toNat), Vector.replicate 4 24⟩).advance))) ∧
  (∀ (dst src : LaneType) (d a : Opnd) (s : State), s.readyFor [(.v, a)] [(.v, d)] = true → s.vecTurn = true →
    let u := s.vecIssued [(.v, a)]
    let n := min (laneN dst) (laneN src)
    let dr := u.draws u.th.rm (if (laneFmt src).isSome || (laneFmt dst).isSome then n else 0)
    let x := dr.2.takeV (laneFull src) a
    let rs : List LaneRes := (List.range n).map (fun q => vcvtLane dst src u.th.rm (dr.1.getD q 0) x.1 q) ++
      List.replicate (laneN dst - n) ⟨(⟨0, 0, false, false⟩, laneFull dst), 63, 63, 63⟩
    ((laneFmt dst).isSome = true → rs.findIdx? (laneBad dr.2.th) = none → exec (.vcvt dst src d a) s = .next (x.2.retireV dst rs d)) ∧
    ((laneFmt dst).isSome = true → ∀ q l, rs.findIdx? (laneBad dr.2.th) = some q → rs[q]? = some l →
      exec (.vcvt dst src d a) s = dr.2.laneTrap dst [(.v, a)] d rs q l) ∧
    (laneFmt dst = none → exec (.vcvt dst src d a) s = .next (((x.2.putV d (vregOf dst (rs.map (fun l => (l.r.1.bits, 24))))).updTh
      (·.raise (laneFlags rs))).advance)))

/-- A floating or vector instruction on registers changes one register, the accrued flags, the draws and the pc, and no memory (R200,
R201, R205, R206, R207, R208, R209, R240, R67, R34, R73, R74). -/
def Obligations.FloatAndVectorFrame : Prop :=
  ∀ (i : Instr) (r : FvRow) (d : RegNo) (s : State), fvTable i = some r → r.d = .reg d → (∀ x ∈ r.rds, ∃ n, x.2 = .reg n) →
    s.clearFor r.rds [(r.cls, .reg d)] = true → s.th.frame = none → (∀ k, r.checked = some k → s.th.sigctl.getLsbD k = false) →
    (r.vec = true → (Map.get Quad.start s.quads (s.quadOf s.cur.1)).wops = []) →
    ∃ t, exec i s = .next t ∧ s.onlySet (t.updEl s.drawLe (fun e => { e with srseed := (s.el s.drawLe).srseed })) t.th ∧
      ((∀ m, r.rounds = some m → s.th.cvtMode m ≠ 5) → s.onlySet t t.th) ∧
      (match r.cls with
        | .g => s.th.onlyGFlags t.th d
        | .f => s.th.onlyF t.th d
        | .v => s.th.onlyV t.th d) ∧
      (r.flags = false → t.th.fcsr = s.th.fcsr) ∧ t.th.pc = s.th.pc + 4 ∧ ∀ p, Mem.read p t.mem = Mem.read p s.mem

/-- A w-op enters its quad's queue with its command, and the oldest one runs to its token or to a port that blocks it (R244, R246, R247,
R248, R249, R250, R151, R73, R375, R360, R10; log entries 30, 32, 35, 56, 71, 76). -/
def Obligations.WopsQueueAndRun : Prop :=
  (∀ (i : Instr) (sub : WSub) (d a : RegNo) (b : List Opnd) (s : State), wopTable i = some (sub, d, a, b) →
    let rds := (Cls.g, Opnd.reg a) :: b.map (fun o => (Cls.f, o))
    s.readyFor rds [(.g, .reg d)] = true →
    let u := s.issued rds
    let qd := s.quadOf s.cur.1
    (((s.rg a).toNat % 64 ≠ 0 → exec i s = u.trap 0x04 (s.rg a)) ∧
    ((s.rg a).toNat % 64 = 0 → Config.wopPlaces ≤ (Map.get Quad.start u.quads qd).wops.length → exec i s = .next u) ∧
    ((s.rg a).toNat % 64 = 0 → u.structBehind (s.rg a).toNat 192 = true → exec i s = .next u) ∧
    ((s.rg a).toNat % 64 = 0 → (Map.get Quad.start u.quads qd).wops.length < Config.wopPlaces →
      u.structBehind (s.rg a).toNat 192 = false →
      let sc := match b with
        | o :: _ => u.takeF 53 o
        | [] => (⟨0, 53⟩, u)
      let who := sc.2.newId.2.issuer sc.2.nextId
      let r := sc.2.newId.2.readShapes who (s.rg a).toNat 3
      let ds : List Shape := match r.1 with
        | .ok hs => hs
        | .error _ => []
      let h := fun (k : Nat) => ds.getD k (shapeOf [])
      let sound := !ds.isEmpty && (if sub.usesY then ds else ds.take 2).all (fun h => h.error.isNone)
      let own := sound && (h 0).inOwn
      let n := if sound then (h 0).count * sub.roundings (h 0) (h 1) (h 2) else 0
      exec i s = .next (
        let v := if r.2.th.rm = 5 then r.2.updEl r.2.drawLe (fun e => { e with srseed := drawsAfter e.srseed n }) else r.2
        let c : WCmd := ⟨{ who with ownDst := own }, sub, (s.rg a).toNat, sc.1, s.th.rm,
          (r.2.el r.2.drawLe).srseed, 0, 0, [], b.findSome? (fun o => match o with
            | .reg n => some n
            | .port _ => none), ds.take (if sub.usesY then 3 else 2), [], [], false, none⟩
        ((v.queueWop qd { c with recSnap := v.wopRecords c, snap := v.wopSources c }).mark (.g d) sc.2.nextId).advance)))) ∧
  (∀ (quad : Nat) (s : State) (c : WCmd) (rest : List WCmd), (Map.get Quad.start s.quads quad).wops = c :: rest →
    s.storesDone c.who = true → (s.ctx.stopped = false ∨ s.fenced ((c :: rest).map (·.who.id)) = true) →
    let put := fun (ws : List WCmd) (s : State) => ({ s with
      quads := Map.set quad { Map.get Quad.start s.quads quad with wops := ws } s.quads } : State)
    (∀ e s1, s.wopJob c = (.error e, s1) → exec (.wopExecute quad) s =
      .next ((put rest (s1.tokenOf c (tokErr e)).2).endCommand c.who (s1.tokenOf c (tokErr e)).1)) ∧
    (∀ j s1 c1 v s2, s.wopJob c = (.ok j, s1) →
      (s1.wopUndo j c).wopElems j (j.d.count + 1) { c with job := some j } = (c1, some v, s2) →
      exec (.wopExecute quad) s = .next ((put (rest.map s2.resnap) s2).endCommand c.who v)) ∧
    (∀ j s1 c1 s2, s.wopJob c = (.ok j, s1) →
      (s1.wopUndo j c).wopElems j (j.d.count + 1) { c with job := some j } = (c1, none, s2) →
      exec (.wopExecute quad) s = .next (put ((c1 :: rest).map s2.resnap) s2))) ∧
  (∀ (c : WCmd) (v : Word) (s : State), (c.broken = false → s.tokenOf c v = (v, s)) ∧
    (c.broken = true → s.tokenOf c v = (freeWordAt s.free 0, { s with free := s.free + 1 }))) ∧
  (∀ (quad : Nat) (s : State), (Map.get Quad.start s.noted.quads quad).wops =
    (Map.get Quad.start s.quads quad).wops.map (fun c => { c with broken := c.broken || s.recordsDiffer c || s.sourcesDiffer c })) ∧
  (∀ (quad : Nat) (s : State), ∃ t, exec (.wopQuantumEnd quad) s = .next t ∧
    (Map.get Quad.start t.quads quad).grants = (List.range 4).filterMap (fun k => s.leAt (4 * quad + k)) ∧
    (Map.get Quad.start t.quads quad).wops = (Map.get Quad.start s.quads quad).wops ∧ t.ctx = s.ctx ∧ t.mem = s.mem) ∧
  (∀ s : State,
    s.noted.ctx.unspec = (s.ctx.unspec ||
      s.quads.any (fun q => q.2.wops.any (fun c => s.sourcesDiffer c || (c.job.isSome && s.recordsDiffer c)))) ∧
    (s.noted.ctx.unspec = false → s.noted = { s with quads := s.noted.quads }) ∧
    { s.noted.ctx with unspec := s.ctx.unspec, elems := s.ctx.elems } = s.ctx ∧
    (s.noted.ctx.unspec = true → s.memInv = true → ∀ p,
      ((∃ m ∈ s.ownMemory, m.1 ≤ p ∧ p < m.1 + m.2) → Mem.read p s.noted.mem = Config.freeByte s.free (2 ^ 40 + p)) ∧
      ((∀ m ∈ s.ownMemory, p < m.1 ∨ m.1 + m.2 ≤ p) → Mem.read p s.noted.mem = Mem.read p s.mem)) ∧
    (s.noted.ctx.unspec = true → ∀ t b, b ∈ (s.noted.tile t).l1 → (t ∉ s.ctx.tiles → b ∈ (s.tile t).l1) ∧
      ((∀ m ∈ s.ownMemory, b.pa < m.1 ∨ m.1 + m.2 ≤ b.pa) → b ∈ (s.tile t).l1) ∧
      (t ∈ s.ctx.tiles → (∃ m ∈ s.ownMemory, m.1 ≤ b.pa ∧ b.pa < m.1 + m.2) →
        ∀ i k, i < 4 → k < 64 → (vget b.lines i).byte k = Config.freeByte s.free (2 ^ 40 + (b.pa + 64 * i) + k))) ∧
    (∀ m, m ∈ s.ownMemory ↔ (∃ le, le < s.nLe ∧ m = (locPlace le 0, 0xC000)) ∨ (∃ t ∈ s.ctx.tiles, m = (winPlace t 0, 3 * 65536)) ∨
      (m.2 = 65536 ∧ m.1 ∈ s.mapped s.ctx (fun e => e.wr && (!e.sup || !s.ctx.ownEntry)) ∧
        ∀ v ∈ s.saved, m.1 ∉ s.mapped v.ctx (fun _ => true))) ∧
    (s.noted.ctx.unspec = true → s.noted.free = s.free + 1 ∧ ∀ le k n, (Map.find le s.ctx.elems).isSome = true →
      let o := s.thOf le k
      let t := s.noted.thOf le k
      (n ≠ 0 → ∃ j, rget t.g n = freeWordAt s.free j) ∧ rget t.g 0 = rget o.g 0 ∧
      (∃ i j, rget t.f n = ⟨freeWordAt s.free i, (freeWordAt s.free j).toNat % 54⟩) ∧
      (∃ i j, (rget t.v n).bits = freeWordAt s.free i ++ freeWordAt s.free j) ∧ (∀ q, vget (rget t.v n).tc q ≤ 24) ∧
      (∀ a, t.act = some a → ∀ w ∈ a.payload, ∃ j, w = freeWordAt s.free j) ∧ (∀ w ∈ t.pend, ∃ j, w = freeWordAt s.free j) ∧
      (∀ w, w ∈ (vget (s.noted.el le).queues k).words ∨ w ∈ (vget (s.noted.el le).links k).words → ∃ j, w = freeWordAt s.free j) ∧
      (s.ctx.ownEntry = true → t.sg = o.sg) ∧ (s.ctx.ownEntry = false → n ≠ 0 → ∃ j, rget t.sg n = freeWordAt s.free j) ∧
      ((s.ctx.ownEntry = false ∨ o.inSup = false) → t.fcsr.toNat < 256 ∧ t.fcsr.toNat % 8 < 6 ∧ (∃ j, t.sigctl = freeWordAt s.free j &&& 0x73F) ∧
        (∃ j, t.tepc = freeWordAt s.free j &&& 0x0001FFFFFFFFFFFC) ∧ ∃ j, t.tval = freeWordAt s.free j) ∧
      (s.ctx.ownEntry = true → o.inSup = true → t.fcsr = o.fcsr ∧ t.sigctl = o.sigctl ∧ t.tepc = o.tepc ∧ t.tval = o.tval) ∧
      t.run = o.run ∧ t.pc = o.pc ∧ t.pending = o.pending))

/-- A matrix command is refused by its capability, traps once for a lost image, stalls at a full unit, or leaves for its unit (R260, R262,
R264, R276, R277, R278, R279, R281, R284, R151, R347; log entry 30). -/
def Obligations.MatrixCommandsAreSent : Prop :=
  ∀ (i : Instr) (op : MxOp) (d a : RegNo) (rds : List (Cls × Opnd)) (right : Nat) (s : State),
    matrixTable i = some (op, d, a, rds, right) → s.readyFor ((.g, .reg a) :: rds) [(.g, .reg d)] = true →
    let u := s.issued ((.g, .reg a) :: rds)
    let cap := s.rg a
    let tile := u.capTile cap
    (∀ r, u.capRefusal cap right true = some r →
      exec i s = .next (((u.newId.2.mark (.g d) u.nextId).token (u.newId.2.issuer u.nextId) (tokErr (r * 256 + 0x20))).advance)) ∧
    (u.capRefusal cap right true = none → (u.tile tile).mx.lost = true →
      exec i s = (u.updTile tile (fun tl => { tl with mx := { tl.mx with lost := false } })).trap 0x14 cap) ∧
    (u.capRefusal cap right true = none → (u.tile tile).mx.lost = false → ∀ b c, i = .mdrn d a b c → u.blockWaits (s.rg b) = true →
      exec i s = .next u) ∧
    (u.capRefusal cap right true = none → (u.tile tile).mx.lost = false → (∀ b c, i = .mdrn d a b c → u.blockWaits (s.rg b) = false) →
      ∃ w, (op ≠ .mdrn → w = u) ∧ (∀ b c, i = .mdrn d a b c → w = (u.peekBlock (u.issuer 0) (s.rg b)).2) ∧
        (Config.matrixPlaces ≤ w.unitLoad (w.capTile cap) → exec i s = .next w) ∧
        (w.unitLoad (w.capTile cap) < Config.matrixPlaces →
          ∃ t c, exec i s = .next t ∧ t.ctx.flights = w.ctx.flights ++ [(w.nextId + 1, .matrix c (w.capTile cap))] ∧ c.op = op ∧
            c.cap = cap ∧ c.who.id = w.nextId ∧ c.who.le = w.cur.1 ∧ c.who.set = w.cur.2 ∧ c.doneRows = 0 ∧ c.job = none ∧
            c.sigctl = (if w.th.inSup then 0 else w.th.sigctl) ∧ c.rm = s.th.rm ∧ c.seed = (s.el s.drawLe).srseed ∧
            c.block = (match rds with
              | (.g, .reg b) :: _ => s.rg b
              | _ => 0) ∧
            c.first = (match rds with
              | [_, (.g, .reg n)] => s.rg n
              | _ => 0) ∧
            c.scale = (match rds with
              | [_, (.f, .reg n)] => s.rf n
              | _ => ⟨0, 24⟩) ∧
            c.sreg = (match rds with
              | [_, (.f, .reg n)] => some n
              | _ => none) ∧
            t.awaits d w.nextId = true ∧ t.mem = w.mem ∧ t.tiles = w.tiles ∧
            (∀ b e, i = .mdrn d a b e →
              let h := (u.peekBlock (u.issuer 0) (s.rg b)).1
              c.who.ownDst = (h.map Shape.inOwn).getD false ∧
              (w.th.rm = 5 → (t.el w.drawLe).srseed =
                drawsAfter (w.el w.drawLe).srseed ((h.map (fun h => h.dims.getD 0 0 * h.dims.getD 1 0)).getD 0))))) ∧
    (∀ b e bs v, i = .mdrn d a b e →
      ((s.rg b).toNat % 64 ≠ 0 → (u.peekBlock (u.issuer 0) (s.rg b)).1 = none) ∧
      ((s.rg b).toNat % 64 = 0 → u.readStruct (u.issuer 0) (s.rg b).toNat 8 9 = (.ok bs, v) →
        ((shapeOf (bs.take 64)).error.isSome = true ∨ 2 ^ 17 ≤ leNat (bs.drop 64)) → (u.peekBlock (u.issuer 0) (s.rg b)).1 = none) ∧
      ((s.rg b).toNat % 64 = 0 → u.readStruct (u.issuer 0) (s.rg b).toNat 8 9 = (.ok bs, v) →
        (shapeOf (bs.take 64)).error = none → leNat (bs.drop 64) < 2 ^ 17 →
        u.peekBlock (u.issuer 0) (s.rg b) = (some (shapeOf (bs.take 64)), v)))

/-- mcap mints for the supervisor, mqry asks the unit, and a unit accepts, performs and reports commands in order (R261, R263, R264, R275,
R282, R260, R151; log entries 32, 76). -/
def Obligations.MatrixUnitsAcceptAndComplete : Prop :=
  (∀ (d : RegNo) (a b : Opnd) (s : State),
    (s.th.inSup = false → exec (.mcap d a b) s = s.trap 0x12 (instrVal (.mcap d a b))) ∧
    (s.th.inSup = true → s.readyFor [(.g, a), (.g, b)] [(.g, .reg d)] = true →
      let u := s.issued [(.g, a), (.g, b)]
      let x := u.takeG a
      let y := x.2.takeG b
      (x.1.toNat < 2 ^ 28 → y.1.toNat < 2 ^ 8 → exec (.mcap d a b) s = .next (
        let low := BitVec.ofNat 36 (y.1.toNat * 2 ^ 28 + x.1.toNat)
        (y.2.wg d (Config.keyedCheck u.resets low ++ low)).advance)) ∧
      (2 ^ 28 ≤ x.1.toNat → exec (.mcap d a b) s = u.trap 0x07 x.1) ∧
      (x.1.toNat < 2 ^ 28 → 2 ^ 8 ≤ y.1.toNat → exec (.mcap d a b) s = u.trap 0x07 y.1))) ∧
  (∀ (d a : RegNo) (s : State), s.readyFor [(.g, .reg a)] [(.g, .reg d)] = true →
    let u := s.issued [(.g, .reg a)]
    u.capRefusal (s.rg a) 0xF000 true = none → (u.tile (u.capTile (s.rg a))).mx.lost = false →
    exec (.mqry d a) s = .next (((u.newId.2.launchFlight (.query (u.newId.2.issuer u.nextId) (s.rg a) (u.capTile (s.rg a)))).mark
      (.g d) u.nextId).advance)) ∧
  (∀ (k : Nat) (s : State) (who : Issuer) (cap : Word) (t : Nat), s.flight k = some (.query who cap t) →
    (s.ctx.stopped = false ∨ s.fenced [who.id] = true) → s.streamBefore k (.query who cap t) = false →
    (∀ r, (s.dropFlight k).capRefusal cap 0xF000 false = some r →
      exec (.mqryAnswer k) s = .next ((s.dropFlight k).token who (tokErr (r * 256 + 0x20)))) ∧
    ((s.dropFlight k).capRefusal cap 0xF000 false = none →
      exec (.mqryAnswer k) s = .next ((s.dropFlight k).token who ((s.tile t).mx.status t)))) ∧
  (∀ (k : Nat) (s : State) (c : MxCmd) (t : Nat), s.flight k = some (.matrix c t) →
    (s.ctx.stopped = false ∨ s.fenced [c.who.id] = true) → s.streamBefore k (.matrix c t) = false →
    (∀ r, s.capRefusal c.cap (MxOp.right c.op) false = some r →
      exec (.matrixCommandAccept k) s = .next ((s.dropFlight k).token c.who (tokErr (r * 256 + 0x20)))) ∧
    (s.capRefusal c.cap (MxOp.right c.op) false = none →
      (Config.matrixPlaces ≤ (s.tile t).mx.queue.length → exec (.matrixCommandAccept k) s = .next s) ∧
      ((s.tile t).mx.queue.length < Config.matrixPlaces → ∃ v x, exec (.matrixCommandAccept k) s = .next v ∧
        (x = c.scale ∨ ∃ n, c.sreg = some n ∧ x = rget (s.thOf c.who.le c.who.set).f n) ∧
        (v.tile t).mx.queue = (s.tile t).mx.queue ++ [{ c with scale := x }] ∧ v.ctx.flights = s.ctx.flights.filter (fun e => e.1 != k) ∧ v.mem = s.mem))) ∧
  (∀ (tile : Nat) (s : State) (c : MxCmd) (rest : List MxCmd), (s.tile tile).mx.queue = c :: rest → s.storesDone c.who = true →
    (s.ctx.stopped = false ∨ s.fenced ((c :: rest).map (·.who.id)) = true) →
    (∀ v s1, s.mxPerform c tile = (.done v, s1) → exec (.matrixCommandComplete tile) s =
      .next ((s1.updTile tile (fun tl => { tl with mx := { tl.mx.noted with queue := rest } })).endCommand c.who v)) ∧
    (∀ c1 s1, s.mxPerform c tile = (.blocked c1, s1) → exec (.matrixCommandComplete tile) s =
      .next (s1.updTile tile (fun tl => { tl with mx := { tl.mx with queue := c1 :: rest } }))))

/-- Copies, gathers, scatters and contributions leave with their operands and report when they are performed (R252, R253, R254, R255,
R256, R257, R117, R151; log entries 29, 30, 33, 72, 74, 75, 76). -/
def Obligations.CopyEngineCommands : Prop :=
  (∀ (d a b : RegNo) (c : Opnd) (s : State), s.readyFor [(.g, .reg a), (.g, .reg b), (.g, c)] [(.g, .reg d)] = true →
    let u := s.issued [(.g, .reg a), (.g, .reg b), (.g, c)]
    (u.copyFull = true → exec (.cpy d a b c) s = .next u) ∧
    (u.copyFull = false →
      let n := u.takeG c
      exec (.cpy d a b c) s = .next (((n.2.newId.2.queueCopy ⟨{ n.2.newId.2.issuer n.2.nextId with ownDst := ownCopy (s.rg a) n.1 },
        .cpy (s.rg a) (s.rg b) n.1⟩).mark (.g d) n.2.nextId).advance))) ∧
  (∀ (own : Bool) (d : Opnd) (a b : RegNo) (c : Opnd) (s : State),
    s.readyFor [(.g, .reg a), (.g, .reg b), (.g, c)] [(.g, d)] = true →
    let u := s.issued [(.g, .reg a), (.g, .reg b), (.g, c)]
    let i := if own then Instr.rbr d a b c else Instr.cpym d a b c
    (u.copyFull = true → exec i s = .next u) ∧
    (u.copyFull = false →
      let n := u.takeG c
      let issue : Word := s.th.callctr.setWidth 64
      exec i s = .next ((((n.2.newId.2.queueCopy ⟨{ n.2.newId.2.issuer n.2.nextId with ownDst := ownCopy (s.rg a) n.1 },
        if own then .rbr (s.rg a) (s.rg b) n.1 issue else .cpym (s.rg a) (s.rg b) n.1 issue⟩).updTh (fun t =>
          { t with callctr := t.callctr + 1 })).putG d issue).advance))) ∧
  (∀ (scatter : Bool) (d a b c : RegNo) (s : State),
    s.readyFor [(.g, .reg a), (.g, .reg b), (.g, .reg c)] [(.g, .reg d)] = true →
    let u := s.issued [(.g, .reg a), (.g, .reg b), (.g, .reg c)]
    let who := u.newId.2.issuer u.nextId
    let r := u.newId.2.peekRecord who (s.rg b)
    let i := if scatter then Instr.scat d a b c else Instr.gath d a b c
    (u.copyFull = true ∨ u.recordWaits (s.rg b) = true → exec i s = .next u) ∧
    (u.copyFull = false → u.recordWaits (s.rg b) = false →
      exec i s = .next (((r.2.queueCopy ⟨{ who with ownDst := (r.1.map Shape.inOwn).getD false },
      if scatter then .scat (s.rg a) (s.rg b) (s.rg c) else .gath (s.rg a) (s.rg b) (s.rg c)⟩).mark (.g d) u.nextId).advance))) ∧
  (∀ (tile k : Nat) (s : State) (c : CopyCmd), (s.copyRunners tile).find? (fun c => c.who.id == k) = some c → c.isColl = false →
    s.storesDone c.who = true → exec (.copyCommandComplete tile k) s = .next
      ((s.updTile tile (fun tl => { tl with copies := tl.copies.filter (fun c => c.who.id != k) })).copyPerform c)) ∧
  (∀ (who : Issuer) (own : Bool) (dst src n : Word) (s : State),
    (2 ^ 32 ≤ n.toNat → s.copyResult who own dst src n = (tokErr 0x24, s)) ∧
    (n.toNat < 2 ^ 32 → inAperture dst.toNat n.toNat = true → s.copyResult who own dst src n = (tokErr 0x07, s)) ∧
    (n = 0 → own = false → s.copyResult who own dst src n = (0, s))) ∧
  (∀ (d a b : RegNo) (op : CollOp) (s : State), s.readyFor [(.g, .reg a), (.g, .reg b)] [(.g, .reg d)] = true →
    let u := s.issued [(.g, .reg a), (.g, .reg b)]
    ((s.rg b).toNat % 32 ≠ 0 → exec (.coll d a b op) s = u.trap 0x04 (s.rg b)) ∧
    ((s.rg b).toNat % 32 = 0 → u.copyFull = true → exec (.coll d a b op) s = .next u) ∧
    ((s.rg b).toNat % 32 = 0 → u.copyFull = false → exec (.coll d a b op) s = .next (((u.newId.2.queueCopy
      ⟨u.newId.2.issuer u.nextId, .coll (s.rg a).toNat (s.rg b) op⟩).mark (.g d) u.nextId).advance))) ∧
  (∀ (k t g : Nat) (who : Issuer) (block : Word) (op : CollOp) (s : State), s.copyAt k = some (t, ⟨who, .coll g block op⟩) →
    ((s.copyRunners t).all (fun c => c.who.id != k) = true → exec (.collContribution k) s = .next s) ∧
    ((s.copyRunners t).any (fun c => c.who.id == k) = true → s.storesDone who = true →
      ((255 < g ∨ (s.members g).contains who.le = false) →
        exec (.collContribution k) s = .next
          ((if 255 < g then s.dropCopy t k else (s.dropCopy t k).membersSeen g).token who (tokErr 0x26))) ∧
      (g ≤ 255 → (s.members g).contains who.le = true →
        exec (.collContribution k) s = .next (((s.dropCopy t k).membersSeen g).collRun who g (s.members g) block op)))) ∧
  (∀ (t g : Nat) (who : Issuer) (block : Word) (op : CollOp) (s : State), g ≤ 255 → (s.members g).contains who.le = true →
    (s.engine g).collIn.contains who.le = true → (⟨who, .coll g block op⟩ : CopyCmd) ∉ s.copyRunners t)

/-- send, sendm, gsend and callat check their operands and append one message with the pending words before their own (R174, R175, R183,
R184, R341, R117, R31). -/
def Obligations.MessagesAreBuiltAndBuffered : Prop :=
  (∀ (d a : RegNo) (n : BitVec 6) (rel : Option Scope) (s : State), s.readyFor ((.g, .reg d) :: runUses a n) [] = true →
    let u := s.issued ((.g, .reg d) :: runUses a n)
    let w := s.rg d
    (u.badDest w = true → exec (.send d a n rel) s = u.trap 0x07 w) ∧
    (u.badDest w = false → s.th.sendFull n.toNat = true → exec (.send d a n rel) s = u.trap 0x0B s.th.overflowVal) ∧
    (u.badDest w = false → s.th.sendFull n.toNat = false → s.relWaits rel = false → exec (.send d a n rel) s = .next ((u.append
      (.one (w.toNat / 64) (u.buildMsg (w.toNat / 2 % 32) (w.toNat % 2 == 1) rel ((List.range n.toNat).map (fun k =>
        s.rg (a + BitVec.ofNat 5 k)))))).advance)) ∧
    (w.toNat < 2 ^ 14 → 4 ≤ w.toNat / 256 % 32 → w.toNat / 256 % 32 ≤ 29 → s.th.sendFull n.toNat = false → s.relWaits rel = false →
      exec (.gsend d a n rel) s = .next ((u.append (.group (w.toNat % 256) (u.buildMsg (w.toNat / 256 % 32) (w.toNat / 8192 % 2 == 1) rel
        ((List.range n.toNat).map (fun k => s.rg (a + BitVec.ofNat 5 k)))))).advance)) ∧
    (u.badDest w = false → s.th.sendFull n.toNat = false → s.relWaits rel = true → exec (.send d a n rel) s = .next u) ∧
    ((2 ^ 14 ≤ w.toNat ∨ w.toNat / 256 % 32 < 4 ∨ 29 < w.toNat / 256 % 32) → exec (.gsend d a n rel) s = u.trap 0x07 w) ∧
    (w.toNat < 2 ^ 14 → 4 ≤ w.toNat / 256 % 32 → w.toNat / 256 % 32 ≤ 29 → s.th.sendFull n.toNat = true →
      exec (.gsend d a n rel) s = u.trap 0x0B (BitVec.ofNat 64 (s.th.sendBuf.length * 256 + s.th.pend.length))) ∧
    (w.toNat < 2 ^ 14 → 4 ≤ w.toNat / 256 % 32 → w.toNat / 256 % 32 ≤ 29 → s.th.sendFull n.toNat = false → s.relWaits rel = true →
      exec (.gsend d a n rel) s = .next u)) ∧
  (∀ (d a : RegNo) (n : BitVec 6) (rel : Option Scope) (s s1 : State) (bs : List Byte), s.readyFor [(.g, .reg d), (.g, .reg a)] [] = true →
    let u := s.issued [(.g, .reg d), (.g, .reg a)]
    let w := s.rg d
    (u.badDest w = true → exec (.sendm d a n rel) s = u.trap 0x07 w) ∧
    (u.badDest w = false → s.th.sendFull n.toNat = true → exec (.sendm d a n rel) s = u.trap 0x0B s.th.overflowVal) ∧
    (u.badDest w = false → s.th.sendFull n.toNat = false → (s.rg a).toNat % 8 ≠ 0 → exec (.sendm d a n rel) s = u.trap 0x04 (s.rg a)) ∧
    (u.badDest w = false → s.th.sendFull n.toNat = false → (s.rg a).toNat % 8 = 0 → 0x10000 ≤ (s.rg a).toNat →
      exec (.sendm d a n rel) s = u.trap 0x07 (s.rg a)) ∧
    (u.badDest w = false → s.th.sendFull n.toNat = false → (s.rg a).toNat % 8 = 0 → (s.rg a).toNat < 0x10000 → s.relWaits rel = false →
      u.structBehind (s.rg a).toNat (8 * n.toNat) = false →
      u.readStruct (u.issuer 0) (s.rg a).toNat 8 n.toNat = (.ok bs, s1) →
      exec (.sendm d a n rel) s = .next ((s1.append (.one (w.toNat / 64) (s1.buildMsg (w.toNat / 2 % 32) (w.toNat % 2 == 1) rel
        ((leWords 8 n.toNat bs).map (BitVec.ofNat 64))))).advance))) ∧
  (∀ (d a : Opnd) (b c : RegNo) (s : State), s.readyFor ((.g, a) :: (.g, .reg b) :: runUses c 4) [(.g, d)] = true →
    let u := s.issued ((.g, a) :: (.g, .reg b) :: runUses c 4)
    let x := u.takeG a
    let id : Word := s.th.callctr.setWidth 64
    ((s.rg b).toNat % 4 ≠ 0 → exec (.callat d a b c) s = u.trap 0x04 (s.rg b)) ∧
    ((s.rg b).toNat % 4 = 0 → u.nLe ≤ x.1.toNat → exec (.callat d a b c) s = u.trap 0x07 x.1) ∧
    ((s.rg b).toNat % 4 = 0 → x.1.toNat < u.nLe → Config.sendBufPlaces ≤ s.th.sendBuf.length →
      exec (.callat d a b c) s = u.trap 0x0B s.th.overflowVal) ∧
    ((s.rg b).toNat % 4 = 0 → x.1.toNat < u.nLe → s.th.sendBuf.length < Config.sendBufPlaces →
      exec (.callat d a b c) s = .next (((((x.2.append (.one x.1.toNat ⟨mkHeader s.th.sndctr.toNat 0 false none s.cur.1 0 false, [],
        .call (u.issuer 0).ttype (s.rg b) ((List.range 4).map (fun k => s.rg (c + BitVec.ofNat 5 k))) s.cur.1 id⟩)).updTh (fun t =>
          { t with callctr := s.th.callctr + 1, pend := s.th.pend })).putG d id).advance)))) ∧
  (∀ (o : OutMsg) (s : State), s.th.unbuffered = false → (s.append o).th.sendBuf = s.th.sendBuf ++ [o] ∧ (s.append o).th.pend = [] ∧
    (s.append o).th.sndctr = s.th.sndctr + 1 ∧ (s.append o).ctx.flights = s.ctx.flights)

/-- A message is queued at its element, a dispatched one starts its activation, done ends it, mid reads its header (R167, R168, R170,
R176, R177, R185, R186, R311, R326, R333, R334; log entries 57, 67, 74). -/
def Obligations.MessagesArriveAndActivationsRun : Prop :=
  (∀ (k src dst : Nat) (m : Msg) (s : State), s.flight k = some (.msg src dst m) →
    (s.ctx.stopped = false ∨ s.forTwin src dst m = true) →
    (s.ctx.flights.takeWhile (fun f => f.1 != k)).any (fun f => samePair f.2 (.msg src dst m)) = false →
    exec (.messageArrival k) s = .next (s.deliver k dst m)) ∧
  (∀ (k le : Nat) (m : Msg) (held : Bool) (s : State), m.kind = .data → s.route le m = (none, held) →
    (s.el le).inbFull (hdrPri m.header) = false →
    ((s.deliver k le m).el le).inb = (s.el le).inb ++ [⟨(s.el le).arrivals, m, false, false, held⟩] ∧
    ((s.deliver k le m).el le).arrivals = (s.el le).arrivals + 1 ∧ (s.deliver k le m).mem = s.mem) ∧
  (∀ (le : Nat) (s : State), (s.el le).installing = true → exec (.activationDispatch le) s = .next s) ∧
  (∀ (le : Nat) (s : State), s.ctx.present = true → s.ctx.stopped = false → (s.el le).installing = false →
    exec (.activationDispatch le) s = .next ((((s.dispatchOne le false).dispatchOne le false).dispatchOne le false).dispatchOne le true)) ∧
  (∀ (le : Nat) (cls : Bool) (s : State), (∀ ch, ch < 32 → s.candidate le cls ch = none) → s.dispatchOne le cls = s) ∧
  (∀ (le k : Nat) (q : QMsg) (s : State), s.candidate le false 0 = some (k, some q) →
    q.taken = false ∧ hdrChan q.msg.header = 0 ∧ (s.allotFor le q.msg).bind (s.freeSetOf le) = some k ∧
    ∃ older younger, (s.el le).inb = older ++ q :: younger ∧
      ∀ r ∈ older, r.taken = false → hdrChan r.msg.header = 0 → r.msg.ttype ≠ q.msg.ttype) ∧
  (∀ (le t : Nat) (a : Allot) (s : State), a ∈ (s.el le).allots → a.ttype = t → a.firstSet + a.nsets ≤ 4 → (s.freeSetOf le a).isSome = true →
    ∃ b k, s.allotToRun le t = some b ∧ b.ttype = t ∧ s.freeSetOf le b = some k) ∧
  (∀ (le t : Nat) (a o : Allot) (args : List Word) (x id : Nat) (tag : Word) (m : Msg) (s : State), m.kind = .launch t args x tag id →
    s.allotOf le id = some o → o.ttype = t → a ∈ (s.el le).allots → a.ttype = t → a.firstSet + a.nsets ≤ 4 → (s.freeSetOf le a).isSome = true →
    (∃ b k, s.allotFor le m = some b ∧ b.ttype = t ∧ s.freeSetOf le b = some k) ∧ ((s.freeSetOf le o).isSome = true → s.allotFor le m = some o)) ∧
  (∀ (le k : Nat) (o : Allot) (t x id : Nat) (args : List Word) (tag : Word) (q : QMsg) (s : State), q.msg.kind = .launch t args x tag id →
    s.allotOf le id = some o →
    let u := (s.startMsg le k 0 q).thOf le k
    u.run = .user ∧ u.pc = o.entry ∧ (∃ c, u.act = some c ∧ c.allot = id ∧ c.kind = .launch ∧ c.stamp = q.stamp) ∧
    u.rg 1 = args.getD 0 0 ∧ u.rg 4 = args.getD 3 0 ∧ u.rg 5 = BitVec.ofNat 64 x ∧ u.rg 6 = tag ∧ u.rg 7 = BitVec.ofNat 64 o.scratch) ∧
  (∀ (le ch : Nat) (cls : Bool) (h : Handler) (s : State), 2 ≤ ch → ch < 30 → Map.find ch (s.el le).handlers = some h → h.stateful = true →
    s.trails le ch = true → s.candidate le cls ch = none) ∧
  (∀ (le k : Nat) (a : Act) (s : State), (s.thOf le k).act = some a → s.storesLeft le k s.nextId = true →
    (s.freeSet le k).trails le a.stateCh = true) ∧
  (∀ (le k ch : Nat) (q : QMsg) (h : Handler) (a : Allot) (s : State), q.msg.kind = .data → Map.find ch (s.el le).handlers = some h →
    s.ownerOf le ch = some a →
    let t := (s.startMsg le k ch q).thOf le k
    let o := s.thOf le k
    t.run = .user ∧ t.pc = h.hpc ∧ t.rg 7 = BitVec.ofNat 64 (regionAt a.regions h.rid) ∧
    (∀ n, n ≠ 7 → rget t.g n = rget o.g n) ∧ t.f = o.f ∧ t.v = o.v ∧ t.fcsr = o.fcsr ∧ t.sigctl = o.sigctl ∧
    ∃ c, t.act = some c ∧ c.payload = q.msg.payload ∧ c.read = 0 ∧ c.header = q.msg.header ∧ c.stamp = q.stamp) ∧
  (∀ (s : State), s.th.inSup = false → ∃ t, exec .doneI s = .next t ∧ t.th.ending = some 1 ∧ t.th.pend = [] ∧ s.onlySet t t.th ∧
    { t.th with ending := s.th.ending, pend := s.th.pend } = s.th) ∧
  (∀ (le set : Nat) (s : State), (s.thOf le set).ending.isSome = true → s.ctx.stopped = false → s.ownWaits le set = false →
    (s.el le).ops.any (fun o => o.set == set && o.mayTrap) = false →
    ((s.thOf le set).sendBuf.any (fun o => o.relScope.isSome) && s.setBusy le set) = false →
    ((s.thOf le set).sendBuf = [] ∨ s.backed le = false) →
    exec (.doneComplete le set) s = .next (s.endActivation le set)) ∧
  (∀ (le set : Nat) (s : State), (s.ownWaits le set = true ∨ (s.thOf le set).ending = none) → exec (.doneComplete le set) s = .next s) ∧
  (∀ (d : Opnd) (s : State), s.readyFor [] [(.g, d)] = true →
    exec (.mid d) s = .next (((s.issued []).putG d (s.act.getD Act.idle).header).advance))

/-- spawn, rdec, alw and qwait, with the answers at their targets and the end of their waits (R116, R119, R120, R180, R187, R188; log
entries 73, 74, 76, 77). -/
def Obligations.ThreadsCountersAndWaits : Prop :=
  (∀ (d : RegNo) (a : Opnd) (b c : RegNo) (s : State), s.readyFor ((.g, a) :: (.g, .reg b) :: runUses c 4) [(.g, .reg d)] = true →
    let u := s.issued ((.g, a) :: (.g, .reg b) :: runUses c 4)
    let x := u.takeG a
    ((s.rg b).toNat % 4 ≠ 0 → exec (.spawn d a b c) s = u.trap 0x04 (s.rg b)) ∧
    ((s.rg b).toNat % 4 = 0 → u.nLe ≤ x.1.toNat → exec (.spawn d a b c) s = u.trap 0x07 x.1) ∧
    ((s.rg b).toNat % 4 = 0 → x.1.toNat < u.nLe → exec (.spawn d a b c) s = .next (((x.2.newId.2.launchFlight
      (.spawnReq (x.2.newId.2.issuer x.2.nextId) x.1.toNat (s.rg b) ((List.range 4).map (fun k => s.rg (c + BitVec.ofNat 5 k))))).mark
        (.g d) x.2.nextId).advance))) ∧
  (∀ (k target : Nat) (who : Issuer) (pc : Word) (args : List Word) (s : State), s.flight k = some (.spawnReq who target pc args) →
    s.ctx.stopped = false →
    (((s.allotOfType target who.ttype).bind (s.freeSetOf target)) = none →
      exec (.spawnAtTarget k) s = .next ((s.dropFlight k).launchFlight (.spawnReply who 0))) ∧
    (∀ a j, s.allotOfType target who.ttype = some a → s.freeSetOf target a = some j →
      ∃ t, exec (.spawnAtTarget k) s = .next t ∧ t.ctx.flights = s.ctx.flights.filter (fun e => e.1 != k) ++ [(s.nextId, .spawnReply who 1)] ∧
        (t.thOf target j).run = .user ∧ (t.thOf target j).pc = pc ∧ (t.thOf target j).rg 5 = BitVec.ofNat 64 who.le ∧
        (t.thOf target j).rg 6 = 0)) ∧
  (∀ (k : Nat) (who : Issuer) (v : Word) (s : State), s.flight k = some (.spawnReply who v) →
    exec (.spawnReply k) s = .next ((s.dropFlight k).token who v)) ∧
  (∀ (d a : RegNo) (s : State), s.readyFor [(.g, .reg a)] [(.g, .reg d)] = true →
    let u := s.issued [(.g, .reg a)]
    let ea := (s.rg a).toNat
    let sent := fun (owner off : Nat) => ((u.newId.2.launchFlight (.rdec (u.newId.2.issuer u.nextId) owner off)).mark (.g d) u.nextId).advance
    (ea % 8 ≠ 0 → exec (.rdec d a) s = u.trap 0x04 (s.rg a)) ∧
    (ea % 8 = 0 → ea < 0x10000 → u.opsFull s.cur.1 = false → exec (.rdec d a) s = .next (sent s.cur.1 ea)) ∧
    (∀ m, ea % 8 = 0 → u.opsFull s.cur.1 = false → 0x10000 ≤ ea → ea < 0x50000 → s.leAt (s.physOf s.cur.1 / 4 * 4 + (ea - 0x10000) / 65536) = some m →
      exec (.rdec d a) s = .next (sent m (ea % 65536))) ∧
    (ea % 8 = 0 → u.opsFull s.cur.1 = false → 0x8000000000 ≤ ea → ea < 0x8400000000 → (ea - 0x8000000000) / 65536 < s.nLe →
      exec (.rdec d a) s = .next (sent ((ea - 0x8000000000) / 65536) (ea % 65536)))) ∧
  (∀ (k owner off : Nat) (who : Issuer) (a : Allot) (s : State), s.flight k = some (.rdec who owner off) →
    s.busyBefore who.le who.set who.id = false →
    let r := (s.dropFlight k).release who.le .dv
    let p := locPlace owner (a.base + off)
    r.counter who owner off = some (a, .loc owner (a.base + off)) → off + 4 ≤ a.size →
    let c := leNat (r.peek p 4)
    firstPoison r.poison p 4 = none →
    (c = 0 → exec (.rdecAtOwner k) s = .next (r.token who (tokErr 0x31))) ∧
    (1 < c → exec (.rdecAtOwner k) s = .next ((r.poke p (leBytes 4 (c - 1))).token who (BitVec.ofNat 64 (c - 1)))) ∧
    (c = 1 → (∀ v, (r.poke p (leBytes 4 0)).ringPush owner (BitVec.ofNat 64 off) = some v →
        exec (.rdecAtOwner k) s = .next (v.token who 0)) ∧
      ((r.poke p (leBytes 4 0)).ringPush owner (BitVec.ofNat 64 off) = none → exec (.rdecAtOwner k) s = .next (r.token who (tokErr 0x32))))) ∧
  (∀ (d a : Opnd) (s : State), s.readyFor [(.g, a)] [(.g, d)] = true →
    let u := s.issued [(.g, a)]
    let x := u.takeG a
    (u.alwWords x.1.toNat = none → exec (.alw d a) s = u.trap 0x07 x.1) ∧
    (∀ wr rd, u.alwWords x.1.toNat = some (wr, rd) → (portOfNumber x.1.toNat).bind (fun p => u.absentLink u.cur.1 [(p, 1)]) = none →
      exec (.alw d a) s = .next ((x.2.putG d (BitVec.ofNat 64 (wr * 256 + rd))).advance))) ∧
  (∀ (d : Opnd) (p : BitVec 6) (b : Opnd) (s : State), s.readyFor [(.g, b)] [(.g, d)] = true →
    (portOfNumber p.toNat).bind (fun p => s.absentLink s.cur.1 [(p, 1)]) = none →
    let u := s.issued [(.g, b)]
    let x := u.takeG b
    let n := u.qwaitCount s.cur.1 p.toNat
    (∀ w m, s.th.waiting = some w → s.th.waited = some m → exec (.qwait d p b) s =
      .next (((x.2.updTh (fun t => { t with waiting := none, waited := none })).putG d (BitVec.ofNat 64 m)).advance)) ∧
    (0 < n → (s.th.waiting = none ∨ s.th.waited = none) → exec (.qwait d p b) s =
      .next (((x.2.updTh (fun t => { t with waiting := none, waited := none })).putG d (BitVec.ofNat 64 n)).advance)) ∧
    (n = 0 → s.th.waiting = none → x.1 = 0 → exec (.qwait d p b) s = u.trap 0x0C (u.qwaitVal s.cur.1 p.toNat)) ∧
    (n = 0 → s.th.waiting = none → x.1 ≠ 0 → exec (.qwait d p b) s =
      .next ((u.holdPlaces s.cur.1 s.cur.2 (portNeeds (portUses [(.g, b)]) (portUses [(.g, d)]))).updTh
        (fun t => { t with waiting := some (s.tick, p.toNat, x.1.toNat), waited := none })))) ∧
  (∀ (le set t0 port limit : Nat) (s : State), (s.thOf le set).waiting = some (t0, port, limit) → (s.thOf le set).waited = none →
    s.qwaitCount le port = 0 → limit ≤ s.tick - t0 → s.closeWait le set = s.trapAt le set 0x0C (s.qwaitVal le port) none ∧ exec (.qwaitExpiry le set) s =
      .next (if s.ctx.stopped then s else s.trapAt le set 0x0C (s.qwaitVal le port) none)) ∧
  (∀ (le set t0 port limit : Nat) (s : State), (s.thOf le set).waiting = some (t0, port, limit) → (s.thOf le set).waited = none →
    (0 < s.qwaitCount le port → s.closeWait le set = s.updThOf le set (fun t => { t with waited := some (s.qwaitCount le port) })) ∧
    (s.qwaitCount le port = 0 → s.tick - t0 < limit → s.closeWait le set = s ∧ exec (.qwaitExpiry le set) s = .next s)) ∧
  (∀ (le set : Nat) (s : State), (s.thOf le set).blocked.all (fun nd => s.portReady le set nd.1 nd.2.1 nd.2.2) = true →
    exec (.portUnblock le set) s = .next (s.updThOf le set (fun t => { t with blocked := [] })))

/-- hset installs an entry for the supervisor, hmask changes the mask, gbar joins its round, gid reads membership (R96, R97, R103, R339,
R340, R342; log entries 65, 69, 73, 74). -/
def Obligations.HandlersMasksAndGroups : Prop :=
  (∀ (a b : RegNo) (s : State), s.th.inSup = false → exec (.hset a b) s = s.trap 0x12 (instrVal (.hset a b))) ∧
  (∀ (a b : RegNo) (s : State), s.th.inSup = true → s.readyFor [(.g, .reg a), (.g, .reg b)] [] = true →
    let u := s.issued [(.g, .reg a), (.g, .reg b)]
    ((s.rg b).toNat % 32 ≠ 0 → exec (.hset a b) s = u.trap 0x04 (s.rg b)) ∧
    (∀ c addr s1, (s.rg b).toNat % 32 = 0 → u.structBehind (s.rg b).toNat 32 = false →
      u.readStruct (u.issuer 0) (s.rg b).toNat 8 4 = (.error (c, addr), s1) →
      exec (.hset a b) s = s1.trap c (if c = 0x07 then s.rg a else BitVec.ofNat 64 addr))) ∧
  (∀ (a b : RegNo) (s s1 : State) (bs : List Byte), s.th.inSup = true → s.readyFor [(.g, .reg a), (.g, .reg b)] [] = true →
    (s.rg b).toNat % 32 = 0 →
    let u := s.issued [(.g, .reg a), (.g, .reg b)]
    let ch := (s.rg a).toNat
    u.structBehind (s.rg b).toNat 32 = false → u.readStruct (u.issuer 0) (s.rg b).toNat 8 4 = (.ok bs, s1) →
    ((ch < 1 ∨ 29 < ch ∨ badEntry bs = true) → exec (.hset a b) s = s1.trap 0x07 (s.rg a)) ∧
    (∀ old id, 1 ≤ ch → ch ≤ 29 → badEntry bs = false → Map.find ch (s1.el s.cur.1).handlers = some old → old.owner = some id →
      old.stateful = false → (handlerOf bs (some id)).1.stateful = false →
      exec (.hset a b) s = .next (((s1.noteRunnable s1.cur.1).updEl s1.cur.1 (fun e =>
        e.install ch (handlerOf bs (some id)).1 (handlerOf bs (some id)).2)).advance)) ∧
    (1 ≤ ch → ch ≤ 29 → badEntry bs = false →
      let le := u.cur.1
      let old := Map.find ch (s1.el le).handlers
      let owner := old.bind (·.owner)
      let h := (handlerOf bs owner).1
      let refused := old.any (·.stateful) || h.stateful || (owner.isNone && h.hpc != 0 && h.rid != 255)
      (refused = true → exec (.hset a b) s = s1.trap 0x07 (s.rg a)) ∧
      (refused = false → ∃ t, exec (.hset a b) s = .next t ∧ (t.el le).bound ch = (h.hpc != 0) ∧
        (h.hpc ≠ 0 → Map.find ch (t.el le).handlers = some h) ∧ (t.el le).mask.getLsbD ch = (bs.getD 26 0).getLsbD 1 ∧
        (∀ c, c ≠ ch → Map.find c (t.el le).handlers = Map.find c (s1.el le).handlers ∧
          (t.el le).mask.getLsbD c = (s1.el le).mask.getLsbD c) ∧
        (∀ k, k ≠ le → t.el k = s1.el k) ∧ { t.ctx with elems := s1.ctx.elems } = s1.ctx ∧ t.mem = s1.mem))) ∧
  (∀ (d a b : Opnd) (s : State), s.readyFor [(.g, a), (.g, b)] [(.g, d)] = true →
    let u := s.issued [(.g, a), (.g, b)]
    let x := u.takeG a
    let y := x.2.takeG b
    let old := (u.el u.cur.1).mask
    exec (.hmask d a b) s = .next ((((if u.runnable u.cur.1 then y.2.noteBusy u.cur.1 else y.2).updEl u.cur.1 (fun e =>
      { e with mask := (old ||| x.1.setWidth 32) &&& ~~~(y.1.setWidth 32) })).putG d (old.setWidth 64)).advance)) ∧
  (∀ (d a : RegNo) (s : State), s.readyFor [(.g, .reg a)] [(.g, .reg d)] = true →
    let u := s.issued [(.g, .reg a)]
    (255 < (s.rg a).toNat → exec (.gbar d a) s = u.trap 0x07 (s.rg a)) ∧
    ((s.rg a).toNat ≤ 255 →
      let act := u.act.getD Act.idle
      ∃ t, exec (.gbar d a) s = .next t ∧
      t.ctx.flights = s.ctx.flights ++ [(u.nextId + 1, .bar (u.newId.2.issuer u.nextId) (s.rg a).toNat
        (u.th.inSup || act.kind == .spawn) act.stamp act.gbars)] ∧
      t.awaits d u.nextId = true ∧ (d ≠ 0 → t.th.barTok.contains (s.th.inSup, d) = true) ∧ t.mem = u.mem)) ∧
  (∀ (k g stamp index : Nat) (lone : Bool) (who : Issuer) (s : State), s.flight k = some (.bar who g lone stamp index) →
    s.ctx.stopped = false → s.busyBefore who.le who.set who.id = false →
    let r := ((s.dropFlight k).release who.le .dv).membersSeen g
    ((r.members g).contains who.le = false → exec (.gbarArrival k) s = .next (r.token who (tokErr 0x26))) ∧
    ((r.members g).contains who.le = true → exec (.gbarArrival k) s = .next (
      let c := (r.engine g).arrive who.le lone stamp index
      (r.setEngine g { c.2 with waiting := c.2.waiting ++ [(who, c.1)] }).closeRounds g (r.members g)))) ∧
  (∀ (e : GroupEngine) (le stamp index : Nat),
    let n := (e.countOf le).rounds + 1
    ((∀ r, ((stamp, index), r) ∉ (e.countOf le).seen) →
      (e.arrive le false stamp index).1 = n ∧ ((e.arrive le false stamp index).2.countOf le).rounds = n ∧
      (e.arrive le false stamp index).2.arrive le false stamp index = (n, (e.arrive le false stamp index).2) ∧
      (∀ lone st ix, ((((e.arrive le false stamp index).2.arrive le lone st ix).2).arrive le false stamp index).1 = n)) ∧
    ((e.arrive le true stamp index).1 = n ∧ ((e.arrive le true stamp index).2.countOf le).rounds = n)) ∧
  (∀ (d : Opnd) (i : BitVec 2) (s : State), s.readyFor [] [(.g, d)] = true →
    exec (.gid d i) s = .next (((s.issued []).groupsSeen.putG d (match ((s.issued []).groupsSeen.groupsOf s.cur.1)[i.toNat]? with
      | some (g, r) => BitVec.ofNat 64 (r * 2 ^ 32 + g)
      | none => BitVec.allOnes 64)).advance))

/-- Stage instructions install, read, clone, merge and ship, and the steps of a clone or merge follow in order (R99, R325, R326, R331,
R332, R334, R335, R336, R337, R338; log entries 73, 76, 77). -/
def Obligations.StagesCloneAndMerge : Prop :=
  (∀ (a b : RegNo) (s : State), s.readyFor [(.g, .reg a), (.g, .reg b)] [] = true →
    let u := s.issued [(.g, .reg a), (.g, .reg b)]
    ((s.rg b).toNat % 32 ≠ 0 → exec (.stg a b) s = u.trap 0x04 (s.rg b)) ∧
    (∀ c addr s1, (s.rg b).toNat % 32 = 0 → u.structBehind (s.rg b).toNat 32 = false →
      u.readStruct (u.issuer 0) (s.rg b).toNat 8 4 = (.error (c, addr), s1) →
      exec (.stg a b) s = s1.trap c (BitVec.ofNat 64 addr)) ∧
    (∀ bs s1, (s.rg b).toNat % 32 = 0 → u.structBehind (s.rg b).toNat 32 = false →
      u.readStruct (u.issuer 0) (s.rg b).toNat 8 4 = (.ok bs, s1) → Map.find (s.rg a).toNat (s1.el s.cur.1).handlers = none →
      exec (.stg a b) s = s1.trap 0x07 1)) ∧
  (∀ (a b : RegNo) (s s1 : State) (bs : List Byte) (h : Handler), s.readyFor [(.g, .reg a), (.g, .reg b)] [] = true →
    (s.rg b).toNat % 32 = 0 →
    let u := s.issued [(.g, .reg a), (.g, .reg b)]
    let ch := (s.rg a).toNat
    let le := s.cur.1
    u.structBehind (s.rg b).toNat 32 = false → u.readStruct (u.issuer 0) (s.rg b).toNat 8 4 = (.ok bs, s1) →
    Map.find ch (s1.el le).handlers = some h →
    let spc := leNat (bs.take 8)
    let mpc := leNat ((bs.drop 8).take 8)
    let full := h.stateful = false ∧ 4 ≤ ((s1.el le).handlers.filter (fun x => x.2.stateful)).length
    let twin := h.stateful = true ∧ ∃ st, s1.stage le ch = some st ∧ (st.hasTwin le = true ∨ st.op.isSome = true)
    ((ch < 5 ∨ 29 < ch ∨ h.hpc = 0 ∨ h.prio = true) → exec (.stg a b) s = s1.trap 0x07 1) ∧
    (5 ≤ ch → ch ≤ 29 → h.hpc ≠ 0 → h.prio = false →
      (spc = 0 ∧ mpc = 0 → twin → exec (.stg a b) s = s1.trap 0x07 4) ∧
      (spc = 0 ∧ mpc = 0 → ¬twin → ∃ t, exec (.stg a b) s = .next t ∧
        Map.find ch (t.el le).handlers = some { h with stateful := false, spc := 0, mpc := 0, key := 0, hiw := 0, low := 0 } ∧
        (h.stateful = true → t.stage le ch = none) ∧ (h.stateful = false → t.stage le ch = s1.stage le ch) ∧ t.mem = s1.mem) ∧
      (¬(spc = 0 ∧ mpc = 0) → badStage bs = true → exec (.stg a b) s = s1.trap 0x07 2) ∧
      (¬(spc = 0 ∧ mpc = 0) → badStage bs = false → full → exec (.stg a b) s = s1.trap 0x07 3) ∧
      (¬(spc = 0 ∧ mpc = 0) → badStage bs = false → ¬full → twin → exec (.stg a b) s = s1.trap 0x07 4) ∧
      (¬(spc = 0 ∧ mpc = 0) → badStage bs = false → ¬full → ¬twin → ∃ t, exec (.stg a b) s = .next t ∧
        Map.find ch (t.el le).handlers = some { h with
          stateful := true, spc := BitVec.ofNat 64 spc, mpc := BitVec.ofNat 64 mpc, key := (bs.getD 16 0).toNat,
          hiw := (bs.getD 17 0).toNat, low := (bs.getD 18 0).toNat } ∧
        (∃ st, t.stage le ch = some st ∧ st.overloads = 0 ∧ (h.stateful = false → st.krt = [⟨0, le, 0⟩]) ∧
          (∀ old, h.stateful = true → s1.stage le ch = some old → st.krt = old.krt)) ∧ t.mem = s1.mem))) ∧
  (∀ (d a : RegNo) (s : State), s.readyFor [(.g, .reg a)] [(.g, .reg d)] = true →
    let u := ((s.issued [(.g, .reg a)]).newId.2.noteRunnable s.cur.1).mark (.g d) (s.issued [(.g, .reg a)]).nextId
    let who := u.issuer (s.issued [(.g, .reg a)]).nextId
    let ch := (s.rg a).toNat
    (u.isHome s.cur.1 ch = false → exec (.clone d a) s = .next ((u.token who (tokErr 0x38)).advance)) ∧
    (∀ st, u.isHome s.cur.1 ch = true → u.stage s.cur.1 ch = some st →
      (st.op.isSome = true → exec (.clone d a) s = .next ((u.token who (tokErr 0x39)).advance)) ∧
      (st.op = none → (8 ≤ st.krt.length ∨ widest s.cur.1 st.krt = none) → exec (.clone d a) s = .next ((u.token who (tokErr 0x3A)).advance)) ∧
      (st.op = none → st.krt.length < 8 → widest s.cur.1 st.krt ≠ none →
        (u.cloneStart s.cur.1 ch (some (s.cur.2, who.id)) = none →
          exec (.clone d a) s = .next (((u.setStage s.cur.1 ch { st with overloads := 0 }).token who (tokErr 0x3B)).advance)) ∧
        (∀ v, u.cloneStart s.cur.1 ch (some (s.cur.2, who.id)) = some v → exec (.clone d a) s = .next v.advance)))) ∧
  (∀ (d a : RegNo) (b : Opnd) (s : State), s.readyFor [(.g, .reg a), (.g, b)] [(.g, .reg d)] = true →
    let x := (s.issued [(.g, .reg a), (.g, b)]).takeG b
    let u := x.2.newId.2.mark (.g d) x.2.nextId
    let who := u.issuer x.2.nextId
    let ch := (s.rg a).toNat
    (u.isHome s.cur.1 ch = false → exec (.merge d a b) s = .next ((u.token who (tokErr 0x38)).advance)) ∧
    (∀ st, u.isHome s.cur.1 ch = true → u.stage s.cur.1 ch = some st →
      (st.op.isSome = true → exec (.merge d a b) s = .next ((u.token who (tokErr 0x39)).advance)) ∧
      (st.op = none → (x.1.toNat = s.cur.1 ∨ st.krt.any (fun k => k.own == x.1.toNat) = false) →
        exec (.merge d a b) s = .next ((u.token who (tokErr 0x3D)).advance)) ∧
      (st.op = none → x.1.toNat ≠ s.cur.1 → st.krt.any (fun k => k.own == x.1.toNat) = true →
        exec (.merge d a b) s = .next ((u.mergeStart s.cur.1 ch x.1.toNat (some (s.cur.2, who.id))).advance)))) ∧
  (∀ (d : Opnd) (a : RegNo) (i : BitVec 3) (s : State), s.readyFor [(.g, .reg a)] [(.g, d)] = true →
    let u := s.issued [(.g, .reg a)]
    (u.isHome s.cur.1 (s.rg a).toNat = false → exec (.krd d a i) s = .next ((u.putG d 0).advance)) ∧
    (∀ st k, u.isHome s.cur.1 (s.rg a).toNat = true → u.stage s.cur.1 (s.rg a).toNat = some st → st.krt[i.toNat]? = some k →
      exec (.krd d a i) s = .next ((u.putG d (BitVec.ofNat 64 (2 ^ 63 + k.kst * 2 ^ 50 + k.own * 2 ^ 32 + k.lo))).advance))) ∧
  (∀ (d a : RegNo) (b : Opnd) (s : State), s.readyFor [(.g, .reg a), (.g, b)] [(.g, .reg d)] = true →
    let u := s.issued [(.g, .reg a), (.g, b)]
    let x := u.takeG b
    let v := x.2.newId.2.mark (.g d) x.2.nextId
    let act := v.act.getD Act.idle
    u.copyFull = false →
    let fail := fun (code : Nat) => exec (.xst d a b) s = .next ((v.token (v.issuer x.2.nextId) (tokErr code)).advance)
    (v.th.inSup = true → fail 0x3E) ∧
    (act.kind ≠ .split → act.kind ≠ .exportState → fail 0x3E) ∧
    (act.xst ≠ 0 → fail 0x3E) ∧
    (v.th.inSup = false → act.kind = .split ∨ act.kind = .exportState → act.xst = 0 →
      ((s.rg a).toNat % 8 ≠ 0 ∨ x.1.toNat % 8 ≠ 0) → fail 0x04) ∧
    (v.th.inSup = false → act.kind = .split ∨ act.kind = .exportState → act.xst = 0 → (s.rg a).toNat % 8 = 0 → x.1.toNat % 8 = 0 →
      (s.rg a).toNat + x.1.toNat ≤ ((v.allotOf s.cur.1 act.allot).map (·.size)).getD 0 →
      ∃ t, exec (.xst d a b) s = .next t ∧ (∃ c, (t.tile (t.tileOf t.cur.1)).copies = (v.tile (v.tileOf v.cur.1)).copies ++ [c] ∧
        c.kind = .xst (s.rg a) x.1 act.partner act.stageCh (act.kind == .exportState) ∧ c.who.id = x.2.nextId) ∧ (t.act.getD Act.idle).xst = 1)) ∧
  (∀ (le ch : Nat) (s : State) (st : Stage) (o : StageOp), s.stage le ch = some st → st.op = some o → o.queued = false →
    (s.el le).inbFull false = false →
    (o.isClone = true → (s.el le).inb.any (fun q => hdrChan q.msg.header == ch && q.taken) = false →
      exec (.splitQueue le ch) s = .next ((s.setStage le ch { st with op := some { o with queued := true } }).enqueue le
        ⟨mkHeader 0 0 true none le 30 false, [], .split ch o.low o.high o.mid o.partner⟩ false)) ∧
    (o.isClone = false → o.shipped = true →
      exec (.mergeImportQueue le ch) s = .next ((s.setStage le ch { st with op := some { o with queued := true } }).enqueue le
        ⟨mkHeader 0 0 true none le 31 false, [], .merge false ch o.low o.high o.partner⟩ false))) ∧
  (∀ (le ch : Nat) (s : State), exec (.cloneInstall le ch) s = .next (s.install le ch)) ∧
  (∀ (le ch home : Nat) (s : State) (st hs : Stage) (o : StageOp), s.stage le ch = some st → st.twinHome = some home →
    s.stage home ch = some hs → hs.op = some o → o.isClone = false → st.markers.any (fun m => m.1) = true →
    st.markers.any (fun m => !m.1) = true → (s.el le).inb = [] → exec (.mergeExportQueue le ch) s =
      .next (s.enqueue le ⟨mkHeader 0 0 true none le 31 false, [], .merge true ch o.low o.high home⟩ false))

/-- csub, cskip, cprom and cstat act on the tile's masks, pins, requests and counters of a bound carousel (R220, R226, R227, R228, R229,
R230, R214; log entries 27, 73). -/
def Obligations.CarouselInstructionsSubscribe : Prop :=
  (∀ (d : Opnd) (a b : RegNo) (s : State), s.readyFor [(.g, .reg a), (.g, .reg b)] [(.g, d)] = true →
    let u := s.issued [(.g, .reg a), (.g, .reg b)]
    let c := (s.rg a).toNat
    let seg := (s.rg b).toNat
    let le := s.cur.1
    let t := u.tileOf le
    (∀ v, u.carFails (s.rg a) (some (s.rg b)) = some v → exec (.csub d a b) s = u.trap 0x07 v ∧ exec (.cskip d a b) s = u.trap 0x07 v) ∧
    (u.carFails (s.rg a) (some (s.rg b)) = none →
      let m := (u.setMask t c seg (u.maskOf t c seg ||| u.maskBit le)).own c seg
      ((u.car c).hasSeg seg = false → exec (.csub d a b) s = .next ((u.putG d 2).advance)) ∧
      ((u.car c).hasSeg seg = true → m.residentIn t c seg = none → exec (.csub d a b) s = .next ((m.putG d 0).advance)) ∧
      (∀ k, (u.car c).hasSeg seg = true → m.residentIn t c seg = some k → exec (.csub d a b) s = .next (((m.pinSub k).putG d 1).advance)) ∧
      ((u.car c).hasSeg seg = true → exec (.cskip d a b) s = .next ((((u.setMask t c seg (u.maskOf t c seg &&& ~~~u.maskBit le)).disown
        c seg).putG d (if u.maskOf t c seg &&& u.maskBit le = 0 then 0 else 1)).advance)) ∧
      ((u.car c).hasSeg seg = false → exec (.cskip d a b) s = .next ((((u.setMask t c seg (u.maskOf t c seg &&& ~~~u.maskBit le)).disown
        c seg).putG d 0).advance)))) ∧
  (∀ (t car seg : Nat) (m : BitVec 64) (s : State), (s.setMask t car seg m).maskOf t car seg = m ∧
    ((s.maskOf t car seg = 0 ↔ m = 0) → (s.setMask t car seg m).ctx.flights = s.ctx.flights) ∧
    (¬(s.maskOf t car seg = 0 ↔ m = 0) →
      (s.setMask t car seg m).ctx.flights = s.ctx.flights ++ [(s.nextId, .notify car seg t (m != 0))])) ∧
  (∀ (d a b : RegNo) (s : State), s.readyFor [(.g, .reg a), (.g, .reg b)] [(.g, .reg d)] = true →
    let u := s.issued [(.g, .reg a), (.g, .reg b)]
    u.carFails (s.rg a) (some (s.rg b)) = none → exec (.cprom d a b) s = .next (((u.newId.2.launchFlight
      (.cprom (u.newId.2.issuer u.nextId) (s.rg a).toNat (s.rg b).toNat)).mark (.g d) u.nextId).advance)) ∧
  (∀ (d : Opnd) (a : RegNo) (sel : BitVec 2) (s : State), s.readyFor [(.g, .reg a)] [(.g, d)] = true →
    let u := s.issued [(.g, .reg a)]
    let c := (s.rg a).toNat
    let tl := u.tile (u.tileOf s.cur.1)
    (∀ v, u.carFails (s.rg a) none = some v → exec (.cstat d a sel) s = u.trap 0x07 v) ∧
    (u.carFails (s.rg a) none = none → exec (.cstat d a sel) s = .next ((u.putG d (if sel = 0 then tl.presence c
      else if sel = 1 then vget tl.lastSlot c else (vget tl.misses c).setWidth 64)).advance)))

/-- Tables are taken in, requests and turns reach the arbiter, slots are announced, read and captured (R214, R215, R218, R219, R220, R221,
R223, R224, R225, R229, R384, R398; log entries 48, 69, 73). -/
def Obligations.CarouselTablesSlotsAndWindows : Prop :=
  (∀ (car : Nat) (v : BitVec 16) (w : Byte) (s : State), s.recovery = true → exec (.clenWrite car v) s = .next s ∧
    exec (.ncmtWrite car w) s = .next s) ∧
  (∀ (car : Nat) (v : BitVec 16) (s : State), (s.recovery = false → exec (.clenWrite car v) s = .next (s.clenPut car v.toNat)) ∧
    (((s.car car).clen ≠ 0 ∨ v = 0 ∨ 4096 < v.toNat) → s.clenPut car v.toNat = s) ∧
    ((s.car car).clen = 0 → v ≠ 0 → v.toNat ≤ 4096 → let c := (s.clenPut car v.toNat).car car
      c.clen = v.toNat ∧ c.fifo = [] ∧ c.ptr = v.toNat / 2 ∧ c.idle = true ∧ c.ctab = (s.car car).ctab)) ∧
  (∀ (car : Nat) (v : Byte) (s : State), (s.recovery = false → exec (.ncmtWrite car v) s = .next (s.ncmtPut car v.toNat)) ∧
    ((v ≠ 1 ∨ (s.car car).ncmt = true) → s.ncmtPut car v.toNat = s) ∧
    (v = 1 → (s.car car).ncmt = false → ((s.ncmtPut car v.toNat).car car).ncmt = true ∧ ((s.ncmtPut car v.toNat).car car).clen = (s.car car).clen)) ∧
  (∀ (car : Nat) (s : State), (s.car car).copying ≠ none → ∃ t, exec (.tableCopyComplete car) s = .next t ∧ (t.car car).copied = true ∧
    (t.car car).table = (s.car car).table ∧ t.mem = s.mem) ∧
  (∀ (k car seg tile : Nat) (nz : Bool) (s : State), s.flight k = some (.notify car seg tile nz) → s.ctx.stopped = false →
    (s.ctx.flights.takeWhile (fun f => f.1 != k)).any (fun f => sameTile f.2 (.notify car seg tile nz)) = false →
    ∃ t, exec (.maskNotification k) s = .next t ∧ ((t.car car).wanted seg).contains tile = nz ∧
      (∀ u, u ≠ tile → ((t.car car).wanted seg).contains u = ((s.car car).wanted seg).contains u) ∧ (t.car car).idle = false) ∧
  (∀ (k car seg : Nat) (who : Issuer) (s : State), s.flight k = some (.cprom who car seg) → s.ctx.stopped = false →
    let u := s.dropFlight k
    ((s.car car).hasSeg seg = false → exec (.cpromAtArbiter k) s = .next (u.token who (tokErr 0x34))) ∧
    (∀ i, (s.car car).hasSeg seg = true → (s.car car).fifo.findIdx? (· == seg) = some i →
      exec (.cpromAtArbiter k) s = .next (u.token who (BitVec.ofNat 64 (i + 1)))) ∧
    ((s.car car).hasSeg seg = true → (s.car car).fifo.findIdx? (· == seg) = none →
      (Config.promoPlaces ≤ (s.car car).fifo.length → exec (.cpromAtArbiter k) s = .next (u.token who (tokErr 0x33))) ∧
      ((s.car car).fifo.length < Config.promoPlaces → exec (.cpromAtArbiter k) s =
        .next ((u.updCar car (fun c => { c with fifo := c.fifo ++ [seg] })).token who (BitVec.ofNat 64 ((s.car car).fifo.length + 1)))))) ∧
  (∀ (car : Nat) (s : State), car < 4 → s.carReady car = true → s.planeFor car = true →
    let r := (s.car car).turn
    let u := s.updCar car (fun _ => r.2)
    (r.1 = none → exec (.arbiterTurn car) s = .next u) ∧
    (∀ seg p, r.1 = some (seg, p) → exec (.arbiterTurn car) s = .next (u.openSlot car seg p))) ∧
  (∀ (car seg : Nat) (p : Bool) (s : State), ((s.openSlot car seg p).car car).cslots = (s.car car).cslots + 1 ∧
    ((s.openSlot car seg p).car car).lastOpen = some s.tick ∧ ((s.openSlot car seg p).car car).slot.isSome = true ∧
    (s.openSlot car seg p).planeUntil = s.tick + ((Map.find seg (s.car car).table).getD ⟨0, 0, 0⟩).frames) ∧
  (∀ (tile car seg frames number : Nat) (rest : List (Nat × Nat × Nat × Nat)) (s : State),
    (s.tile tile).heard = (car, seg, frames, number) :: rest →
    ∃ t, exec (.slotAnnouncement tile) s = .next t ∧ (t.tile tile).heard = rest ∧
      vget (t.tile tile).lastSlot car = BitVec.ofNat 64 (number + 1) ∧
      (s.maskOf tile car seg = 0 → (t.tile tile).bufs = (s.tile tile).bufs ∧ (t.tile tile).misses = (s.tile tile).misses) ∧
      (s.maskOf tile car seg ≠ 0 → (∀ b, b < 3 → (vget (s.tile tile).bufs b).free = false) →
        vget (t.tile tile).misses car = vget (s.tile tile).misses car + 1) ∧
      (∀ b, s.maskOf tile car seg ≠ 0 → b < 3 → (vget (s.tile tile).bufs b).free = true →
        (∀ j, j < b → (vget (s.tile tile).bufs j).free = false) → ∃ c, (vget (t.tile tile).bufs b).capture = some c ∧
          c.car = car ∧ c.seg = seg ∧ c.frames = frames ∧ c.full = false)) ∧
  (∀ (car : Nat) (s : State) (sl : Slot), (s.car car).slot = some sl → s.tiles.any (fun t => t.2.heard.any (fun h => h.1 == car)) = false →
    ∃ t, exec (.frameRead car) s = .next t ∧ (sl.frames ≤ sl.next + 1 → (t.car car).slot = none) ∧
      (sl.next + 1 < sl.frames → ∃ sl', (t.car car).slot = some sl' ∧ sl'.next = sl.next + 1 ∧ sl'.seg = sl.seg ∧ sl'.frames = sl.frames) ∧
      ∀ p, p < 2 ^ 50 → Mem.read p t.mem = Mem.read p s.mem) ∧
  (∀ (tile buf : Nat) (s : State) (c : Capture), (vget (s.tile tile).bufs buf).capture = some c → c.full = true →
    ∃ t, exec (.captureComplete tile buf) s = .next t ∧ (vget (t.tile tile).bufs buf).resident = some (c.car, c.seg) ∧
      (vget (t.tile tile).bufs buf).capture = none ∧
      (t.ctx.flights.drop s.ctx.flights.length).map (·.2) = ((List.range 64).filterMap (fun i =>
        if (s.maskOf tile c.car c.seg).getLsbD i then s.leAt (64 * tile + i) else none)).map (fun le =>
          .msg (2 ^ 21 + tile) le (passMsg le (buf % 3) c)))

/-- The instructions of slot 0 migrate their thread first, then write the registers of their rows (R233, R234, R235, R237, R291, R292,
R293, R294, R296, R298, R309; log entries 4, 57, 65, 66, 74, 76). -/
def Obligations.RenderingInstructionsRunOnSlotZero : Prop :=
  (∀ (i : Instr) (s : State), slot0Instr i = true → s.onSlot0 = false →
    (Config.slot0Fused (s.quadOf s.cur.1) = true → exec i s = s.trap 0x03 (instrVal i)) ∧
    (Config.slot0Fused (s.quadOf s.cur.1) = false → ((s.el s.cur.1).sets.toList.any (·.migrated) = true → exec i s = .next s) ∧
      ((s.el s.cur.1).sets.toList.any (·.migrated) = false → exec i s = .next (s.updTh (fun t => { t with migrated := true }))))) ∧
  (∀ (d a b m : RegNo) (s s1 : State) (bs : List Byte), s.onSlot0 = true →
    let rds : List (Cls × Opnd) := [(.v, .reg a), (.v, .reg (a + 1)), (.g, .reg b)]
    s.readyFor rds [(.v, .reg d), (.g, .reg m)] = true → (s.issued rds).structAt (s.rg b).toNat 128 96 64 bs s1 →
    let rs := (List.range 4).map (fun k => boxTest k (structF32 bs) (s1.rv a) (s1.rv (a + 1)))
    exec (.boxt d a b m) s = .next (((s1.putV (.reg d) (vF32 ((boxOrder rs).map (fun k =>
      if (rs.getD k (false, 0, 0)).1 then (rs.getD k (false, 0, 0)).2 else (0x7F800000, 0))))).wg m
        (BitVec.ofNat 64 ((List.range 4).foldl (fun x q => x + (boxOrder rs).getD q 0 * 4 ^ q) 0 * 16 +
          (List.range 4).foldl (fun x k => x + (rs.getD k (false, 0, 0)).1.toNat * 2 ^ k) 0))).advance)) ∧
  (∀ (d a b w : RegNo) (s s1 : State) (bs : List Byte), s.onSlot0 = true →
    let rds : List (Cls × Opnd) := [(.v, .reg a), (.v, .reg (a + 1)), (.g, .reg b)]
    s.readyFor rds [(.f, .reg d), (.v, .reg w)] = true → (s.issued rds).structAt (s.rg b).toNat 36 36 4 bs s1 →
    (triTest (structF32 bs) (s1.rv a) (s1.rv (a + 1)) = none → exec (.trit d a b w) s =
      .next (((s1.putF (.reg d) ⟨0x7F800000, 0⟩).putV (.reg w) (vF32 (List.replicate 4 (0, 0)))).advance)) ∧
    (∀ t bary, triTest (structF32 bs) (s1.rv a) (s1.rv (a + 1)) = some (t, bary) → s1.th.fails t.2 = false → exec (.trit d a b w) s =
      .next (((s1.putF (.reg d) ⟨BitVec.ofNat 64 t.1, t.2⟩).putV (.reg w) (vF32 bary)).advance)) ∧
    (∀ t bary, triTest (structF32 bs) (s1.rv a) (s1.rv (a + 1)) = some (t, bary) → s1.th.fails t.2 = true → exec (.trit d a b w) s =
      s1.doldrums (doldrumsVal 63 24 ((List.range 3).foldl (fun m q => min m (min (laneF (s1.rv a) q).t (laneF (s1.rv (a + 1)) q).t)) 24)
        t.2 1 0 d.toNat) ⟨[.f d ⟨BitVec.ofNat 64 t.1, t.2⟩, .v w (vF32 bary)], 0, []⟩)) ∧
  (∀ (d a b w : RegNo) (cause : Nat) (tval : Word) (s s1 : State), s.onSlot0 = true →
    let ray : List (Cls × Opnd) := [(.v, .reg a), (.v, .reg (a + 1)), (.g, .reg b)]
    let ed : List (Cls × Opnd) := [(.g, .reg a), (.v, .reg b)]
    (s.readyFor ray [(.v, .reg d), (.g, .reg w)] = true → (s.issued ray).structFails (s.rg b).toNat 128 96 64 cause tval s1 →
      exec (.boxt d a b w) s = s1.trap cause tval) ∧
    (s.readyFor ray [(.f, .reg d), (.v, .reg w)] = true → (s.issued ray).structFails (s.rg b).toNat 36 36 4 cause tval s1 →
      exec (.trit d a b w) s = s1.trap cause tval) ∧
    (s.readyFor ed [(.v, .reg d), (.v, .reg (d + 1)), (.v, .reg (d + 2))] = true →
      (s.issued ed).structFails (s.rg a).toNat 36 36 4 cause tval s1 → exec (.edg d a b) s = s1.trap cause tval)) ∧
  (∀ (a : Opnd) (s s1 : State) (tg : Target), s.onSlot0 = true → s.readyFor [(.g, a)] [] = true →
    let u := s.issued [(.g, a)]
    let ea := s.th.sbase.toNat + 8 * s.th.scnt.toNat
    let push := fun (v : State) => ((v.takeG a).2.updTh (fun t => { t with stack := t.stack ++ [(v.takeG a).1] })).advance
    (s.th.stack.length < 8 → exec (.spush a) s = .next (push u)) ∧
    (8 ≤ s.th.stack.length → s.th.scnt = s.th.scap → exec (.spush a) s = u.trap 0x08 (BitVec.ofNat 64 ea)) ∧
    (8 ≤ s.th.stack.length → s.th.scnt ≠ s.th.scap → u.spillCheck true ea = (.ok tg, s1) → s1.behind s1.cur.1 s1.cur.2 tg.place 8 = false →
      exec (.spush a) s = .next (push ((s1.storeNow (s1.issuer 0) tg ea (leBytes 8 (s.th.stack.headD 0).toNat)).updTh (fun t =>
        { t with stack := t.stack.drop 1, scnt := t.scnt + 1 })))) ∧
    (∀ c, 8 ≤ s.th.stack.length → s.th.scnt ≠ s.th.scap → u.spillCheck true ea = (.error c, s1) →
      exec (.spush a) s = s1.trap c (BitVec.ofNat 64 ea))) ∧
  (∀ (d : Opnd) (s s1 s2 : State) (tg : Target) (bs : List Byte), s.onSlot0 = true → s.readyFor [] [(.g, d)] = true →
    let u := s.issued []
    let ea := s.th.sbase.toNat + 8 * (s.th.scnt.toNat - 1)
    (∀ x xs, s.th.stack = xs ++ [x] → exec (.spop d) s = .next (((u.updTh (fun t => { t with stack := xs })).putG d x).advance)) ∧
    (s.th.stack = [] → s.th.scnt = 0 → exec (.spop d) s = .next ((u.putG d (BitVec.allOnes 64)).advance)) ∧
    (s.th.stack = [] → s.th.scnt ≠ 0 → u.spillCheck false ea = (.ok tg, s1) → s1.behind s1.cur.1 s1.cur.2 tg.place 8 = false →
      s1.loadNow (s1.issuer 0) tg ea 8 = (.ok bs, s2) →
      exec (.spop d) s = .next (((s2.updTh (fun t => { t with scnt := t.scnt - 1 })).putG d (BitVec.ofNat 64 (leNat bs))).advance)) ∧
    (∀ c, s.th.stack = [] → s.th.scnt ≠ 0 → u.spillCheck false ea = (.error c, s1) → exec (.spop d) s = s1.trap c (BitVec.ofNat 64 ea)) ∧
    (∀ x, s.th.stack = [] → s.th.scnt ≠ 0 → u.spillCheck false ea = (.ok tg, s1) → s1.behind s1.cur.1 s1.cur.2 tg.place 8 = false →
      s1.loadNow (s1.issuer 0) tg ea 8 = (.error x, s2) → exec (.spop d) s = s2.trap 0x0F (BitVec.ofNat 64 x))) ∧
  (∀ (d a b : RegNo) (s s1 : State) (bs : List Byte), s.onSlot0 = true → s.readyFor [(.g, .reg a), (.v, .reg b)]
      [(.v, .reg d), (.v, .reg (d + 1)), (.v, .reg (d + 2))] = true →
    (s.issued [(.g, .reg a), (.v, .reg b)]).structAt (s.rg a).toNat 36 36 4 bs s1 →
    let v := fun (j : Nat) => (structF32 bs).getD j opv0
    let o := fun (q : Nat) => laneF (s1.rv b) q
    let x := fun (j : Nat) => (v j).v.q
    let flat := [v 0, v 1, v 3, v 4, v 6, v 7]
    let lane := fun (j : Nat) =>
      let ins := if (edgeArea x).num = 0 then [] else edgeOps v (o 0) (o 1) j
      let c := min (edgeCount v) (min (o 0).t (o 1).t)
      let free := renderCount c (edgeOps v (o 0) (o 1) j) (freeRes (1 :: opKey (structF32 bs) ++ [(o 0).bits, (o 1).bits]) j)
      if flat.any (·.v.isNaN) then (fmtF32.nanBits, 0)
      else if flat.any (·.v.isInf) then free
      else if ins.any (·.v.isNaN) then (fmtF32.nanBits, 0)
      else if ins.any (·.v.isInf) then free
      else renderVal c (edgeOps v (o 0) (o 1) j) ((edgeCoefs x (o 0).v.q (o 1).v.q).getD j ⟨0, 1⟩)
    let row := fun (r : Nat) => vF32 ((List.range 4).map (fun q => lane (4 * r + q)))
    exec (.edg d a b) s = .next ((((s1.putV (.reg d) (row 0)).putV (.reg (d + 1)) (row 1)).putV (.reg (d + 2)) (row 2)).advance)) ∧
  (∀ (d a b z : RegNo) (s : State), s.onSlot0 = true →
    let rds : List (Cls × Opnd) := [(.v, .reg a), (.v, .reg (a + 1)), (.v, .reg (a + 2)), (.v, .reg b)]
    s.readyFor rds [(.g, .reg d), (.v, .reg z)] = true →
    let co := fun (r q : Nat) => laneF (s.rv (a + BitVec.ofNat 5 r)) q
    let pos := fun (q : Nat) => laneF (s.rv b) q
    let e := fun (q k : Nat) => (((co 0 k).v.q.mul (((pos 0).v.q.add ⟨2 * (q % 2 : Nat) + 1, 2⟩).sub (pos 2).v.q)).add
      ((co 1 k).v.q.mul (((pos 1).v.q.add ⟨2 * (q / 2 : Nat) + 1, 2⟩).sub (pos 3).v.q))).add (co 2 k).v.q
    let ops := fun (k : Nat) => [co 0 k, co 1 k, co 2 k, pos 0, pos 1, pos 2, pos 3]
    let ins := (List.range 3).flatMap (fun r => (List.range 4).map (co r)) ++ (List.range 4).map pos
    let inf := fun (k : Nat) => (ops k).any (·.v.isInf)
    let u := s.issued rds
    let key := 2 :: opKey ins
    let c := ins.foldl (fun m x => min m x.t) 24
    (ins.any (·.v.isNaN) = true → exec (.cov d a b z) s = .next (((u.putV (.reg z)
      (vF32 (List.replicate 4 (fmtF32.nanBits, 0)))).wg d 0).advance)) ∧
    (ins.any (·.v.isNaN) = false → exec (.cov d a b z) s = .next (((u.putV (.reg z) (vF32 ((List.range 4).map (fun q =>
        if inf 3 then renderCount c (ops 3) (freeRes key q) else renderVal c (ops 3) (e q 3))))).wg d
        (BitVec.ofNat 64 ((List.range 4).foldl (fun m q => m + ((List.range 3).all (fun k => inf k || edgeIn (e q k) (co 0 k).v.q
          (co 1 k).v.q) && (!(List.range 3).any inf || freeChoice key q)).toNat * 2 ^ q) 0))).advance))) ∧
  (∀ (d a b p : RegNo) (s : State) (ok : Bool), s.onSlot0 = true →
    let rds : List (Cls × Opnd) := [(.v, .reg a), (.v, .reg (a + 1)), (.v, .reg b), (.v, .reg (b + 1)), (.g, .reg p)]
    s.readyFor rds [(.v, .reg d), (.v, .reg (d + 1))] = true →
    let ma := laneBits .f32 (s.rv a) 0 % 16
    let mb := laneBits .f32 (s.rv b) 0 % 16
    let test := mergeOk (s.rv a) (s.rv (a + 1)) (s.rv b) (s.rv (b + 1)) (f32v ((s.rg p).toNat % 2 ^ 32)) (f32v ((s.rg p).toNat / 2 ^ 32))
    let key := [3, (s.rv a).bits.toNat, (s.rv (a + 1)).bits.toNat, (s.rv b).bits.toNat, (s.rv (b + 1)).bits.toNat, (s.rg p).toNat]
    (test = some ok ∨ test = none ∧ ok = freeChoice key 0) →
    ∃ r0 r1 : VReg, exec (.qmrg d a b p) s =
        .next ((((s.issued rds).putV (.reg d) r0).putV (.reg (d + 1)) r1).advance) ∧
      (ok = true → laneBits .f32 r0 0 = 256 + 16 * mb + (ma ||| mb) ∧ laneCount .f32 24 r0 0 = 24) ∧
      (ok = false → (∀ k, (laneBits .f32 r0 0).testBit k = ((laneBits .f32 (s.rv a) 0).testBit k && k != 8)) ∧
        laneCount .f32 24 r0 0 = laneCount .f32 24 (s.rv a) 0) ∧
      (∀ q, 1 ≤ q → q < 4 → laneBits .f32 r0 q = laneBits .f32 (s.rv a) q ∧ laneCount .f32 24 r0 q = laneCount .f32 24 (s.rv a) q) ∧
      (∀ q, q < 4 → let src := if ok && mb.testBit q then s.rv (b + 1) else s.rv (a + 1)
        laneBits .f32 r1 q = laneBits .f32 src q ∧ laneCount .f32 24 r1 q = laneCount .f32 24 src q)) ∧
  (∀ (y : Bool) (d a : RegNo) (s : State), s.onSlot0 = true → s.readyFor [(.v, .reg a)] [(.v, .reg d)] = true →
    let u := s.issued [(.v, .reg a)]
    let dr := u.draws u.th.rm 4
    let i := if y then Instr.dfy d a else Instr.dfx d a
    exec i s = .next ((dr.2.putV (.reg d) (vF32 ((List.range 4).map (fun q =>
      let r := fpAdd fmtF32 u.th.rm (dr.1.getD q 0) (laneF (s.rv a) (if y then q % 2 + 2 else q / 2 * 2 + 1))
        (laneF (s.rv a) (if y then q % 2 else q / 2 * 2)).negate
      (r.1.bits, r.2))))).advance)) ∧
  (∀ (k : Fin 3) (d a b l : RegNo) (s s1 s2 : State) (bs : List Byte), s.onSlot0 = true →
    let rds : List (Cls × Opnd) := [(.g, .reg a), (.v, .reg b), (.v, .reg (b + 1))] ++ (if k = 1 then [(.f, .reg l)] else [])
    s.readyFor rds [(.v, .reg d), (.v, .reg (d + 1)), (.v, .reg (d + 2)), (.v, .reg (d + 3))] = true →
    (s.rg a).toNat % 32 = 0 → (s.issued rds).acquiring s.cur.1 s.cur.2 = false → (s.issued rds).sample (s.rg a).toNat 32 = (.ok bs, s1) → (samplerOf bs).malformed = false →
    let ds := samplerOf bs
    let u := s.rv b
    let v := s.rv (b + 1)
    let r := s1.samplePixels (fun q t => match k with
      | 0 => t.bilinear ds (smpLevel ds u v) (laneF u q) (laneF v q)
      | 1 => t.bilinear ds (smplLevel ds (viewF fmtF32 (s.rf l))) (laneF u q) (laneF v q)
      | 2 => match t.texelAt ds 0 (laneInt .i32 (laneBits .i32 u q)) (laneInt .i32 (laneBits .i32 v q)) with
        | (.error e, t) => (.error e, t)
        | (.ok x, t) => (.ok (x.map texelVal), t)) [0, 1, 2, 3]
    let i := match k with
      | 0 => Instr.smp d a b
      | 1 => Instr.smpl d a b l
      | 2 => Instr.txl d a b
    (∀ ps : List (List (Nat × Nat)), r = (.ok ps, s2) →
      let reg := fun (c : Nat) => vF32 (ps.map (fun p => p.getD c (0, 0)))
      exec i s = .next (((((s2.putV (.reg d) (reg 0)).putV (.reg (d + 1)) (reg 1)).putV (.reg (d + 2)) (reg 2)).putV (.reg (d + 3)) (reg 3)).advance)) ∧
    (∀ (c x : Nat), r = (.error (c, x), s2) → exec i s = s2.trap c (BitVec.ofNat 64 x))) ∧
  (∀ (k : Fin 3) (d a b l : RegNo) (s : State), s.onSlot0 = true →
    let rds : List (Cls × Opnd) := [(.g, .reg a), (.v, .reg b), (.v, .reg (b + 1))] ++ (if k = 1 then [(.f, .reg l)] else [])
    s.readyFor rds [(.v, .reg d), (.v, .reg (d + 1)), (.v, .reg (d + 2)), (.v, .reg (d + 3))] = true →
    let u := s.issued rds
    let i := match k with
      | 0 => Instr.smp d a b
      | 1 => Instr.smpl d a b l
      | 2 => Instr.txl d a b
    ((s.rg a).toNat % 32 ≠ 0 → exec i s = u.trap 0x04 (s.rg a)) ∧
    ((s.rg a).toNat % 32 = 0 → u.acquiring s.cur.1 s.cur.2 = true → exec i s = .next u) ∧
    ((s.rg a).toNat % 32 = 0 → u.acquiring s.cur.1 s.cur.2 = false →
      (∀ c x s1, u.sample (s.rg a).toNat 32 = (.error (c, x), s1) → exec i s = s1.trap c (BitVec.ofNat 64 x)) ∧
      (∀ bs s1, u.sample (s.rg a).toNat 32 = (.ok bs, s1) → (samplerOf bs).malformed = true → exec i s = s1.trap 0x07 (s1.rg a))))

/-- CSR instructions read the old value and store only writable fields; yld and mark have their effects (R355, R356, R211, R72, R120,
R344, R358, R374; log entries 65, 73). -/
def Obligations.ControlRegistersReadAndWrite : Prop :=
  (∀ (d : Opnd) (csr : BitVec 12) (s : State), s.readyFor [] [(.g, d)] = true →
    exec (.csrr d csr) s = .next (((s.issued []).putG d ((s.issued []).csr csr.toNat)).advance)) ∧
  (∀ (i : Instr) (f : Word → Word → Word) (wr : Bool) (d a : Opnd) (csr : BitVec 12) (s : State),
    ((i = .csrw d a csr ∧ wr = true ∧ f = fun _ x => x) ∨ (i = .csrs d a csr ∧ wr = (a != .reg 0) ∧ f = fun old x => old ||| x) ∨
      (i = .csrc d a csr ∧ wr = (a != .reg 0) ∧ f = fun old x => old &&& ~~~x)) →
    (wr = true → csrSupervisor csr = true → s.th.inSup = false → exec i s = s.trap 0x12 (instrVal i)) ∧
    (wr = true → csr = 1 → s.readyFor [(.g, a)] [] = true → 6 ≤ (f (s.csr 1) (s.takeG a).1).toNat % 8 →
      exec i s = (s.mended [(.g, a)]).trap 0x01 (instrVal i)) ∧
    (∀ o, wr = true → csr = 1 → gate [(.g, a)] [] s = .stop o → s.destTraps d = true → exec i s = o) ∧
    ((wr = true → csrSupervisor csr = true → s.th.inSup = true) → s.readyFor [(.g, a)] [(.g, d)] = true →
      let u := s.issued [(.g, a)]
      let x := u.takeG a
      let new := f (u.csr csr.toNat) x.1
      (wr = true → csr = 1 → 6 ≤ new.toNat % 8 → exec i s = (s.mended [(.g, a)]).trap 0x01 (instrVal i)) ∧
      ((wr = true → csr = 1 → new.toNat % 8 < 6) →
        exec i s = .next (((if wr then x.2.putCsr csr.toNat new else x.2).putG d (u.csr csr.toNat)).advance)))) ∧
  (∀ (s : State) (x : Word) (k : Nat), k < 64 →
    (s.putCsr 1 x).th.fcsr.getLsbD k = (if k < 8 then x.getLsbD k else s.th.fcsr.getLsbD k) ∧
    (s.putCsr 2 x).th.sigctl.getLsbD k = (if k < 6 ∨ (8 ≤ k ∧ k < 11) then x.getLsbD k else s.th.sigctl.getLsbD k) ∧
    (s.putCsr 0x21 x).th.tepc.getLsbD k = (decide (2 ≤ k ∧ k < 49) && x.getLsbD k) ∧
    (s.putCsr 0x22 x).th.tval = x ∧ (s.putCsr 0x24 x).th.tstat.getLsbD k = (if k = 19 then x.getLsbD k else s.th.tstat.getLsbD k)) ∧
  (∀ (s : State), let e := s.el s.cur.1
    ∀ p ∈ ([(0x01, s.th.fcsr), (0x02, s.th.sigctl), (0x03, (s.el s.drawLe).srseed),
      (0x04, BitVec.ofNat 64 (s.th.scnt.toNat * 2 ^ 32 + s.th.scap.toNat * 2 ^ 16 + s.th.sbase.toNat)),
      (0x05, BitVec.ofNat 64 (e.ringRsv * 2 ^ 40 + e.ringCnt * 2 ^ 32 + e.ringHead * 2 ^ 24 + (if e.ringEn then 2 ^ 16 else 0) + e.ringBase.toNat)),
      (0x10, s.timebase), (0x11, BitVec.ofNat 64 s.cur.1), (0x12, BitVec.ofNat 64 s.ctx.ctxid.toNat), (0x13, BitVec.ofNat 64 s.cur.2),
      (0x20, s.th.tcause), (0x21, s.th.tepc), (0x22, s.th.tval), (0x23, s.th.tmsg), (0x24, s.th.tstat)] : List (Nat × Word)),
      s.csr p.1 = p.2) ∧
  (∀ (s : State) (k : Nat),
    (k < 4 → s.csr (0x30 + 3 * k) = BitVec.ofNat 64 (vget s.ctx.trust k).1 ∧ s.csr (0x31 + 3 * k) = BitVec.ofNat 64 (vget s.ctx.trust k).2.1 ∧
      s.csr (0x32 + 3 * k) = BitVec.ofNat 64 (vget s.ctx.trust k).2.2) ∧
    (k < 8 → s.csr (0x40 + 2 * k) = BitVec.ofNat 64 (vget s.ctx.tracked k).1 ∧ s.csr (0x41 + 2 * k) = BitVec.ofNat 64 (vget s.ctx.tracked k).2) ∧
    (k < 6 → let c := vget s.ctx.shares k
      s.csr (0x50 + k) = BitVec.ofNat 64 ((if s.ctx.borrowed.getLsbD k then 2 ^ 40 else 0) + c.qvu.toNat * 2 ^ 32 + c.twp.toNat * 2 ^ 24 +
        c.inj.toNat * 2 ^ 16 + c.l2w.toNat * 2 ^ 8 + c.mem.toNat))) ∧
  (∀ (s : State) (x : Word) (n : Nat), n ∉ [1, 2, 3, 4, 5, 0x21, 0x22, 0x24] → s.putCsr n x = s) ∧
  (∀ (s : State) (x : Word), let e := s.el s.cur.1
    (e.ringCnt = 0 → e.ringRsv = 0 →
      s.putCsr 5 x = s.updEl s.cur.1 (fun e => { e with ringBase := BitVec.ofNat 16 (x.toNat % 65536), ringEn := x.getLsbD 16 })) ∧
    (0 < e.ringCnt ∨ 0 < e.ringRsv → s.putCsr 5 x = s.updEl s.cur.1 id)) ∧
  (∀ (s : State) (x : Word), (s.putCsr 4 x).th.scap.toNat = x.toNat / 65536 % 65536 ∧ (s.putCsr 4 x).th.sbase.toNat = x.toNat % 65536 ∧
    (s.putCsr 4 x).th.scnt = s.th.scnt ∧ ((s.putCsr 3 x).el s.drawLe).srseed = (if x = 0 then 1 else x)) ∧
  (∀ (s : State), (s.ctx.calm = none → exec .yld s = .next s.advance) ∧
    (s.ctx.calm.isSome = true → (s.th.pending ≠ [] ∨ s.setBusy s.cur.1 s.cur.2 = true) → exec .yld s = .next s) ∧
    (s.ctx.calm.isSome = true → s.th.pending = [] → s.setBusy s.cur.1 s.cur.2 = false →
      exec .yld s = .next (s.advance.updTh (fun t => { t with yielded := true })))) ∧
  (∀ (a : Opnd) (i : BitVec 12) (s : State), s.readyFor [(.g, a)] [] = true →
    let u := s.issued [(.g, a)]
    let x := u.takeG a
    (u.slipOn s.cur.1 1 = false → exec (.mark a i) s = .next x.2.advance) ∧
    (u.slipOn s.cur.1 1 = true → exec (.mark a i) s = .next ((x.2.record (u.tileOf s.cur.1)
      ⟨BitVec.ofNat 64 s.tick, u.slipHead 3 s.cur.1 s.cur.2, x.1, i.setWidth 64⟩).advance)))

/-- sys raises cause 0x10 with the immediate and its own address, and tret 1 continues after it (R353). -/
def Obligations.SysRaisesItsTrap : Prop :=
  ∀ (i : BitVec 12) (s : State), s.th.inSup = false → s.th.pc &&& 0x0001FFFFFFFFFFFC = s.th.pc →
    ∃ t, exec (.sys i) s = .next t ∧ t.th.tcause.setWidth 9 = (0x110 : BitVec 9) ∧ t.th.tval = BitVec.ofNat 64 i.toNat ∧ t.th.tepc = s.th.pc ∧
      (s.ctx.ownEntry = false → s.th.frame = none →
        s.onlySet t t.th ∧ t.th.run = .sup ∧ t.th.pc = s.ctx.trapEntry ∧ t.th.g = s.th.g ∧ t.th.sg = s.th.sg ∧ t.th.f = s.th.f ∧ t.th.v = s.th.v ∧
        t.th.fcsr = s.th.fcsr ∧ t.th.sigctl = s.th.sigctl ∧ t.th.pending = s.th.pending ∧ t.th.act = s.th.act ∧
        (s.supWaits = false → ∃ v, exec (.tret 1) t = .next v ∧ v.th.run = .user ∧ v.th.pc = s.th.pc + 4 ∧ v.th.g = s.th.g ∧
          v.th.sendBuf = s.th.sendBuf ∧ v.th.pend = s.th.pend))

/-- A trap inside the supervisor handler is reported, keeps the first trap, and halts the context at its calm point; parity replay does
not trap (R348, R357, R367; log entry 42). -/
def Obligations.DoubleTrapsHaltTheContext : Prop :=
  (∀ (le k cause : Nat) (tval : Word) (held : Option HeldResult) (s : State), (s.thOf le k).inSup = true →
    (s.ctx.halting.contains (le, k) = true → s.trapAt le k cause tval held = s) ∧
    (s.ctx.halting.contains (le, k) = false →
    let t := s.trapAt le k cause tval held
    let e : Word × Word × Word := (BitVec.ofNat 64 cause, (s.thOf le k).pc, tval)
    t.ctx.halting = s.ctx.halting ++ [(le, k)] ∧ t.ctx.stopped = s.ctx.stopped ∧ t.canRun le k = false ∧
    t.ctx.halted = (s.ctx.halted || s.ctx.stopped) ∧ t.ctx.elems = s.ctx.elems ∧ t.mem = s.mem ∧
    ((s.ctx.stopped = false ∨ s.ctx.halted = true) → t.mailbox.log.getLast? = some e) ∧
    (s.ctx.stopped = true → s.ctx.halted = false → t.mailbox.log.getLast? = some (s.ctx.ctxid.setWidth 64, 0, 0) ∧
      e ∈ t.mailbox.log))) ∧
  (∀ (t : Nat) (s : State), s.ctx.halting ≠ [] → s.ctx.calm = some t → t ≤ s.tick →
    ∃ u, exec .forcedStop s = .next u ∧ u.ctx.halted = true ∧ u.ctx.stopped = true ∧ u.ctx.calm = none ∧ u.ctx.elems = s.ctx.elems) ∧
  (∀ (rds wrs : List (Cls × Opnd)) (s : State), s.th.inSup = true → s.readyFor rds wrs = true → gate rds wrs s = .go (s.issued rds))

/-- A trap saves its registers and enters the handler; tret resumes, steps on or aborts by its mode (R345, R346, R347, R354, R343, R344,
R185, R84; log entries 67, 70). -/
def Obligations.TrapsAreTakenAndReturnedFrom : Prop :=
  (∀ (le k cause : Nat) (tval : Word) (held : Option HeldResult) (s : State), (s.thOf le k).inSup = false → s.ctx.ownEntry = false →
    cause < 256 →
    let o := s.thOf le k
    let t := (s.trapAt le k cause tval held).thOf le k
    t.tcause.toNat % 256 = cause ∧ t.tcause.getLsbD 8 = resumable cause ∧ t.tcause.getLsbD 9 = o.frame.isSome ∧
    t.tepc = o.pc &&& 0x0001FFFFFFFFFFFC ∧ t.tval = tval ∧ t.tmsg = (o.act.getD Act.idle).header ∧ (o.frame = none → t.tstat = 0) ∧
    t.run = .sup ∧ t.pc = s.ctx.trapEntry ∧ t.frame = none ∧ t.sendBuf = [] ∧ t.pend = [] ∧ t.f = o.f ∧ t.v = o.v ∧ t.fcsr = o.fcsr ∧
    t.act = o.act ∧ (s.trapAt le k cause tval held).mem = s.mem ∧
    (resumable cause = true → t.susp = some ⟨o.frame, o.sendBuf, o.pend, cause, held, o.pc, none⟩ ∧ t.g = o.g ∧ t.pending = o.pending) ∧
    (resumable cause = false → t.susp = none)) ∧
  (∀ (m : BitVec 2) (s : State), s.th.inSup = false → exec (.tret m) s = s.trap 0x12 (instrVal (.tret m))) ∧
  (∀ (m : BitVec 2) (s : State), s.th.inSup = true → s.supWaits = true → exec (.tret m) s = .next s ∧ exec .doneI s = .next s) ∧
  (∀ (u : Suspended) (s : State), s.th.inSup = true → s.th.susp = some u → s.supWaits = false →
    let frame := u.frame.filter (fun fr => fr.at_ == s.th.tepc)
    (∀ f, u.late = some f → exec (.tret 0) s = .next ((s.resumeHandler false u).strike s.cur.1 s.cur.2 f)) ∧
    (u.late = none → ∃ t, exec (.tret 0) s = .next t ∧ (s.th.tepc = u.pc &&& 0x0001FFFFFFFFFFFC →
        ((s.muteOps s.cur.1 s.cur.2 true).dropSubPins s.cur.1 (s.cur.2 + 4)).onlySet t t.th) ∧
      t.th.run = .user ∧ t.th.pc = s.th.tepc ∧ t.th.frame = frame ∧
      t.th.sendBuf = u.sendBuf ∧ t.th.pend = u.pend ∧ t.th.susp = none ∧ t.th.g = s.th.g ∧ t.th.f = s.th.f ∧ t.th.v = s.th.v) ∧
    (u.held = none → u.late = none → ∃ t, exec (.tret 1) s = .next t ∧ t.th.run = .user ∧ (frame = none → t.th.pc = s.th.tepc + 4) ∧
      (∀ fr, frame = some fr → t.th.frame = fr.step.1 ∧ t.th.pc = fr.step.2)) ∧
    (∀ h, u.held = some h → let needs := portNeeds h.pops (heldPushes h.writes)
      (needs.all (fun nd => s.portReady s.cur.1 s.cur.2 nd.1 nd.2.1 nd.2.2) = true → exec (.tret 1) s =
        .next ((((h.writes.foldl (fun s w => s.write w) ((s.resumeHandler false u).popAll h.pops)).updTh (·.raise h.flags)).advance).strikeLate
          u)) ∧
      (needs.all (fun nd => s.portReady s.cur.1 s.cur.2 nd.1 nd.2.1 nd.2.2) = false → ∃ t, exec (.tret 1) s = .next t ∧
        t.th.susp = some u ∧ t.th.pc = s.th.pc ∧ t.th.blocked = needs)) ∧
    (∀ d x fl, u.held = some ⟨[.f d x], fl, []⟩ → u.late = none → ∃ t, exec (.tret 1) s = .next t ∧ t.th.run = .user ∧ t.th.susp = none ∧
      rget t.th.f d = x ∧ (∀ m, m ≠ d → rget t.th.f m = rget s.th.f m) ∧ t.th.fcsr = (s.th.raise fl).fcsr ∧ t.th.g = s.th.g ∧
      (frame = none → t.th.pc = s.th.tepc + 4)) ∧
    (∃ t, exec (.tret 2) s = .next t ∧ t.th.run = .free ∧ t.th.susp = none ∧ t.th.act = none) ∧ exec .doneI s = exec (.tret 2) s) ∧
  (∀ (m : BitVec 2) (s : State), s.th.inSup = true → s.th.susp = none → s.supWaits = false → ∃ t, exec (.tret m) s = .next t ∧ t.th.run = .free ∧
    t.th.act = none ∧ exec .doneI s = exec (.tret 2) s)

/-- Windows commit records, the dispatcher refuses or accepts them, allotments retire, donation and budgets take their steps (R105, R108,
R109, R112, R113, R121, R122, R124, R376, R377, R378, R323; log entries 10, 18, 20, 22, 55, 74, 75, 77). -/
def Obligations.LaunchesRunTheirCourse : Prop :=
  (∀ (w off : Nat) (bytes : List Byte) (s : State), w < 64 → s.mailbox.ready = true → ∃ t, exec (.launchWindowWrite w off bytes) s = .next t ∧
    t.window w = (s.window w).put off bytes ∧ (∀ v, v ≠ w → t.window v = s.window v) ∧ t.mem = s.mem ∧ t.ctx = s.ctx) ∧
  (∀ (w : Window), (w.bound.isSome = true → w.queue.length < 16 → w.commit.queue = w.queue ++ [w.record] ∧ w.commit.acc = w.acc + 1 ∧
      w.commit.err = w.err) ∧
    ((w.bound = none ∨ 16 ≤ w.queue.length) → w.commit.queue = w.queue ∧ w.commit.acc = w.acc ∧ w.commit.err = true ∧ w.commit.code = 0x41)) ∧
  (∀ (w : Nat) (s : State), w < 64 → s.recovery = false → ∃ t, exec (.lstatRead w) s = .next t ∧ (t.window w).err = false ∧
    t.hostLog = s.hostLog ++ [leBytes 8 (s.window w).lstat.toNat] ∧ (t.window w).queue = (s.window w).queue) ∧
  (∀ (w : Nat) (s : State), s.ctx.present = true → s.ctx.stopped = false → (s.window w).bound = some s.ctx.ctxid → (s.window w).queue ≠ [] →
    (s.window w).head = none →
    (∀ c, s.launchError (s.headRec w) (s.recTask (s.headRec w)) = some c →
      exec (.launchDispatch w) s = .next (s.refuseLaunch w c (s.headRec w).cva)) ∧
    (∀ tt, s.launchError (s.headRec w) (s.recTask (s.headRec w)) = none → s.recTask (s.headRec w) = some tt →
      exec (.launchDispatch w) s = .next (s.acceptLaunch w (s.headRec w) tt))) ∧
  (∀ (w c : Nat) (s : State), s.ctx.present = true → s.ctx.stopped = false → (s.window w).bound = some s.ctx.ctxid →
    (s.ctx.released.contains c = true → exec (.launchShareRetry w c) s = .next (s.tryShare w c)) ∧
    (s.ctx.released.contains c = false → exec (.launchShareRetry w c) s = .next s)) ∧
  (∀ (le id : Nat) (a : Allot) (s : State), s.allotOf le id = some a → (s.releaseAllot le id).ctx.released.contains (s.chipletOf le) = true) ∧
  (∀ (s : State), ((s.ctx.stopped = true ∨ s.ctx.released = []) → s.retryShares = s) ∧
    (s.ctx.present = true → s.ctx.stopped = false → s.retryShares.ctx.released = []) ∧
    (∀ w v c, s.ctx.present = true → s.ctx.stopped = false → s.windows = [(w, v)] → v.bound = some s.ctx.ctxid → s.ctx.released = [c] →
      s.retryShares = { s.tryShare w c with ctx := { (s.tryShare w c).ctx with released := [] } })) ∧
  (∀ (le : Nat) (e : Element) (a : Allot) (s : State), s.ctx.elems = [(le, e)] → e.allots = [a] →
    s.retireDead = if s.live le a = true then s else s.retire le a) ∧
  (∀ (le k : Nat) (s : State) (a : Allot), s.allotOf le k = some a → (s.live le a = true → exec (.allotmentRetire le k) s = .next s) ∧
    (s.live le a = false → exec (.allotmentRetire le k) s = .next (match a.launch with
        | some id => (s.releaseAllot le k).leaveLaunch id le ((s.el le).opsOf a)
        | none => s.releaseAllot le k) ∧
      ∃ t, exec (.allotmentRetire le k) s = .next t ∧ t.allotOf le k = none ∧
      (∀ ch, ch ∈ a.chans → (s.el le).owns k ch = true → Map.find ch (t.el le).handlers = none) ∧ t.mem = s.mem)) ∧
  (∀ (k : Nat) (s : State) (l : Launch), s.ctx.launches.find? (fun l => l.id == k) = some l →
    let waits := s.ctx.elems.any (fun e => e.2.ops.any (fun o => l.ops.contains o.id))
    ((l.elems ≠ [] ∨ waits = true) → exec (.launchCompletion k) s = .next s) ∧
    (l.elems = [] → waits = false →
      let v : State := { s with ctx := { s.ctx with launches := s.ctx.launches.filter (fun x => x.id != k) } }
      let u := s.ctx.tiles.foldl (fun w t => w.drain t) v
      exec (.launchCompletion k) s = .next (if l.cva = 0 then u else u.completionPut l.cva l.tag))) ∧
  (∀ (tile v : Nat) (s : State), s.ctx.stopped = false → s.ctx.tiles.contains tile = true → s.idle tile = true → s.stealing tile = false →
    s.victim tile = some v →
    ∃ t, exec (.tileIdle tile) s = .next t ∧ t.ctx.flights = s.ctx.flights ++ [(s.nextId, .stealReq tile v)] ∧ (t.tile tile).lastVictim = v) ∧
  (∀ (k thief victim : Nat) (s : State), s.flight k = some (.stealReq thief victim) → s.ctx.stopped = false →
    ∃ t les, exec (.stealRequest k) s = .next t ∧ les.length ≤ 8 ∧ (∀ le ∈ les, s.offers le = true ∧ le ∈ s.lesOf victim) ∧
      t.ctx.flights = s.ctx.flights.filter (fun e => e.1 != k) ++ [(s.nextId, .stealAns thief victim les)]) ∧
  (∀ (k thief victim : Nat) (les : List Nat) (s : State), s.flight k = some (.stealAns thief victim les) → s.ctx.stopped = false →
    exec (.stealAnswer k) s = .next (les.foldl (fun s le => s.moveLe thief le)
      ((s.dropFlight k).updTile thief (fun tl => { tl with idleFrom := s.tick })))) ∧
  (∀ (shares : Vector ClassShare 6) (s : State), (sharesOk shares = false → exec (.budgetShareWrite shares) s = .next s) ∧
    (sharesOk shares = true → ∃ t, exec (.budgetShareWrite shares) s = .next t ∧ t.ctx.nextShares = some shares ∧ t.ctx.shares = s.ctx.shares)) ∧
  (∀ (s : State), ((s.tick % 512 ≠ 0 ∨ s.tick / 512 = s.period) → exec .budgetPeriodBoundary s = .next s) ∧
    (s.tick % 512 = 0 → s.tick / 512 ≠ s.period → ∃ u : State, u.period = s.tick / 512 ∧ u.free = s.free + 1 ∧
      u.ctx.shares = s.ctx.nextShares.getD s.ctx.shares ∧ u.ctx.nextShares = none ∧ u.ctx.borrowed = (Config.freeByte s.free 0).setWidth 6 ∧
      u.ctx.elems = s.ctx.elems.map (fun e => (e.1, { e.2 with won3 := 0, won0 := 0 })) ∧
      { u with period := s.period, free := s.free, ctx := s.ctx } = s ∧
      { u.ctx with shares := s.ctx.shares, nextShares := s.ctx.nextShares, borrowed := s.ctx.borrowed, elems := s.ctx.elems } = s.ctx ∧
      exec .budgetPeriodBoundary s = .next (if s.ctx.stopped then u else
        (s.ctx.elems.flatMap (fun e => e.2.stages.map (fun st => (e.1, st.1)))).foldl (fun v p => v.sampleStage p.1 p.2) u))) ∧
  (∀ (le ch : Nat) (s : State) (st : Stage) (h : Handler), s.stage le ch = some st → Map.find ch (s.el le).handlers = some h →
    (st.twinHome = none → s.sampleStage le ch = ((s.noteRunnable le).setStage le ch { st with
      overloads := if h.hiw ≤ (s.el le).occupancy ch then st.overloads + 1 else 0 }).cloneIfReady le ch) ∧
    (st.twinHome.isSome = true → s.sampleStage le ch = (s.setStage le ch { st with
      lowCount := if (s.el le).occupancy ch ≤ h.low then st.lowCount + 1 else 0 }).mergeIfReady le ch))

/-- Walks, shootdowns, fills, soft errors, host accesses, the mailbox, samples, governors and power take their steps (R143, R146, R133,
R154, R155, R382, R148, R380, R386, R387, R388, R389; log entries 3, 10, 44, 46, 47, 48, 58, 63, 77). -/
def Obligations.DeviceStepsAct : Prop :=
  (∀ (tile va : Nat) (s : State), s.ctx.present = true → rowOf va = .global → exec (.pageWalk tile va) s = .next (s.translate tile va).2 ∧
    (s.translate tile va).2.mem = s.mem) ∧
  (∀ (va len : Nat) (s : State), s.ctx.elems.any (fun e => e.2.ops.any (fun o => !o.parked && o.translatedIn va len)) = true →
    exec (.shootdown va len) s = .next s) ∧
  (∀ (va len : Nat) (s : State), s.ctx.elems.any (fun e => e.2.ops.any (fun o => !o.parked && o.translatedIn va len)) = false → ∃ t, exec (.shootdown va len) s = .next t ∧ ∀ tl, tl ∈ s.ctx.tiles →
    (t.tile tl).tlb.all (fun e => !(e.asid == s.ctx.asid && rangesMeet e.va e.size va len)) = true ∧
    (t.tile tl).icache.all (fun l => !(l.asid == s.ctx.asid && rangesMeet (64 * l.va) 64 va len)) = true) ∧
  (∀ (le set : Nat) (s : State), s.ctx.present = true → s.ctx.stopped = false → (s.thOf le set).run ≠ .free → (s.thOf le set).ending = none →
    (s.thOf le set).yielded = false → (s.thOf le set).frame = none →
    (∀ l t, s.fetchLine le (s.thOf le set).inSup (s.thOf le set).pc.toNat = (.ok l, t) → exec (.fetchLineFill le set) s = .next t ∧ t.mem = s.mem) ∧
    (∀ e t, s.fetchLine le (s.thOf le set).inSup (s.thOf le set).pc.toNat = (.error e, t) →
      exec (.fetchLineFill le set) s = .next (if s.canRun le set then t.trapAt le set e.1 (BitVec.ofNat 64 e.2) none else t))) ∧
  (∀ (p : ErrorPlace) (fatal : Bool) (s : State), ∃ t, exec (.softError p fatal) s = .next t ∧
    (∀ le off, p = .localMem le off → fatal = true → t.poison.contains (locPlace le (off % Config.localBytes) / 8) = true ∧ t.mem = s.mem) ∧
    (∀ pa, p = .gddr pa → pa < Config.gddrBytes → fatal = true → ∀ w, w / 8 = pa / 64 → t.poison.contains w = true) ∧
    (∀ tile pa b, p = .l1 tile pa → fatal = true → s.holder tile pa = some b → (vget b.lines (pa / 64 % 4)).dirty = true →
      ∀ w, w / 8 = pa / 64 → t.poison.contains w = true) ∧
    (∀ pa, p = .l2 pa → fatal = false → s.latent.contains (pa / 8) = false → t.latent.contains (pa / 8) = true ∧ t.poison = s.poison) ∧
    (∀ le set sup n, p = .gReg le set sup n → n ≠ 0 → (t.thOf le set).badRegs.contains (sup, .g n) = true)) ∧
  (∀ (pa : Nat) (s : State), s.latent.contains (pa / 8) = true → ∃ t, exec (.scrub pa) s = .next t ∧ t.latent.contains (pa / 8) = false ∧
    t.corrected = s.corrected + 1 ∧ t.mem = s.mem) ∧
  (∀ (pa n : Nat) (s : State), s.mailbox.ready = true → pa + n ≤ Config.gddrBytes → ∃ t, exec (.hostMemAccess (.read pa n)) s = .next t ∧
    t.hostLog = s.hostLog ++ [s.peek pa n] ∧ t.mem = s.mem) ∧
  (∀ (pa : Nat) (bs : List Byte) (s : State), s.mailbox.ready = true →
    (pa + bs.length ≤ Config.gddrBytes → exec (.hostMemAccess (.write pa bs)) s = .next (s.homeWrite pa bs)) ∧
    (pa + bs.length ≤ 2 ^ 46 → exec (.cxlCacheRequest (.write pa bs)) s = .next (s.homeWrite (hostPlace pa) bs))) ∧
  (∀ (pa n : Nat) (s : State), s.mailbox.ready = true → pa + n ≤ 2 ^ 46 → ∃ t, exec (.cxlCacheRequest (.read pa n)) s = .next t ∧
    t.hostLog = s.hostLog ++ [s.peek (hostPlace pa) n] ∧ t.mem = s.mem) ∧
  (∀ (off : Nat) (bytes : List Byte) (s : State), exec (.registerWrite off bytes) s = .next (s.ctlWrite off bytes)) ∧
  (∀ (v : Word) (s : State), ∃ t, exec (.mbcmdWrite v) s = .next t ∧ t.mailbox.cmd = v ∧ t.mailbox.busy = true ∧
    t.mailbox.result = s.mailbox.result ∧ t.ctx = s.ctx ∧ t.mem = s.mem) ∧
  (∀ (s : State), s.mailbox.busy = true → ∃ t, exec .mailboxCommandComplete s = .next t ∧ t.mailbox.busy = false ∧
    t.mailbox.cmd = s.mailbox.cmd ∧ t.ctx = s.ctx ∧ t.mem = s.mem) ∧
  (∀ (nonce : Word) (s : State), (s.recovery = true → exec (.spdmRequest nonce) s = .next s) ∧
    (s.recovery = false → ∃ t, exec (.spdmRequest nonce) s = .next t ∧ t.spdm = s.spdm ++ [s.spdmAnswer s.free nonce] ∧ t.mem = s.mem)) ∧
  (∀ (le : Nat) (s : State), let n := (s.slip (s.tileOf le / 256)).pcn
    (s.sampleDue le = true ↔ s.ctx.present = true ∧ s.slipOn le 2 = true ∧ n ≠ 0 ∧ s.tick % n = 0 ∧ (s.el le).sampledAt ≠ some s.tick) ∧
    (s.sampleDue le = true → (s.thOf le (s.tick / n % 4)).run = .free →
      exec (.pcSample le) s = .next ((s.record (s.tileOf le) ⟨BitVec.ofNat 64 s.tick, s.slipHead 1 le (s.tick / n % 4), 0, 3⟩).updEl le
        (fun e => { e with sampledAt := some s.tick }))) ∧
    (s.sampleDue le = false → exec (.pcSample le) s = .next s) ∧
    (∃ t, exec (.pcSample le) s = .next t ∧ t.sampleDue le = false) ∧ (le < s.nLe → s.takeSamples.sampleDue le = false)) ∧
  (∀ (tile : Nat) (s : State), exec (.lossRecord tile) s = .next (s.slipWriteOut tile)) ∧
  (∀ (c temp : Nat) (s : State),
    ((s.tick % 10000 ≠ 0 ∨ s.tick / 10000 = (s.governor c).interval) → exec (.governorInterval c temp) s = .next s) ∧
    (s.tick % 10000 = 0 → s.tick / 10000 ≠ (s.governor c).interval → ∃ t, exec (.governorInterval c temp) s = .next t ∧ (t.governor c).temp = temp ∧
      t.intervalDue c = false ∧ t.mem = s.mem ∧ t.ctx = s.ctx ∧
      ∀ q ∈ s.govQuads c, 600 ≤ (Map.get Quad.start t.quads q).mhz ∧ (Map.get Quad.start t.quads q).mhz ≤ 1800 ∧
        ((105 < temp ∨ (s.governor c).exceeds c = true) → (Map.get Quad.start t.quads q).mhz ≤ 1400))) ∧
  (∀ (c ma : Nat) (s : State), ∃ t, exec (.overcurrent c ma) s = .next t ∧ (t.governor c).current = ma ∧ t.mem = s.mem ∧ t.ctx = s.ctx ∧
    ((ma ≤ Config.currentLimit c ∨ ∃ k, (s.governor c).stepped = some k ∧ s.tick < k + 1000) → t.quads = s.quads ∧ t.tiles = s.tiles) ∧
    (Config.currentLimit c < ma → (∀ k, (s.governor c).stepped = some k → k + 1000 ≤ s.tick) →
      (t.governor c).lastLimit = some s.tick ∧ (t.governor c).stepped = some s.tick ∧ t.stepDue c = false ∧
      ∀ q ∈ s.govQuads c, (Map.get Quad.start t.quads q).mhz ≤ max 600 ((Map.get Quad.start s.quads q).mhz - 100))) ∧
  (∀ (q : Nat) (s : State), let x := Map.get Quad.start s.quads q
    ∃ t, exec (.sramRailWindow q) s = .next t ∧ (Map.get Quad.start t.quads q).corrections = 0 ∧
      (x.corrections < 10 → (Map.get Quad.start t.quads q).rail = min (Config.railFloor q) (x.rail + 1)) ∧
      (x.corrections = 10 → (Map.get Quad.start t.quads q).rail = x.rail) ∧
      (10 < x.corrections → (Map.get Quad.start t.quads q).rail = x.rail - 1)) ∧
  (∀ (s : State), ∃ t, exec .modulePowerOff s = .next t ∧ t.power = false ∧ t.ctx.present = false ∧ t.mailbox.ready = false ∧
    ∀ p, p < 2 ^ 46 → Mem.read p t.mem = Mem.read p []) ∧
  (∀ (s : State), s.power = false → s.bringUp = 1 → ∃ t, exec .powerGood s = .next t ∧ t.power = true ∧ t.resets = s.resets + 1 ∧
    (firmwareAccepted t.resets = true → t.bringUp = 4 ∧ t.mailbox.ready = s.mailbox.ready ∧ ∀ p, p < 2 ^ 46 → Mem.read p t.mem = 0) ∧
    (firmwareAccepted t.resets = false → t.bringUp = 2 ∧ t.recovery = true)) ∧
  (∀ (s : State), s.power = true → s.bringUp = 4 →
    (s.ctx.present = true → s.ctx.halted = false → exec .powerGood s = .next s) ∧
    ((s.ctx.present = false ∨ s.ctx.halted = true) → ∃ t, exec .powerGood s = .next t ∧ t.bringUp = 5 ∧ t.mailbox.ready = true ∧ t.mem = s.mem ∧
      ∀ k, t.rowMap k = Config.rowDisableMap k)) ∧
  (∀ (s : State), s.mailbox.ready = false → (∀ w off bytes, exec (.launchWindowWrite w off bytes) s = .next s) ∧
    (∀ req, (s.bringUp ≠ 4 ∨ req.maint = false) → exec (.contextStart req) s = .next s))

/-- A context starts on a free partition; calm points are announced ahead, stop it quietly or by force; it halts or resumes (R165, R357,
R358, R359, R360, R364, R365, R366, R367, R389, R394; log entries 40, 41, 42, 65). -/
def Obligations.ContextsStartStopAndResume : Prop :=
  (∀ (req : LoadRequest) (s : State), (s.mailbox.ready = true ∨ (s.bringUp = 4 ∧ req.maint = true)) → req.wf = true → partitionOk req.narrow req.wide = true → s.ctx.present = false →
    req.windows.all (fun w => (s.window w).bound == none) = true → s.saved = [] → s.imageMapped (startCtx req) req.image = true →
    ∃ t, exec (.contextStart req) s = .next t ∧ t.ctx.present = true ∧ t.ctx.ctxid = req.ctxid ∧ t.ctx.asid = req.asid ∧
      t.ctx.root = req.root ∧ t.ctx.stopped = false ∧ t.ctx.calm = none ∧ t.ctx.epoch = 0 ∧
      (∀ w ∈ req.windows, (t.window w).bound = some req.ctxid ∧ (t.window w).queue = []) ∧
      ∀ le k n, (t.thOf le k).run = .free ∧ (t.thOf le k).rg n = 0 ∧ (t.thOf le k).fcsr = 0 ∧ (t.thOf le k).sigctl = 0 ∧
        (t.thOf le k).callctr = 1 ∧ (t.thOf le k).sndctr = 1 ∧ rget (t.thOf le k).f n = ⟨0, 53⟩) ∧
  (∀ (t : Nat) (s : State), ((s.ctx.calm.isSome = true ∨ t < s.tick + 10000) → exec (.calmPointBroadcast t) s = .next s) ∧
    (s.ctx.present = true → s.ctx.stopped = false → s.ctx.calm = none → s.tick + 10000 ≤ t →
      ∃ u, exec (.calmPointBroadcast t) s = .next u ∧ u.ctx.calm = some t ∧ { u with ctx := { u.ctx with calm := none } } = s)) ∧
  (∀ (t : Nat) (s : State), s.ctx.calm = some t →
    (s.tick ≤ t → s.allQuiet = true → exec .cooperativeSwitch s = .next (s.advanceTime 1) ∧
      (s.closeTick = s → s.planeDue = none → ∃ u, exec .cooperativeSwitch s = .next u ∧ u.tick = s.tick + 1 ∧ u.ctx.stopped = true ∧
        u.ctx.elems = s.ctx.elems ∧ u.mem = s.mem)) ∧
    ((t < s.tick ∨ s.allQuiet = false) → exec .cooperativeSwitch s = .next s) ∧
    ((t < s.tick ∨ (t = s.tick ∧ s.allQuiet = false)) → exec .forcedStop s = .next s.stopAll) ∧
    ((s.tick < t ∨ (s.tick = t ∧ s.allQuiet = true)) → exec .forcedStop s = .next s)) ∧
  (∀ (s : State), s.stopAll.ctx.stopped = true ∧ s.stopAll.ctx.calm = none ∧ s.stopAll.ctx.elems = s.ctx.elems ∧ s.stopAll.mem = s.mem ∧
    s.stopAll.ctx.halted = (s.ctx.halted || !s.ctx.halting.isEmpty) ∧
    (s.ctx.halting ≠ [] → s.ctx.halted = false → s.stopAll.mailbox.log.getLast? = some (s.ctx.ctxid.setWidth 64, 0, 0))) ∧
  (∀ (s : State), (s.ctx.present = false → s.vacate = some s) ∧
    (s.ctx.present = true → s.ctx.stopped = true → s.quiesced = true → s.vacate = some s.save) ∧
    (s.ctx.present = true → (s.ctx.stopped = false ∨ s.quiesced = false) → s.vacate = none)) ∧
  (∀ (s : State), s.save.ctx.present = false ∧ s.save.saved.map (·.ctx.ctxid) = s.saved.map (·.ctx.ctxid) ++ [s.ctx.ctxid]) ∧
  (∀ (s : State), s.ctx.present = true → s.ctx.halted = false → s.ctx.stopped = true → ∃ t, exec .contextHalt s = .next t ∧
    t.ctx.halted = true ∧ t.ctx.elems = s.ctx.elems) ∧
  (∀ (s : State), s.ctx.stopped = false → s.ctx.calm = none → exec .contextHalt s = .next s) ∧
  (∀ (ctx : BitVec 12) (narrow wide : List Nat) (s s1 : State) (v : Saved), s.mailbox.ready = true → partitionOk narrow wide = true →
    s.vacate = some s1 → s1.saved.find? (fun v => v.ctx.ctxid == ctx) = some v → v.ctx.narrow = narrow.length →
    v.ctx.tiles.length = narrow.length + wide.length →
    (v.ctx.halted = true → exec (.contextResume ctx narrow wide) s = .next s) ∧
    (v.ctx.halted = false → exec (.contextResume ctx narrow wide) s = .next (s1.restore v (partitionTiles narrow wide)))) ∧
  (∀ (c : CalmChange) (s : State), (s.ctx.present = false ∨ s.ctx.stopped = false) → exec (.calmPointChange c) s = .next s) ∧
  (∀ (s : State), s.ctx.present = true → s.ctx.stopped = true →
    (∃ t, exec (.calmPointChange .advanceEpoch) s = .next t ∧ t.ctx.epoch = s.ctx.epoch + 1 ∧ t.mem = s.mem) ∧
    (∀ w id, w < 64 → (s.window w).bound ≠ some id → ∃ t, exec (.calmPointChange (.bindWindow w (some id))) s = .next t ∧
      (t.window w).bound = some id ∧ (t.window w).queue = []) ∧
    (∀ k base len plane, k < 4 → let w := trustFields (base, len, plane)
      ((globalRange w.1 w.2.1 && globalRange w.2.2 (w.2.1 / 4)) = false →
        exec (.calmPointChange (.trustWindow k base len plane)) s = .next s) ∧
      ((globalRange w.1 w.2.1 && globalRange w.2.2 (w.2.1 / 4)) = true →
        ∃ t, exec (.calmPointChange (.trustWindow k base len plane)) s = .next t ∧
          vget t.ctx.trust k = (base % 2 ^ 49 / 256 * 256, len % 2 ^ 32 / 256 * 256, plane % 2 ^ 49 / 64 * 64))))
end

