-- ==== Sys2Proof/Laws/State.lean ====
section
/-! SUPPORT. One lemma for each field of the state under each of its updates, for each field of a thread set under the updates of its
registers, and what the accessors find after an update; so that no proof unfolds a record update. -/
namespace Sys2Proof.Machine

/-! ### Fields of the state -/

@[simp] theorem State.setEl_power (le : Nat) (e : Element) (s : State) : (s.setEl le e).power = s.power := rfl
@[simp] theorem State.setEl_resets (le : Nat) (e : Element) (s : State) : (s.setEl le e).resets = s.resets := rfl
@[simp] theorem State.setEl_period (le : Nat) (e : Element) (s : State) : (s.setEl le e).period = s.period := rfl
@[simp] theorem State.setEl_bringUp (le : Nat) (e : Element) (s : State) : (s.setEl le e).bringUp = s.bringUp := rfl
@[simp] theorem State.setEl_fwOk (le : Nat) (e : Element) (s : State) : (s.setEl le e).fwOk = s.fwOk := rfl
@[simp] theorem State.setEl_tick (le : Nat) (e : Element) (s : State) : (s.setEl le e).tick = s.tick := rfl
@[simp] theorem State.setEl_mem (le : Nat) (e : Element) (s : State) : (s.setEl le e).mem = s.mem := rfl
@[simp] theorem State.setEl_vers (le : Nat) (e : Element) (s : State) : (s.setEl le e).vers = s.vers := rfl
@[simp] theorem State.setEl_poison (le : Nat) (e : Element) (s : State) : (s.setEl le e).poison = s.poison := rfl
@[simp] theorem State.setEl_latent (le : Nat) (e : Element) (s : State) : (s.setEl le e).latent = s.latent := rfl
@[simp] theorem State.setEl_corrected (le : Nat) (e : Element) (s : State) : (s.setEl le e).corrected = s.corrected := rfl
@[simp] theorem State.setEl_saved (le : Nat) (e : Element) (s : State) : (s.setEl le e).saved = s.saved := rfl
@[simp] theorem State.setEl_tiles (le : Nat) (e : Element) (s : State) : (s.setEl le e).tiles = s.tiles := rfl
@[simp] theorem State.setEl_quads (le : Nat) (e : Element) (s : State) : (s.setEl le e).quads = s.quads := rfl
@[simp] theorem State.setEl_cars (le : Nat) (e : Element) (s : State) : (s.setEl le e).cars = s.cars := rfl
@[simp] theorem State.setEl_planeLast (le : Nat) (e : Element) (s : State) : (s.setEl le e).planeLast = s.planeLast := rfl
@[simp] theorem State.setEl_planeUntil (le : Nat) (e : Element) (s : State) : (s.setEl le e).planeUntil = s.planeUntil := rfl
@[simp] theorem State.setEl_windows (le : Nat) (e : Element) (s : State) : (s.setEl le e).windows = s.windows := rfl
@[simp] theorem State.setEl_slips (le : Nat) (e : Element) (s : State) : (s.setEl le e).slips = s.slips := rfl
@[simp] theorem State.setEl_govs (le : Nat) (e : Element) (s : State) : (s.setEl le e).govs = s.govs := rfl
@[simp] theorem State.setEl_mailbox (le : Nat) (e : Element) (s : State) : (s.setEl le e).mailbox = s.mailbox := rfl
@[simp] theorem State.setEl_spdm (le : Nat) (e : Element) (s : State) : (s.setEl le e).spdm = s.spdm := rfl
@[simp] theorem State.setEl_hostLog (le : Nat) (e : Element) (s : State) : (s.setEl le e).hostLog = s.hostLog := rfl
@[simp] theorem State.setEl_nextId (le : Nat) (e : Element) (s : State) : (s.setEl le e).nextId = s.nextId := rfl
@[simp] theorem State.setEl_agenda (le : Nat) (e : Element) (s : State) : (s.setEl le e).agenda = s.agenda := rfl
@[simp] theorem State.setEl_cur (le : Nat) (e : Element) (s : State) : (s.setEl le e).cur = s.cur := rfl
@[simp] theorem State.setEl_free (le : Nat) (e : Element) (s : State) : (s.setEl le e).free = s.free := rfl
@[simp] theorem State.setEl_choices (le : Nat) (e : Element) (s : State) : (s.setEl le e).choices = s.choices := rfl

@[simp] theorem State.updEl_power (le : Nat) (f : Element → Element) (s : State) : (s.updEl le f).power = s.power := rfl
@[simp] theorem State.updEl_resets (le : Nat) (f : Element → Element) (s : State) : (s.updEl le f).resets = s.resets := rfl
@[simp] theorem State.updEl_period (le : Nat) (f : Element → Element) (s : State) : (s.updEl le f).period = s.period := rfl
@[simp] theorem State.updEl_bringUp (le : Nat) (f : Element → Element) (s : State) : (s.updEl le f).bringUp = s.bringUp := rfl
@[simp] theorem State.updEl_fwOk (le : Nat) (f : Element → Element) (s : State) : (s.updEl le f).fwOk = s.fwOk := rfl
@[simp] theorem State.updEl_tick (le : Nat) (f : Element → Element) (s : State) : (s.updEl le f).tick = s.tick := rfl
@[simp] theorem State.updEl_mem (le : Nat) (f : Element → Element) (s : State) : (s.updEl le f).mem = s.mem := rfl
@[simp] theorem State.updEl_vers (le : Nat) (f : Element → Element) (s : State) : (s.updEl le f).vers = s.vers := rfl
@[simp] theorem State.updEl_poison (le : Nat) (f : Element → Element) (s : State) : (s.updEl le f).poison = s.poison := rfl
@[simp] theorem State.updEl_latent (le : Nat) (f : Element → Element) (s : State) : (s.updEl le f).latent = s.latent := rfl
@[simp] theorem State.updEl_corrected (le : Nat) (f : Element → Element) (s : State) : (s.updEl le f).corrected = s.corrected := rfl
@[simp] theorem State.updEl_saved (le : Nat) (f : Element → Element) (s : State) : (s.updEl le f).saved = s.saved := rfl
@[simp] theorem State.updEl_tiles (le : Nat) (f : Element → Element) (s : State) : (s.updEl le f).tiles = s.tiles := rfl
@[simp] theorem State.updEl_quads (le : Nat) (f : Element → Element) (s : State) : (s.updEl le f).quads = s.quads := rfl
@[simp] theorem State.updEl_cars (le : Nat) (f : Element → Element) (s : State) : (s.updEl le f).cars = s.cars := rfl
@[simp] theorem State.updEl_planeLast (le : Nat) (f : Element → Element) (s : State) : (s.updEl le f).planeLast = s.planeLast := rfl
@[simp] theorem State.updEl_planeUntil (le : Nat) (f : Element → Element) (s : State) : (s.updEl le f).planeUntil = s.planeUntil := rfl
@[simp] theorem State.updEl_windows (le : Nat) (f : Element → Element) (s : State) : (s.updEl le f).windows = s.windows := rfl
@[simp] theorem State.updEl_slips (le : Nat) (f : Element → Element) (s : State) : (s.updEl le f).slips = s.slips := rfl
@[simp] theorem State.updEl_govs (le : Nat) (f : Element → Element) (s : State) : (s.updEl le f).govs = s.govs := rfl
@[simp] theorem State.updEl_mailbox (le : Nat) (f : Element → Element) (s : State) : (s.updEl le f).mailbox = s.mailbox := rfl
@[simp] theorem State.updEl_spdm (le : Nat) (f : Element → Element) (s : State) : (s.updEl le f).spdm = s.spdm := rfl
@[simp] theorem State.updEl_hostLog (le : Nat) (f : Element → Element) (s : State) : (s.updEl le f).hostLog = s.hostLog := rfl
@[simp] theorem State.updEl_nextId (le : Nat) (f : Element → Element) (s : State) : (s.updEl le f).nextId = s.nextId := rfl
@[simp] theorem State.updEl_agenda (le : Nat) (f : Element → Element) (s : State) : (s.updEl le f).agenda = s.agenda := rfl
@[simp] theorem State.updEl_cur (le : Nat) (f : Element → Element) (s : State) : (s.updEl le f).cur = s.cur := rfl
@[simp] theorem State.updEl_free (le : Nat) (f : Element → Element) (s : State) : (s.updEl le f).free = s.free := rfl
@[simp] theorem State.updEl_choices (le : Nat) (f : Element → Element) (s : State) : (s.updEl le f).choices = s.choices := rfl

@[simp] theorem State.updThOf_power (le k : Nat) (f : ThreadSet → ThreadSet) (s : State) : (s.updThOf le k f).power = s.power := rfl
@[simp] theorem State.updThOf_resets (le k : Nat) (f : ThreadSet → ThreadSet) (s : State) : (s.updThOf le k f).resets = s.resets := rfl
@[simp] theorem State.updThOf_period (le k : Nat) (f : ThreadSet → ThreadSet) (s : State) : (s.updThOf le k f).period = s.period := rfl
@[simp] theorem State.updThOf_bringUp (le k : Nat) (f : ThreadSet → ThreadSet) (s : State) : (s.updThOf le k f).bringUp = s.bringUp := rfl
@[simp] theorem State.updThOf_fwOk (le k : Nat) (f : ThreadSet → ThreadSet) (s : State) : (s.updThOf le k f).fwOk = s.fwOk := rfl
@[simp] theorem State.updThOf_tick (le k : Nat) (f : ThreadSet → ThreadSet) (s : State) : (s.updThOf le k f).tick = s.tick := rfl
@[simp] theorem State.updThOf_mem (le k : Nat) (f : ThreadSet → ThreadSet) (s : State) : (s.updThOf le k f).mem = s.mem := rfl
@[simp] theorem State.updThOf_vers (le k : Nat) (f : ThreadSet → ThreadSet) (s : State) : (s.updThOf le k f).vers = s.vers := rfl
@[simp] theorem State.updThOf_poison (le k : Nat) (f : ThreadSet → ThreadSet) (s : State) : (s.updThOf le k f).poison = s.poison := rfl
@[simp] theorem State.updThOf_latent (le k : Nat) (f : ThreadSet → ThreadSet) (s : State) : (s.updThOf le k f).latent = s.latent := rfl
@[simp] theorem State.updThOf_corrected (le k : Nat) (f : ThreadSet → ThreadSet) (s : State) : (s.updThOf le k f).corrected = s.corrected := rfl
@[simp] theorem State.updThOf_saved (le k : Nat) (f : ThreadSet → ThreadSet) (s : State) : (s.updThOf le k f).saved = s.saved := rfl
@[simp] theorem State.updThOf_tiles (le k : Nat) (f : ThreadSet → ThreadSet) (s : State) : (s.updThOf le k f).tiles = s.tiles := rfl
@[simp] theorem State.updThOf_quads (le k : Nat) (f : ThreadSet → ThreadSet) (s : State) : (s.updThOf le k f).quads = s.quads := rfl
@[simp] theorem State.updThOf_cars (le k : Nat) (f : ThreadSet → ThreadSet) (s : State) : (s.updThOf le k f).cars = s.cars := rfl
@[simp] theorem State.updThOf_planeLast (le k : Nat) (f : ThreadSet → ThreadSet) (s : State) : (s.updThOf le k f).planeLast = s.planeLast := rfl
@[simp] theorem State.updThOf_planeUntil (le k : Nat) (f : ThreadSet → ThreadSet) (s : State) : (s.updThOf le k f).planeUntil = s.planeUntil := rfl
@[simp] theorem State.updThOf_windows (le k : Nat) (f : ThreadSet → ThreadSet) (s : State) : (s.updThOf le k f).windows = s.windows := rfl
@[simp] theorem State.updThOf_slips (le k : Nat) (f : ThreadSet → ThreadSet) (s : State) : (s.updThOf le k f).slips = s.slips := rfl
@[simp] theorem State.updThOf_govs (le k : Nat) (f : ThreadSet → ThreadSet) (s : State) : (s.updThOf le k f).govs = s.govs := rfl
@[simp] theorem State.updThOf_mailbox (le k : Nat) (f : ThreadSet → ThreadSet) (s : State) : (s.updThOf le k f).mailbox = s.mailbox := rfl
@[simp] theorem State.updThOf_spdm (le k : Nat) (f : ThreadSet → ThreadSet) (s : State) : (s.updThOf le k f).spdm = s.spdm := rfl
@[simp] theorem State.updThOf_hostLog (le k : Nat) (f : ThreadSet → ThreadSet) (s : State) : (s.updThOf le k f).hostLog = s.hostLog := rfl
@[simp] theorem State.updThOf_nextId (le k : Nat) (f : ThreadSet → ThreadSet) (s : State) : (s.updThOf le k f).nextId = s.nextId := rfl
@[simp] theorem State.updThOf_agenda (le k : Nat) (f : ThreadSet → ThreadSet) (s : State) : (s.updThOf le k f).agenda = s.agenda := rfl
@[simp] theorem State.updThOf_cur (le k : Nat) (f : ThreadSet → ThreadSet) (s : State) : (s.updThOf le k f).cur = s.cur := rfl
@[simp] theorem State.updThOf_free (le k : Nat) (f : ThreadSet → ThreadSet) (s : State) : (s.updThOf le k f).free = s.free := rfl
@[simp] theorem State.updThOf_choices (le k : Nat) (f : ThreadSet → ThreadSet) (s : State) : (s.updThOf le k f).choices = s.choices := rfl

@[simp] theorem State.updTh_power (f : ThreadSet → ThreadSet) (s : State) : (s.updTh f).power = s.power := rfl
@[simp] theorem State.updTh_resets (f : ThreadSet → ThreadSet) (s : State) : (s.updTh f).resets = s.resets := rfl
@[simp] theorem State.updTh_period (f : ThreadSet → ThreadSet) (s : State) : (s.updTh f).period = s.period := rfl
@[simp] theorem State.updTh_bringUp (f : ThreadSet → ThreadSet) (s : State) : (s.updTh f).bringUp = s.bringUp := rfl
@[simp] theorem State.updTh_fwOk (f : ThreadSet → ThreadSet) (s : State) : (s.updTh f).fwOk = s.fwOk := rfl
@[simp] theorem State.updTh_tick (f : ThreadSet → ThreadSet) (s : State) : (s.updTh f).tick = s.tick := rfl
@[simp] theorem State.updTh_mem (f : ThreadSet → ThreadSet) (s : State) : (s.updTh f).mem = s.mem := rfl
@[simp] theorem State.updTh_vers (f : ThreadSet → ThreadSet) (s : State) : (s.updTh f).vers = s.vers := rfl
@[simp] theorem State.updTh_poison (f : ThreadSet → ThreadSet) (s : State) : (s.updTh f).poison = s.poison := rfl
@[simp] theorem State.updTh_latent (f : ThreadSet → ThreadSet) (s : State) : (s.updTh f).latent = s.latent := rfl
@[simp] theorem State.updTh_corrected (f : ThreadSet → ThreadSet) (s : State) : (s.updTh f).corrected = s.corrected := rfl
@[simp] theorem State.updTh_saved (f : ThreadSet → ThreadSet) (s : State) : (s.updTh f).saved = s.saved := rfl
@[simp] theorem State.updTh_tiles (f : ThreadSet → ThreadSet) (s : State) : (s.updTh f).tiles = s.tiles := rfl
@[simp] theorem State.updTh_quads (f : ThreadSet → ThreadSet) (s : State) : (s.updTh f).quads = s.quads := rfl
@[simp] theorem State.updTh_cars (f : ThreadSet → ThreadSet) (s : State) : (s.updTh f).cars = s.cars := rfl
@[simp] theorem State.updTh_planeLast (f : ThreadSet → ThreadSet) (s : State) : (s.updTh f).planeLast = s.planeLast := rfl
@[simp] theorem State.updTh_planeUntil (f : ThreadSet → ThreadSet) (s : State) : (s.updTh f).planeUntil = s.planeUntil := rfl
@[simp] theorem State.updTh_windows (f : ThreadSet → ThreadSet) (s : State) : (s.updTh f).windows = s.windows := rfl
@[simp] theorem State.updTh_slips (f : ThreadSet → ThreadSet) (s : State) : (s.updTh f).slips = s.slips := rfl
@[simp] theorem State.updTh_govs (f : ThreadSet → ThreadSet) (s : State) : (s.updTh f).govs = s.govs := rfl
@[simp] theorem State.updTh_mailbox (f : ThreadSet → ThreadSet) (s : State) : (s.updTh f).mailbox = s.mailbox := rfl
@[simp] theorem State.updTh_spdm (f : ThreadSet → ThreadSet) (s : State) : (s.updTh f).spdm = s.spdm := rfl
@[simp] theorem State.updTh_hostLog (f : ThreadSet → ThreadSet) (s : State) : (s.updTh f).hostLog = s.hostLog := rfl
@[simp] theorem State.updTh_nextId (f : ThreadSet → ThreadSet) (s : State) : (s.updTh f).nextId = s.nextId := rfl
@[simp] theorem State.updTh_agenda (f : ThreadSet → ThreadSet) (s : State) : (s.updTh f).agenda = s.agenda := rfl
@[simp] theorem State.updTh_cur (f : ThreadSet → ThreadSet) (s : State) : (s.updTh f).cur = s.cur := rfl
@[simp] theorem State.updTh_free (f : ThreadSet → ThreadSet) (s : State) : (s.updTh f).free = s.free := rfl
@[simp] theorem State.updTh_choices (f : ThreadSet → ThreadSet) (s : State) : (s.updTh f).choices = s.choices := rfl

@[simp] theorem State.wg_power (n : RegNo) (x : Word) (s : State) : (s.wg n x).power = s.power := rfl
@[simp] theorem State.wg_resets (n : RegNo) (x : Word) (s : State) : (s.wg n x).resets = s.resets := rfl
@[simp] theorem State.wg_period (n : RegNo) (x : Word) (s : State) : (s.wg n x).period = s.period := rfl
@[simp] theorem State.wg_bringUp (n : RegNo) (x : Word) (s : State) : (s.wg n x).bringUp = s.bringUp := rfl
@[simp] theorem State.wg_fwOk (n : RegNo) (x : Word) (s : State) : (s.wg n x).fwOk = s.fwOk := rfl
@[simp] theorem State.wg_tick (n : RegNo) (x : Word) (s : State) : (s.wg n x).tick = s.tick := rfl
@[simp] theorem State.wg_mem (n : RegNo) (x : Word) (s : State) : (s.wg n x).mem = s.mem := rfl
@[simp] theorem State.wg_vers (n : RegNo) (x : Word) (s : State) : (s.wg n x).vers = s.vers := rfl
@[simp] theorem State.wg_poison (n : RegNo) (x : Word) (s : State) : (s.wg n x).poison = s.poison := rfl
@[simp] theorem State.wg_latent (n : RegNo) (x : Word) (s : State) : (s.wg n x).latent = s.latent := rfl
@[simp] theorem State.wg_corrected (n : RegNo) (x : Word) (s : State) : (s.wg n x).corrected = s.corrected := rfl
@[simp] theorem State.wg_saved (n : RegNo) (x : Word) (s : State) : (s.wg n x).saved = s.saved := rfl
@[simp] theorem State.wg_tiles (n : RegNo) (x : Word) (s : State) : (s.wg n x).tiles = s.tiles := rfl
@[simp] theorem State.wg_quads (n : RegNo) (x : Word) (s : State) : (s.wg n x).quads = s.quads := rfl
@[simp] theorem State.wg_cars (n : RegNo) (x : Word) (s : State) : (s.wg n x).cars = s.cars := rfl
@[simp] theorem State.wg_planeLast (n : RegNo) (x : Word) (s : State) : (s.wg n x).planeLast = s.planeLast := rfl
@[simp] theorem State.wg_planeUntil (n : RegNo) (x : Word) (s : State) : (s.wg n x).planeUntil = s.planeUntil := rfl
@[simp] theorem State.wg_windows (n : RegNo) (x : Word) (s : State) : (s.wg n x).windows = s.windows := rfl
@[simp] theorem State.wg_slips (n : RegNo) (x : Word) (s : State) : (s.wg n x).slips = s.slips := rfl
@[simp] theorem State.wg_govs (n : RegNo) (x : Word) (s : State) : (s.wg n x).govs = s.govs := rfl
@[simp] theorem State.wg_mailbox (n : RegNo) (x : Word) (s : State) : (s.wg n x).mailbox = s.mailbox := rfl
@[simp] theorem State.wg_spdm (n : RegNo) (x : Word) (s : State) : (s.wg n x).spdm = s.spdm := rfl
@[simp] theorem State.wg_hostLog (n : RegNo) (x : Word) (s : State) : (s.wg n x).hostLog = s.hostLog := rfl
@[simp] theorem State.wg_nextId (n : RegNo) (x : Word) (s : State) : (s.wg n x).nextId = s.nextId := rfl
@[simp] theorem State.wg_agenda (n : RegNo) (x : Word) (s : State) : (s.wg n x).agenda = s.agenda := rfl
@[simp] theorem State.wg_cur (n : RegNo) (x : Word) (s : State) : (s.wg n x).cur = s.cur := rfl
@[simp] theorem State.wg_free (n : RegNo) (x : Word) (s : State) : (s.wg n x).free = s.free := rfl
@[simp] theorem State.wg_choices (n : RegNo) (x : Word) (s : State) : (s.wg n x).choices = s.choices := rfl

@[simp] theorem State.advance_power  (s : State) : (s.advance ).power = s.power := rfl
@[simp] theorem State.advance_resets  (s : State) : (s.advance ).resets = s.resets := rfl
@[simp] theorem State.advance_period  (s : State) : (s.advance ).period = s.period := rfl
@[simp] theorem State.advance_bringUp  (s : State) : (s.advance ).bringUp = s.bringUp := rfl
@[simp] theorem State.advance_fwOk  (s : State) : (s.advance ).fwOk = s.fwOk := rfl
@[simp] theorem State.advance_tick  (s : State) : (s.advance ).tick = s.tick := rfl
@[simp] theorem State.advance_mem  (s : State) : (s.advance ).mem = s.mem := rfl
@[simp] theorem State.advance_vers  (s : State) : (s.advance ).vers = s.vers := rfl
@[simp] theorem State.advance_poison  (s : State) : (s.advance ).poison = s.poison := rfl
@[simp] theorem State.advance_latent  (s : State) : (s.advance ).latent = s.latent := rfl
@[simp] theorem State.advance_corrected  (s : State) : (s.advance ).corrected = s.corrected := rfl
@[simp] theorem State.advance_saved  (s : State) : (s.advance ).saved = s.saved := rfl
@[simp] theorem State.advance_tiles  (s : State) : (s.advance ).tiles = s.tiles := rfl
@[simp] theorem State.advance_quads  (s : State) : (s.advance ).quads = s.quads := rfl
@[simp] theorem State.advance_cars  (s : State) : (s.advance ).cars = s.cars := rfl
@[simp] theorem State.advance_planeLast  (s : State) : (s.advance ).planeLast = s.planeLast := rfl
@[simp] theorem State.advance_planeUntil  (s : State) : (s.advance ).planeUntil = s.planeUntil := rfl
@[simp] theorem State.advance_windows  (s : State) : (s.advance ).windows = s.windows := rfl
@[simp] theorem State.advance_slips  (s : State) : (s.advance ).slips = s.slips := rfl
@[simp] theorem State.advance_govs  (s : State) : (s.advance ).govs = s.govs := rfl
@[simp] theorem State.advance_mailbox  (s : State) : (s.advance ).mailbox = s.mailbox := rfl
@[simp] theorem State.advance_spdm  (s : State) : (s.advance ).spdm = s.spdm := rfl
@[simp] theorem State.advance_hostLog  (s : State) : (s.advance ).hostLog = s.hostLog := rfl
@[simp] theorem State.advance_nextId  (s : State) : (s.advance ).nextId = s.nextId := rfl
@[simp] theorem State.advance_agenda  (s : State) : (s.advance ).agenda = s.agenda := rfl
@[simp] theorem State.advance_cur  (s : State) : (s.advance ).cur = s.cur := rfl
@[simp] theorem State.advance_free  (s : State) : (s.advance ).free = s.free := rfl
@[simp] theorem State.advance_choices  (s : State) : (s.advance ).choices = s.choices := rfl

@[simp] theorem State.setTile_power (t : Nat) (x : Tile) (s : State) : (s.setTile t x).power = s.power := rfl
@[simp] theorem State.setTile_resets (t : Nat) (x : Tile) (s : State) : (s.setTile t x).resets = s.resets := rfl
@[simp] theorem State.setTile_period (t : Nat) (x : Tile) (s : State) : (s.setTile t x).period = s.period := rfl
@[simp] theorem State.setTile_bringUp (t : Nat) (x : Tile) (s : State) : (s.setTile t x).bringUp = s.bringUp := rfl
@[simp] theorem State.setTile_fwOk (t : Nat) (x : Tile) (s : State) : (s.setTile t x).fwOk = s.fwOk := rfl
@[simp] theorem State.setTile_tick (t : Nat) (x : Tile) (s : State) : (s.setTile t x).tick = s.tick := rfl
@[simp] theorem State.setTile_mem (t : Nat) (x : Tile) (s : State) : (s.setTile t x).mem = s.mem := rfl
@[simp] theorem State.setTile_vers (t : Nat) (x : Tile) (s : State) : (s.setTile t x).vers = s.vers := rfl
@[simp] theorem State.setTile_poison (t : Nat) (x : Tile) (s : State) : (s.setTile t x).poison = s.poison := rfl
@[simp] theorem State.setTile_latent (t : Nat) (x : Tile) (s : State) : (s.setTile t x).latent = s.latent := rfl
@[simp] theorem State.setTile_corrected (t : Nat) (x : Tile) (s : State) : (s.setTile t x).corrected = s.corrected := rfl
@[simp] theorem State.setTile_ctx (t : Nat) (x : Tile) (s : State) : (s.setTile t x).ctx = s.ctx := rfl
@[simp] theorem State.setTile_saved (t : Nat) (x : Tile) (s : State) : (s.setTile t x).saved = s.saved := rfl
@[simp] theorem State.setTile_quads (t : Nat) (x : Tile) (s : State) : (s.setTile t x).quads = s.quads := rfl
@[simp] theorem State.setTile_cars (t : Nat) (x : Tile) (s : State) : (s.setTile t x).cars = s.cars := rfl
@[simp] theorem State.setTile_planeLast (t : Nat) (x : Tile) (s : State) : (s.setTile t x).planeLast = s.planeLast := rfl
@[simp] theorem State.setTile_planeUntil (t : Nat) (x : Tile) (s : State) : (s.setTile t x).planeUntil = s.planeUntil := rfl
@[simp] theorem State.setTile_windows (t : Nat) (x : Tile) (s : State) : (s.setTile t x).windows = s.windows := rfl
@[simp] theorem State.setTile_slips (t : Nat) (x : Tile) (s : State) : (s.setTile t x).slips = s.slips := rfl
@[simp] theorem State.setTile_govs (t : Nat) (x : Tile) (s : State) : (s.setTile t x).govs = s.govs := rfl
@[simp] theorem State.setTile_mailbox (t : Nat) (x : Tile) (s : State) : (s.setTile t x).mailbox = s.mailbox := rfl
@[simp] theorem State.setTile_spdm (t : Nat) (x : Tile) (s : State) : (s.setTile t x).spdm = s.spdm := rfl
@[simp] theorem State.setTile_hostLog (t : Nat) (x : Tile) (s : State) : (s.setTile t x).hostLog = s.hostLog := rfl
@[simp] theorem State.setTile_nextId (t : Nat) (x : Tile) (s : State) : (s.setTile t x).nextId = s.nextId := rfl
@[simp] theorem State.setTile_agenda (t : Nat) (x : Tile) (s : State) : (s.setTile t x).agenda = s.agenda := rfl
@[simp] theorem State.setTile_cur (t : Nat) (x : Tile) (s : State) : (s.setTile t x).cur = s.cur := rfl
@[simp] theorem State.setTile_free (t : Nat) (x : Tile) (s : State) : (s.setTile t x).free = s.free := rfl
@[simp] theorem State.setTile_choices (t : Nat) (x : Tile) (s : State) : (s.setTile t x).choices = s.choices := rfl

@[simp] theorem State.updTile_power (t : Nat) (f : Tile → Tile) (s : State) : (s.updTile t f).power = s.power := rfl
@[simp] theorem State.updTile_resets (t : Nat) (f : Tile → Tile) (s : State) : (s.updTile t f).resets = s.resets := rfl
@[simp] theorem State.updTile_period (t : Nat) (f : Tile → Tile) (s : State) : (s.updTile t f).period = s.period := rfl
@[simp] theorem State.updTile_bringUp (t : Nat) (f : Tile → Tile) (s : State) : (s.updTile t f).bringUp = s.bringUp := rfl
@[simp] theorem State.updTile_fwOk (t : Nat) (f : Tile → Tile) (s : State) : (s.updTile t f).fwOk = s.fwOk := rfl
@[simp] theorem State.updTile_tick (t : Nat) (f : Tile → Tile) (s : State) : (s.updTile t f).tick = s.tick := rfl
@[simp] theorem State.updTile_mem (t : Nat) (f : Tile → Tile) (s : State) : (s.updTile t f).mem = s.mem := rfl
@[simp] theorem State.updTile_vers (t : Nat) (f : Tile → Tile) (s : State) : (s.updTile t f).vers = s.vers := rfl
@[simp] theorem State.updTile_poison (t : Nat) (f : Tile → Tile) (s : State) : (s.updTile t f).poison = s.poison := rfl
@[simp] theorem State.updTile_latent (t : Nat) (f : Tile → Tile) (s : State) : (s.updTile t f).latent = s.latent := rfl
@[simp] theorem State.updTile_corrected (t : Nat) (f : Tile → Tile) (s : State) : (s.updTile t f).corrected = s.corrected := rfl
@[simp] theorem State.updTile_ctx (t : Nat) (f : Tile → Tile) (s : State) : (s.updTile t f).ctx = s.ctx := rfl
@[simp] theorem State.updTile_saved (t : Nat) (f : Tile → Tile) (s : State) : (s.updTile t f).saved = s.saved := rfl
@[simp] theorem State.updTile_quads (t : Nat) (f : Tile → Tile) (s : State) : (s.updTile t f).quads = s.quads := rfl
@[simp] theorem State.updTile_cars (t : Nat) (f : Tile → Tile) (s : State) : (s.updTile t f).cars = s.cars := rfl
@[simp] theorem State.updTile_planeLast (t : Nat) (f : Tile → Tile) (s : State) : (s.updTile t f).planeLast = s.planeLast := rfl
@[simp] theorem State.updTile_planeUntil (t : Nat) (f : Tile → Tile) (s : State) : (s.updTile t f).planeUntil = s.planeUntil := rfl
@[simp] theorem State.updTile_windows (t : Nat) (f : Tile → Tile) (s : State) : (s.updTile t f).windows = s.windows := rfl
@[simp] theorem State.updTile_slips (t : Nat) (f : Tile → Tile) (s : State) : (s.updTile t f).slips = s.slips := rfl
@[simp] theorem State.updTile_govs (t : Nat) (f : Tile → Tile) (s : State) : (s.updTile t f).govs = s.govs := rfl
@[simp] theorem State.updTile_mailbox (t : Nat) (f : Tile → Tile) (s : State) : (s.updTile t f).mailbox = s.mailbox := rfl
@[simp] theorem State.updTile_spdm (t : Nat) (f : Tile → Tile) (s : State) : (s.updTile t f).spdm = s.spdm := rfl
@[simp] theorem State.updTile_hostLog (t : Nat) (f : Tile → Tile) (s : State) : (s.updTile t f).hostLog = s.hostLog := rfl
@[simp] theorem State.updTile_nextId (t : Nat) (f : Tile → Tile) (s : State) : (s.updTile t f).nextId = s.nextId := rfl
@[simp] theorem State.updTile_agenda (t : Nat) (f : Tile → Tile) (s : State) : (s.updTile t f).agenda = s.agenda := rfl
@[simp] theorem State.updTile_cur (t : Nat) (f : Tile → Tile) (s : State) : (s.updTile t f).cur = s.cur := rfl
@[simp] theorem State.updTile_free (t : Nat) (f : Tile → Tile) (s : State) : (s.updTile t f).free = s.free := rfl
@[simp] theorem State.updTile_choices (t : Nat) (f : Tile → Tile) (s : State) : (s.updTile t f).choices = s.choices := rfl

@[simp] theorem State.poke_power (a : Nat) (bs : List Byte) (s : State) : (s.poke a bs).power = s.power := rfl
@[simp] theorem State.poke_resets (a : Nat) (bs : List Byte) (s : State) : (s.poke a bs).resets = s.resets := rfl
@[simp] theorem State.poke_period (a : Nat) (bs : List Byte) (s : State) : (s.poke a bs).period = s.period := rfl
@[simp] theorem State.poke_bringUp (a : Nat) (bs : List Byte) (s : State) : (s.poke a bs).bringUp = s.bringUp := rfl
@[simp] theorem State.poke_fwOk (a : Nat) (bs : List Byte) (s : State) : (s.poke a bs).fwOk = s.fwOk := rfl
@[simp] theorem State.poke_tick (a : Nat) (bs : List Byte) (s : State) : (s.poke a bs).tick = s.tick := rfl
@[simp] theorem State.poke_vers (a : Nat) (bs : List Byte) (s : State) : (s.poke a bs).vers = s.vers := rfl
@[simp] theorem State.poke_corrected (a : Nat) (bs : List Byte) (s : State) : (s.poke a bs).corrected = s.corrected := rfl
@[simp] theorem State.poke_ctx (a : Nat) (bs : List Byte) (s : State) : (s.poke a bs).ctx = s.ctx := rfl
@[simp] theorem State.poke_saved (a : Nat) (bs : List Byte) (s : State) : (s.poke a bs).saved = s.saved := rfl
@[simp] theorem State.poke_tiles (a : Nat) (bs : List Byte) (s : State) : (s.poke a bs).tiles = s.tiles := rfl
@[simp] theorem State.poke_quads (a : Nat) (bs : List Byte) (s : State) : (s.poke a bs).quads = s.quads := rfl
@[simp] theorem State.poke_cars (a : Nat) (bs : List Byte) (s : State) : (s.poke a bs).cars = s.cars := rfl
@[simp] theorem State.poke_planeLast (a : Nat) (bs : List Byte) (s : State) : (s.poke a bs).planeLast = s.planeLast := rfl
@[simp] theorem State.poke_planeUntil (a : Nat) (bs : List Byte) (s : State) : (s.poke a bs).planeUntil = s.planeUntil := rfl
@[simp] theorem State.poke_windows (a : Nat) (bs : List Byte) (s : State) : (s.poke a bs).windows = s.windows := rfl
@[simp] theorem State.poke_slips (a : Nat) (bs : List Byte) (s : State) : (s.poke a bs).slips = s.slips := rfl
@[simp] theorem State.poke_govs (a : Nat) (bs : List Byte) (s : State) : (s.poke a bs).govs = s.govs := rfl
@[simp] theorem State.poke_mailbox (a : Nat) (bs : List Byte) (s : State) : (s.poke a bs).mailbox = s.mailbox := rfl
@[simp] theorem State.poke_spdm (a : Nat) (bs : List Byte) (s : State) : (s.poke a bs).spdm = s.spdm := rfl
@[simp] theorem State.poke_hostLog (a : Nat) (bs : List Byte) (s : State) : (s.poke a bs).hostLog = s.hostLog := rfl
@[simp] theorem State.poke_nextId (a : Nat) (bs : List Byte) (s : State) : (s.poke a bs).nextId = s.nextId := rfl
@[simp] theorem State.poke_agenda (a : Nat) (bs : List Byte) (s : State) : (s.poke a bs).agenda = s.agenda := rfl
@[simp] theorem State.poke_cur (a : Nat) (bs : List Byte) (s : State) : (s.poke a bs).cur = s.cur := rfl
@[simp] theorem State.poke_free (a : Nat) (bs : List Byte) (s : State) : (s.poke a bs).free = s.free := rfl
@[simp] theorem State.poke_choices (a : Nat) (bs : List Byte) (s : State) : (s.poke a bs).choices = s.choices := rfl

@[simp] theorem State.launchFlight_power (f : Flight) (s : State) : (s.launchFlight f).power = s.power := rfl
@[simp] theorem State.launchFlight_resets (f : Flight) (s : State) : (s.launchFlight f).resets = s.resets := rfl
@[simp] theorem State.launchFlight_period (f : Flight) (s : State) : (s.launchFlight f).period = s.period := rfl
@[simp] theorem State.launchFlight_bringUp (f : Flight) (s : State) : (s.launchFlight f).bringUp = s.bringUp := rfl
@[simp] theorem State.launchFlight_fwOk (f : Flight) (s : State) : (s.launchFlight f).fwOk = s.fwOk := rfl
@[simp] theorem State.launchFlight_tick (f : Flight) (s : State) : (s.launchFlight f).tick = s.tick := rfl
@[simp] theorem State.launchFlight_mem (f : Flight) (s : State) : (s.launchFlight f).mem = s.mem := rfl
@[simp] theorem State.launchFlight_vers (f : Flight) (s : State) : (s.launchFlight f).vers = s.vers := rfl
@[simp] theorem State.launchFlight_poison (f : Flight) (s : State) : (s.launchFlight f).poison = s.poison := rfl
@[simp] theorem State.launchFlight_latent (f : Flight) (s : State) : (s.launchFlight f).latent = s.latent := rfl
@[simp] theorem State.launchFlight_corrected (f : Flight) (s : State) : (s.launchFlight f).corrected = s.corrected := rfl
@[simp] theorem State.launchFlight_saved (f : Flight) (s : State) : (s.launchFlight f).saved = s.saved := rfl
@[simp] theorem State.launchFlight_tiles (f : Flight) (s : State) : (s.launchFlight f).tiles = s.tiles := rfl
@[simp] theorem State.launchFlight_quads (f : Flight) (s : State) : (s.launchFlight f).quads = s.quads := rfl
@[simp] theorem State.launchFlight_cars (f : Flight) (s : State) : (s.launchFlight f).cars = s.cars := rfl
@[simp] theorem State.launchFlight_planeLast (f : Flight) (s : State) : (s.launchFlight f).planeLast = s.planeLast := rfl
@[simp] theorem State.launchFlight_planeUntil (f : Flight) (s : State) : (s.launchFlight f).planeUntil = s.planeUntil := rfl
@[simp] theorem State.launchFlight_windows (f : Flight) (s : State) : (s.launchFlight f).windows = s.windows := rfl
@[simp] theorem State.launchFlight_slips (f : Flight) (s : State) : (s.launchFlight f).slips = s.slips := rfl
@[simp] theorem State.launchFlight_govs (f : Flight) (s : State) : (s.launchFlight f).govs = s.govs := rfl
@[simp] theorem State.launchFlight_mailbox (f : Flight) (s : State) : (s.launchFlight f).mailbox = s.mailbox := rfl
@[simp] theorem State.launchFlight_spdm (f : Flight) (s : State) : (s.launchFlight f).spdm = s.spdm := rfl
@[simp] theorem State.launchFlight_hostLog (f : Flight) (s : State) : (s.launchFlight f).hostLog = s.hostLog := rfl
@[simp] theorem State.launchFlight_agenda (f : Flight) (s : State) : (s.launchFlight f).agenda = s.agenda := rfl
@[simp] theorem State.launchFlight_cur (f : Flight) (s : State) : (s.launchFlight f).cur = s.cur := rfl
@[simp] theorem State.launchFlight_free (f : Flight) (s : State) : (s.launchFlight f).free = s.free := rfl
@[simp] theorem State.launchFlight_choices (f : Flight) (s : State) : (s.launchFlight f).choices = s.choices := rfl

@[simp] theorem State.dropFlight_power (k : Nat) (s : State) : (s.dropFlight k).power = s.power := rfl
@[simp] theorem State.dropFlight_resets (k : Nat) (s : State) : (s.dropFlight k).resets = s.resets := rfl
@[simp] theorem State.dropFlight_period (k : Nat) (s : State) : (s.dropFlight k).period = s.period := rfl
@[simp] theorem State.dropFlight_bringUp (k : Nat) (s : State) : (s.dropFlight k).bringUp = s.bringUp := rfl
@[simp] theorem State.dropFlight_fwOk (k : Nat) (s : State) : (s.dropFlight k).fwOk = s.fwOk := rfl
@[simp] theorem State.dropFlight_tick (k : Nat) (s : State) : (s.dropFlight k).tick = s.tick := rfl
@[simp] theorem State.dropFlight_mem (k : Nat) (s : State) : (s.dropFlight k).mem = s.mem := rfl
@[simp] theorem State.dropFlight_vers (k : Nat) (s : State) : (s.dropFlight k).vers = s.vers := rfl
@[simp] theorem State.dropFlight_poison (k : Nat) (s : State) : (s.dropFlight k).poison = s.poison := rfl
@[simp] theorem State.dropFlight_latent (k : Nat) (s : State) : (s.dropFlight k).latent = s.latent := rfl
@[simp] theorem State.dropFlight_corrected (k : Nat) (s : State) : (s.dropFlight k).corrected = s.corrected := rfl
@[simp] theorem State.dropFlight_saved (k : Nat) (s : State) : (s.dropFlight k).saved = s.saved := rfl
@[simp] theorem State.dropFlight_tiles (k : Nat) (s : State) : (s.dropFlight k).tiles = s.tiles := rfl
@[simp] theorem State.dropFlight_quads (k : Nat) (s : State) : (s.dropFlight k).quads = s.quads := rfl
@[simp] theorem State.dropFlight_cars (k : Nat) (s : State) : (s.dropFlight k).cars = s.cars := rfl
@[simp] theorem State.dropFlight_planeLast (k : Nat) (s : State) : (s.dropFlight k).planeLast = s.planeLast := rfl
@[simp] theorem State.dropFlight_planeUntil (k : Nat) (s : State) : (s.dropFlight k).planeUntil = s.planeUntil := rfl
@[simp] theorem State.dropFlight_windows (k : Nat) (s : State) : (s.dropFlight k).windows = s.windows := rfl
@[simp] theorem State.dropFlight_slips (k : Nat) (s : State) : (s.dropFlight k).slips = s.slips := rfl
@[simp] theorem State.dropFlight_govs (k : Nat) (s : State) : (s.dropFlight k).govs = s.govs := rfl
@[simp] theorem State.dropFlight_mailbox (k : Nat) (s : State) : (s.dropFlight k).mailbox = s.mailbox := rfl
@[simp] theorem State.dropFlight_spdm (k : Nat) (s : State) : (s.dropFlight k).spdm = s.spdm := rfl
@[simp] theorem State.dropFlight_hostLog (k : Nat) (s : State) : (s.dropFlight k).hostLog = s.hostLog := rfl
@[simp] theorem State.dropFlight_nextId (k : Nat) (s : State) : (s.dropFlight k).nextId = s.nextId := rfl
@[simp] theorem State.dropFlight_agenda (k : Nat) (s : State) : (s.dropFlight k).agenda = s.agenda := rfl
@[simp] theorem State.dropFlight_cur (k : Nat) (s : State) : (s.dropFlight k).cur = s.cur := rfl
@[simp] theorem State.dropFlight_free (k : Nat) (s : State) : (s.dropFlight k).free = s.free := rfl
@[simp] theorem State.dropFlight_choices (k : Nat) (s : State) : (s.dropFlight k).choices = s.choices := rfl

@[simp] theorem State.setWindow_power (w : Nat) (x : Window) (s : State) : (s.setWindow w x).power = s.power := rfl
@[simp] theorem State.setWindow_resets (w : Nat) (x : Window) (s : State) : (s.setWindow w x).resets = s.resets := rfl
@[simp] theorem State.setWindow_period (w : Nat) (x : Window) (s : State) : (s.setWindow w x).period = s.period := rfl
@[simp] theorem State.setWindow_bringUp (w : Nat) (x : Window) (s : State) : (s.setWindow w x).bringUp = s.bringUp := rfl
@[simp] theorem State.setWindow_fwOk (w : Nat) (x : Window) (s : State) : (s.setWindow w x).fwOk = s.fwOk := rfl
@[simp] theorem State.setWindow_tick (w : Nat) (x : Window) (s : State) : (s.setWindow w x).tick = s.tick := rfl
@[simp] theorem State.setWindow_mem (w : Nat) (x : Window) (s : State) : (s.setWindow w x).mem = s.mem := rfl
@[simp] theorem State.setWindow_vers (w : Nat) (x : Window) (s : State) : (s.setWindow w x).vers = s.vers := rfl
@[simp] theorem State.setWindow_poison (w : Nat) (x : Window) (s : State) : (s.setWindow w x).poison = s.poison := rfl
@[simp] theorem State.setWindow_latent (w : Nat) (x : Window) (s : State) : (s.setWindow w x).latent = s.latent := rfl
@[simp] theorem State.setWindow_corrected (w : Nat) (x : Window) (s : State) : (s.setWindow w x).corrected = s.corrected := rfl
@[simp] theorem State.setWindow_ctx (w : Nat) (x : Window) (s : State) : (s.setWindow w x).ctx = s.ctx := rfl
@[simp] theorem State.setWindow_saved (w : Nat) (x : Window) (s : State) : (s.setWindow w x).saved = s.saved := rfl
@[simp] theorem State.setWindow_tiles (w : Nat) (x : Window) (s : State) : (s.setWindow w x).tiles = s.tiles := rfl
@[simp] theorem State.setWindow_quads (w : Nat) (x : Window) (s : State) : (s.setWindow w x).quads = s.quads := rfl
@[simp] theorem State.setWindow_cars (w : Nat) (x : Window) (s : State) : (s.setWindow w x).cars = s.cars := rfl
@[simp] theorem State.setWindow_planeLast (w : Nat) (x : Window) (s : State) : (s.setWindow w x).planeLast = s.planeLast := rfl
@[simp] theorem State.setWindow_planeUntil (w : Nat) (x : Window) (s : State) : (s.setWindow w x).planeUntil = s.planeUntil := rfl
@[simp] theorem State.setWindow_slips (w : Nat) (x : Window) (s : State) : (s.setWindow w x).slips = s.slips := rfl
@[simp] theorem State.setWindow_govs (w : Nat) (x : Window) (s : State) : (s.setWindow w x).govs = s.govs := rfl
@[simp] theorem State.setWindow_mailbox (w : Nat) (x : Window) (s : State) : (s.setWindow w x).mailbox = s.mailbox := rfl
@[simp] theorem State.setWindow_spdm (w : Nat) (x : Window) (s : State) : (s.setWindow w x).spdm = s.spdm := rfl
@[simp] theorem State.setWindow_hostLog (w : Nat) (x : Window) (s : State) : (s.setWindow w x).hostLog = s.hostLog := rfl
@[simp] theorem State.setWindow_nextId (w : Nat) (x : Window) (s : State) : (s.setWindow w x).nextId = s.nextId := rfl
@[simp] theorem State.setWindow_agenda (w : Nat) (x : Window) (s : State) : (s.setWindow w x).agenda = s.agenda := rfl
@[simp] theorem State.setWindow_cur (w : Nat) (x : Window) (s : State) : (s.setWindow w x).cur = s.cur := rfl
@[simp] theorem State.setWindow_free (w : Nat) (x : Window) (s : State) : (s.setWindow w x).free = s.free := rfl
@[simp] theorem State.setWindow_choices (w : Nat) (x : Window) (s : State) : (s.setWindow w x).choices = s.choices := rfl

@[simp] theorem State.updCar_power (k : Nat) (f : Carousel → Carousel) (s : State) : (s.updCar k f).power = s.power := rfl
@[simp] theorem State.updCar_resets (k : Nat) (f : Carousel → Carousel) (s : State) : (s.updCar k f).resets = s.resets := rfl
@[simp] theorem State.updCar_period (k : Nat) (f : Carousel → Carousel) (s : State) : (s.updCar k f).period = s.period := rfl
@[simp] theorem State.updCar_bringUp (k : Nat) (f : Carousel → Carousel) (s : State) : (s.updCar k f).bringUp = s.bringUp := rfl
@[simp] theorem State.updCar_fwOk (k : Nat) (f : Carousel → Carousel) (s : State) : (s.updCar k f).fwOk = s.fwOk := rfl
@[simp] theorem State.updCar_tick (k : Nat) (f : Carousel → Carousel) (s : State) : (s.updCar k f).tick = s.tick := rfl
@[simp] theorem State.updCar_mem (k : Nat) (f : Carousel → Carousel) (s : State) : (s.updCar k f).mem = s.mem := rfl
@[simp] theorem State.updCar_vers (k : Nat) (f : Carousel → Carousel) (s : State) : (s.updCar k f).vers = s.vers := rfl
@[simp] theorem State.updCar_poison (k : Nat) (f : Carousel → Carousel) (s : State) : (s.updCar k f).poison = s.poison := rfl
@[simp] theorem State.updCar_latent (k : Nat) (f : Carousel → Carousel) (s : State) : (s.updCar k f).latent = s.latent := rfl
@[simp] theorem State.updCar_corrected (k : Nat) (f : Carousel → Carousel) (s : State) : (s.updCar k f).corrected = s.corrected := rfl
@[simp] theorem State.updCar_ctx (k : Nat) (f : Carousel → Carousel) (s : State) : (s.updCar k f).ctx = s.ctx := rfl
@[simp] theorem State.updCar_saved (k : Nat) (f : Carousel → Carousel) (s : State) : (s.updCar k f).saved = s.saved := rfl
@[simp] theorem State.updCar_tiles (k : Nat) (f : Carousel → Carousel) (s : State) : (s.updCar k f).tiles = s.tiles := rfl
@[simp] theorem State.updCar_quads (k : Nat) (f : Carousel → Carousel) (s : State) : (s.updCar k f).quads = s.quads := rfl
@[simp] theorem State.updCar_planeLast (k : Nat) (f : Carousel → Carousel) (s : State) : (s.updCar k f).planeLast = s.planeLast := rfl
@[simp] theorem State.updCar_planeUntil (k : Nat) (f : Carousel → Carousel) (s : State) : (s.updCar k f).planeUntil = s.planeUntil := rfl
@[simp] theorem State.updCar_windows (k : Nat) (f : Carousel → Carousel) (s : State) : (s.updCar k f).windows = s.windows := rfl
@[simp] theorem State.updCar_slips (k : Nat) (f : Carousel → Carousel) (s : State) : (s.updCar k f).slips = s.slips := rfl
@[simp] theorem State.updCar_govs (k : Nat) (f : Carousel → Carousel) (s : State) : (s.updCar k f).govs = s.govs := rfl
@[simp] theorem State.updCar_mailbox (k : Nat) (f : Carousel → Carousel) (s : State) : (s.updCar k f).mailbox = s.mailbox := rfl
@[simp] theorem State.updCar_spdm (k : Nat) (f : Carousel → Carousel) (s : State) : (s.updCar k f).spdm = s.spdm := rfl
@[simp] theorem State.updCar_hostLog (k : Nat) (f : Carousel → Carousel) (s : State) : (s.updCar k f).hostLog = s.hostLog := rfl
@[simp] theorem State.updCar_nextId (k : Nat) (f : Carousel → Carousel) (s : State) : (s.updCar k f).nextId = s.nextId := rfl
@[simp] theorem State.updCar_agenda (k : Nat) (f : Carousel → Carousel) (s : State) : (s.updCar k f).agenda = s.agenda := rfl
@[simp] theorem State.updCar_cur (k : Nat) (f : Carousel → Carousel) (s : State) : (s.updCar k f).cur = s.cur := rfl
@[simp] theorem State.updCar_free (k : Nat) (f : Carousel → Carousel) (s : State) : (s.updCar k f).free = s.free := rfl
@[simp] theorem State.updCar_choices (k : Nat) (f : Carousel → Carousel) (s : State) : (s.updCar k f).choices = s.choices := rfl

@[simp] theorem State.setEngine_power (g : Nat) (x : GroupEngine) (s : State) : (s.setEngine g x).power = s.power := rfl
@[simp] theorem State.setEngine_resets (g : Nat) (x : GroupEngine) (s : State) : (s.setEngine g x).resets = s.resets := rfl
@[simp] theorem State.setEngine_period (g : Nat) (x : GroupEngine) (s : State) : (s.setEngine g x).period = s.period := rfl
@[simp] theorem State.setEngine_bringUp (g : Nat) (x : GroupEngine) (s : State) : (s.setEngine g x).bringUp = s.bringUp := rfl
@[simp] theorem State.setEngine_fwOk (g : Nat) (x : GroupEngine) (s : State) : (s.setEngine g x).fwOk = s.fwOk := rfl
@[simp] theorem State.setEngine_tick (g : Nat) (x : GroupEngine) (s : State) : (s.setEngine g x).tick = s.tick := rfl
@[simp] theorem State.setEngine_mem (g : Nat) (x : GroupEngine) (s : State) : (s.setEngine g x).mem = s.mem := rfl
@[simp] theorem State.setEngine_vers (g : Nat) (x : GroupEngine) (s : State) : (s.setEngine g x).vers = s.vers := rfl
@[simp] theorem State.setEngine_poison (g : Nat) (x : GroupEngine) (s : State) : (s.setEngine g x).poison = s.poison := rfl
@[simp] theorem State.setEngine_latent (g : Nat) (x : GroupEngine) (s : State) : (s.setEngine g x).latent = s.latent := rfl
@[simp] theorem State.setEngine_corrected (g : Nat) (x : GroupEngine) (s : State) : (s.setEngine g x).corrected = s.corrected := rfl
@[simp] theorem State.setEngine_saved (g : Nat) (x : GroupEngine) (s : State) : (s.setEngine g x).saved = s.saved := rfl
@[simp] theorem State.setEngine_tiles (g : Nat) (x : GroupEngine) (s : State) : (s.setEngine g x).tiles = s.tiles := rfl
@[simp] theorem State.setEngine_quads (g : Nat) (x : GroupEngine) (s : State) : (s.setEngine g x).quads = s.quads := rfl
@[simp] theorem State.setEngine_cars (g : Nat) (x : GroupEngine) (s : State) : (s.setEngine g x).cars = s.cars := rfl
@[simp] theorem State.setEngine_planeLast (g : Nat) (x : GroupEngine) (s : State) : (s.setEngine g x).planeLast = s.planeLast := rfl
@[simp] theorem State.setEngine_planeUntil (g : Nat) (x : GroupEngine) (s : State) : (s.setEngine g x).planeUntil = s.planeUntil := rfl
@[simp] theorem State.setEngine_windows (g : Nat) (x : GroupEngine) (s : State) : (s.setEngine g x).windows = s.windows := rfl
@[simp] theorem State.setEngine_slips (g : Nat) (x : GroupEngine) (s : State) : (s.setEngine g x).slips = s.slips := rfl
@[simp] theorem State.setEngine_govs (g : Nat) (x : GroupEngine) (s : State) : (s.setEngine g x).govs = s.govs := rfl
@[simp] theorem State.setEngine_mailbox (g : Nat) (x : GroupEngine) (s : State) : (s.setEngine g x).mailbox = s.mailbox := rfl
@[simp] theorem State.setEngine_spdm (g : Nat) (x : GroupEngine) (s : State) : (s.setEngine g x).spdm = s.spdm := rfl
@[simp] theorem State.setEngine_hostLog (g : Nat) (x : GroupEngine) (s : State) : (s.setEngine g x).hostLog = s.hostLog := rfl
@[simp] theorem State.setEngine_nextId (g : Nat) (x : GroupEngine) (s : State) : (s.setEngine g x).nextId = s.nextId := rfl
@[simp] theorem State.setEngine_agenda (g : Nat) (x : GroupEngine) (s : State) : (s.setEngine g x).agenda = s.agenda := rfl
@[simp] theorem State.setEngine_cur (g : Nat) (x : GroupEngine) (s : State) : (s.setEngine g x).cur = s.cur := rfl
@[simp] theorem State.setEngine_free (g : Nat) (x : GroupEngine) (s : State) : (s.setEngine g x).free = s.free := rfl
@[simp] theorem State.setEngine_choices (g : Nat) (x : GroupEngine) (s : State) : (s.setEngine g x).choices = s.choices := rfl

@[simp] theorem State.logEvent_power (a b c : Word) (s : State) : (s.logEvent a b c).power = s.power := by unfold State.logEvent; rfl
@[simp] theorem State.logEvent_resets (a b c : Word) (s : State) : (s.logEvent a b c).resets = s.resets := by unfold State.logEvent; rfl
@[simp] theorem State.logEvent_period (a b c : Word) (s : State) : (s.logEvent a b c).period = s.period := by unfold State.logEvent; rfl
@[simp] theorem State.logEvent_bringUp (a b c : Word) (s : State) : (s.logEvent a b c).bringUp = s.bringUp := by unfold State.logEvent; rfl
@[simp] theorem State.logEvent_fwOk (a b c : Word) (s : State) : (s.logEvent a b c).fwOk = s.fwOk := by unfold State.logEvent; rfl
@[simp] theorem State.logEvent_tick (a b c : Word) (s : State) : (s.logEvent a b c).tick = s.tick := by unfold State.logEvent; rfl
@[simp] theorem State.logEvent_mem (a b c : Word) (s : State) : (s.logEvent a b c).mem = s.mem := by unfold State.logEvent; rfl
@[simp] theorem State.logEvent_vers (a b c : Word) (s : State) : (s.logEvent a b c).vers = s.vers := by unfold State.logEvent; rfl
@[simp] theorem State.logEvent_poison (a b c : Word) (s : State) : (s.logEvent a b c).poison = s.poison := by unfold State.logEvent; rfl
@[simp] theorem State.logEvent_latent (a b c : Word) (s : State) : (s.logEvent a b c).latent = s.latent := by unfold State.logEvent; rfl
@[simp] theorem State.logEvent_corrected (a b c : Word) (s : State) : (s.logEvent a b c).corrected = s.corrected := by unfold State.logEvent; rfl
@[simp] theorem State.logEvent_ctx (a b c : Word) (s : State) : (s.logEvent a b c).ctx = s.ctx := by unfold State.logEvent; rfl
@[simp] theorem State.logEvent_saved (a b c : Word) (s : State) : (s.logEvent a b c).saved = s.saved := by unfold State.logEvent; rfl
@[simp] theorem State.logEvent_tiles (a b c : Word) (s : State) : (s.logEvent a b c).tiles = s.tiles := by unfold State.logEvent; rfl
@[simp] theorem State.logEvent_quads (a b c : Word) (s : State) : (s.logEvent a b c).quads = s.quads := by unfold State.logEvent; rfl
@[simp] theorem State.logEvent_cars (a b c : Word) (s : State) : (s.logEvent a b c).cars = s.cars := by unfold State.logEvent; rfl
@[simp] theorem State.logEvent_planeLast (a b c : Word) (s : State) : (s.logEvent a b c).planeLast = s.planeLast := by unfold State.logEvent; rfl
@[simp] theorem State.logEvent_planeUntil (a b c : Word) (s : State) : (s.logEvent a b c).planeUntil = s.planeUntil := by unfold State.logEvent; rfl
@[simp] theorem State.logEvent_windows (a b c : Word) (s : State) : (s.logEvent a b c).windows = s.windows := by unfold State.logEvent; rfl
@[simp] theorem State.logEvent_slips (a b c : Word) (s : State) : (s.logEvent a b c).slips = s.slips := by unfold State.logEvent; rfl
@[simp] theorem State.logEvent_govs (a b c : Word) (s : State) : (s.logEvent a b c).govs = s.govs := by unfold State.logEvent; rfl
@[simp] theorem State.logEvent_spdm (a b c : Word) (s : State) : (s.logEvent a b c).spdm = s.spdm := by unfold State.logEvent; rfl
@[simp] theorem State.logEvent_hostLog (a b c : Word) (s : State) : (s.logEvent a b c).hostLog = s.hostLog := by unfold State.logEvent; rfl
@[simp] theorem State.logEvent_nextId (a b c : Word) (s : State) : (s.logEvent a b c).nextId = s.nextId := by unfold State.logEvent; rfl
@[simp] theorem State.logEvent_agenda (a b c : Word) (s : State) : (s.logEvent a b c).agenda = s.agenda := by unfold State.logEvent; rfl
@[simp] theorem State.logEvent_cur (a b c : Word) (s : State) : (s.logEvent a b c).cur = s.cur := by unfold State.logEvent; rfl
@[simp] theorem State.logEvent_free (a b c : Word) (s : State) : (s.logEvent a b c).free = s.free := by unfold State.logEvent; rfl
@[simp] theorem State.logEvent_choices (a b c : Word) (s : State) : (s.logEvent a b c).choices = s.choices := by unfold State.logEvent; rfl

@[simp] theorem State.halt_power (a b c : Word) (s : State) : (s.halt a b c).power = s.power := by simp only [State.halt, State.logEvent]
@[simp] theorem State.halt_resets (a b c : Word) (s : State) : (s.halt a b c).resets = s.resets := by simp only [State.halt, State.logEvent]
@[simp] theorem State.halt_period (a b c : Word) (s : State) : (s.halt a b c).period = s.period := by simp only [State.halt, State.logEvent]
@[simp] theorem State.halt_bringUp (a b c : Word) (s : State) : (s.halt a b c).bringUp = s.bringUp := by simp only [State.halt, State.logEvent]
@[simp] theorem State.halt_fwOk (a b c : Word) (s : State) : (s.halt a b c).fwOk = s.fwOk := by simp only [State.halt, State.logEvent]
@[simp] theorem State.halt_tick (a b c : Word) (s : State) : (s.halt a b c).tick = s.tick := by simp only [State.halt, State.logEvent]
@[simp] theorem State.halt_mem (a b c : Word) (s : State) : (s.halt a b c).mem = s.mem := by simp only [State.halt, State.logEvent]
@[simp] theorem State.halt_vers (a b c : Word) (s : State) : (s.halt a b c).vers = s.vers := by simp only [State.halt, State.logEvent]
@[simp] theorem State.halt_poison (a b c : Word) (s : State) : (s.halt a b c).poison = s.poison := by simp only [State.halt, State.logEvent]
@[simp] theorem State.halt_latent (a b c : Word) (s : State) : (s.halt a b c).latent = s.latent := by simp only [State.halt, State.logEvent]
@[simp] theorem State.halt_corrected (a b c : Word) (s : State) : (s.halt a b c).corrected = s.corrected := by simp only [State.halt, State.logEvent]
@[simp] theorem State.halt_saved (a b c : Word) (s : State) : (s.halt a b c).saved = s.saved := by simp only [State.halt, State.logEvent]
@[simp] theorem State.halt_tiles (a b c : Word) (s : State) : (s.halt a b c).tiles = s.tiles := by simp only [State.halt, State.logEvent]
@[simp] theorem State.halt_quads (a b c : Word) (s : State) : (s.halt a b c).quads = s.quads := by simp only [State.halt, State.logEvent]
@[simp] theorem State.halt_cars (a b c : Word) (s : State) : (s.halt a b c).cars = s.cars := by simp only [State.halt, State.logEvent]
@[simp] theorem State.halt_planeLast (a b c : Word) (s : State) : (s.halt a b c).planeLast = s.planeLast := by simp only [State.halt, State.logEvent]
@[simp] theorem State.halt_planeUntil (a b c : Word) (s : State) : (s.halt a b c).planeUntil = s.planeUntil := by simp only [State.halt, State.logEvent]
@[simp] theorem State.halt_windows (a b c : Word) (s : State) : (s.halt a b c).windows = s.windows := by simp only [State.halt, State.logEvent]
@[simp] theorem State.halt_slips (a b c : Word) (s : State) : (s.halt a b c).slips = s.slips := by simp only [State.halt, State.logEvent]
@[simp] theorem State.halt_govs (a b c : Word) (s : State) : (s.halt a b c).govs = s.govs := by simp only [State.halt, State.logEvent]
@[simp] theorem State.halt_spdm (a b c : Word) (s : State) : (s.halt a b c).spdm = s.spdm := by simp only [State.halt, State.logEvent]
@[simp] theorem State.halt_hostLog (a b c : Word) (s : State) : (s.halt a b c).hostLog = s.hostLog := by simp only [State.halt, State.logEvent]
@[simp] theorem State.halt_nextId (a b c : Word) (s : State) : (s.halt a b c).nextId = s.nextId := by simp only [State.halt, State.logEvent]
@[simp] theorem State.halt_agenda (a b c : Word) (s : State) : (s.halt a b c).agenda = s.agenda := by simp only [State.halt, State.logEvent]
@[simp] theorem State.halt_cur (a b c : Word) (s : State) : (s.halt a b c).cur = s.cur := by simp only [State.halt, State.logEvent]
@[simp] theorem State.halt_free (a b c : Word) (s : State) : (s.halt a b c).free = s.free := by simp only [State.halt, State.logEvent]
@[simp] theorem State.halt_choices (a b c : Word) (s : State) : (s.halt a b c).choices = s.choices := by simp only [State.halt, State.logEvent]

@[simp] theorem State.doubleTrap_power (le k : Nat) (a b c : Word) (s : State) : (s.doubleTrap le k a b c).power = s.power := by simp only [State.doubleTrap]; split <;> rfl
@[simp] theorem State.doubleTrap_resets (le k : Nat) (a b c : Word) (s : State) : (s.doubleTrap le k a b c).resets = s.resets := by simp only [State.doubleTrap]; split <;> rfl
@[simp] theorem State.doubleTrap_period (le k : Nat) (a b c : Word) (s : State) : (s.doubleTrap le k a b c).period = s.period := by simp only [State.doubleTrap]; split <;> rfl
@[simp] theorem State.doubleTrap_bringUp (le k : Nat) (a b c : Word) (s : State) : (s.doubleTrap le k a b c).bringUp = s.bringUp := by simp only [State.doubleTrap]; split <;> rfl
@[simp] theorem State.doubleTrap_fwOk (le k : Nat) (a b c : Word) (s : State) : (s.doubleTrap le k a b c).fwOk = s.fwOk := by simp only [State.doubleTrap]; split <;> rfl
@[simp] theorem State.doubleTrap_tick (le k : Nat) (a b c : Word) (s : State) : (s.doubleTrap le k a b c).tick = s.tick := by simp only [State.doubleTrap]; split <;> rfl
@[simp] theorem State.doubleTrap_mem (le k : Nat) (a b c : Word) (s : State) : (s.doubleTrap le k a b c).mem = s.mem := by simp only [State.doubleTrap]; split <;> rfl
@[simp] theorem State.doubleTrap_vers (le k : Nat) (a b c : Word) (s : State) : (s.doubleTrap le k a b c).vers = s.vers := by simp only [State.doubleTrap]; split <;> rfl
@[simp] theorem State.doubleTrap_poison (le k : Nat) (a b c : Word) (s : State) : (s.doubleTrap le k a b c).poison = s.poison := by simp only [State.doubleTrap]; split <;> rfl
@[simp] theorem State.doubleTrap_latent (le k : Nat) (a b c : Word) (s : State) : (s.doubleTrap le k a b c).latent = s.latent := by simp only [State.doubleTrap]; split <;> rfl
@[simp] theorem State.doubleTrap_corrected (le k : Nat) (a b c : Word) (s : State) : (s.doubleTrap le k a b c).corrected = s.corrected := by simp only [State.doubleTrap]; split <;> rfl
@[simp] theorem State.doubleTrap_saved (le k : Nat) (a b c : Word) (s : State) : (s.doubleTrap le k a b c).saved = s.saved := by simp only [State.doubleTrap]; split <;> rfl
@[simp] theorem State.doubleTrap_tiles (le k : Nat) (a b c : Word) (s : State) : (s.doubleTrap le k a b c).tiles = s.tiles := by simp only [State.doubleTrap]; split <;> rfl
@[simp] theorem State.doubleTrap_quads (le k : Nat) (a b c : Word) (s : State) : (s.doubleTrap le k a b c).quads = s.quads := by simp only [State.doubleTrap]; split <;> rfl
@[simp] theorem State.doubleTrap_cars (le k : Nat) (a b c : Word) (s : State) : (s.doubleTrap le k a b c).cars = s.cars := by simp only [State.doubleTrap]; split <;> rfl
@[simp] theorem State.doubleTrap_planeLast (le k : Nat) (a b c : Word) (s : State) : (s.doubleTrap le k a b c).planeLast = s.planeLast := by simp only [State.doubleTrap]; split <;> rfl
@[simp] theorem State.doubleTrap_planeUntil (le k : Nat) (a b c : Word) (s : State) : (s.doubleTrap le k a b c).planeUntil = s.planeUntil := by simp only [State.doubleTrap]; split <;> rfl
@[simp] theorem State.doubleTrap_windows (le k : Nat) (a b c : Word) (s : State) : (s.doubleTrap le k a b c).windows = s.windows := by simp only [State.doubleTrap]; split <;> rfl
@[simp] theorem State.doubleTrap_slips (le k : Nat) (a b c : Word) (s : State) : (s.doubleTrap le k a b c).slips = s.slips := by simp only [State.doubleTrap]; split <;> rfl
@[simp] theorem State.doubleTrap_govs (le k : Nat) (a b c : Word) (s : State) : (s.doubleTrap le k a b c).govs = s.govs := by simp only [State.doubleTrap]; split <;> rfl
@[simp] theorem State.doubleTrap_spdm (le k : Nat) (a b c : Word) (s : State) : (s.doubleTrap le k a b c).spdm = s.spdm := by simp only [State.doubleTrap]; split <;> rfl
@[simp] theorem State.doubleTrap_hostLog (le k : Nat) (a b c : Word) (s : State) : (s.doubleTrap le k a b c).hostLog = s.hostLog := by simp only [State.doubleTrap]; split <;> rfl
@[simp] theorem State.doubleTrap_nextId (le k : Nat) (a b c : Word) (s : State) : (s.doubleTrap le k a b c).nextId = s.nextId := by simp only [State.doubleTrap]; split <;> rfl
@[simp] theorem State.doubleTrap_agenda (le k : Nat) (a b c : Word) (s : State) : (s.doubleTrap le k a b c).agenda = s.agenda := by simp only [State.doubleTrap]; split <;> rfl
@[simp] theorem State.doubleTrap_cur (le k : Nat) (a b c : Word) (s : State) : (s.doubleTrap le k a b c).cur = s.cur := by simp only [State.doubleTrap]; split <;> rfl
@[simp] theorem State.doubleTrap_free (le k : Nat) (a b c : Word) (s : State) : (s.doubleTrap le k a b c).free = s.free := by simp only [State.doubleTrap]; split <;> rfl
@[simp] theorem State.doubleTrap_choices (le k : Nat) (a b c : Word) (s : State) : (s.doubleTrap le k a b c).choices = s.choices := by simp only [State.doubleTrap]; split <;> rfl

@[simp] theorem State.newId_power (s : State) : (s.newId).2.power = s.power := rfl
@[simp] theorem State.newId_resets (s : State) : (s.newId).2.resets = s.resets := rfl
@[simp] theorem State.newId_period (s : State) : (s.newId).2.period = s.period := rfl
@[simp] theorem State.newId_bringUp (s : State) : (s.newId).2.bringUp = s.bringUp := rfl
@[simp] theorem State.newId_fwOk (s : State) : (s.newId).2.fwOk = s.fwOk := rfl
@[simp] theorem State.newId_tick (s : State) : (s.newId).2.tick = s.tick := rfl
@[simp] theorem State.newId_mem (s : State) : (s.newId).2.mem = s.mem := rfl
@[simp] theorem State.newId_vers (s : State) : (s.newId).2.vers = s.vers := rfl
@[simp] theorem State.newId_poison (s : State) : (s.newId).2.poison = s.poison := rfl
@[simp] theorem State.newId_latent (s : State) : (s.newId).2.latent = s.latent := rfl
@[simp] theorem State.newId_corrected (s : State) : (s.newId).2.corrected = s.corrected := rfl
@[simp] theorem State.newId_ctx (s : State) : (s.newId).2.ctx = s.ctx := rfl
@[simp] theorem State.newId_saved (s : State) : (s.newId).2.saved = s.saved := rfl
@[simp] theorem State.newId_tiles (s : State) : (s.newId).2.tiles = s.tiles := rfl
@[simp] theorem State.newId_quads (s : State) : (s.newId).2.quads = s.quads := rfl
@[simp] theorem State.newId_cars (s : State) : (s.newId).2.cars = s.cars := rfl
@[simp] theorem State.newId_planeLast (s : State) : (s.newId).2.planeLast = s.planeLast := rfl
@[simp] theorem State.newId_planeUntil (s : State) : (s.newId).2.planeUntil = s.planeUntil := rfl
@[simp] theorem State.newId_windows (s : State) : (s.newId).2.windows = s.windows := rfl
@[simp] theorem State.newId_slips (s : State) : (s.newId).2.slips = s.slips := rfl
@[simp] theorem State.newId_govs (s : State) : (s.newId).2.govs = s.govs := rfl
@[simp] theorem State.newId_mailbox (s : State) : (s.newId).2.mailbox = s.mailbox := rfl
@[simp] theorem State.newId_spdm (s : State) : (s.newId).2.spdm = s.spdm := rfl
@[simp] theorem State.newId_hostLog (s : State) : (s.newId).2.hostLog = s.hostLog := rfl
@[simp] theorem State.newId_agenda (s : State) : (s.newId).2.agenda = s.agenda := rfl
@[simp] theorem State.newId_cur (s : State) : (s.newId).2.cur = s.cur := rfl
@[simp] theorem State.newId_free (s : State) : (s.newId).2.free = s.free := rfl
@[simp] theorem State.newId_choices (s : State) : (s.newId).2.choices = s.choices := rfl
@[simp] theorem State.newId_nextId (s : State) : (s.newId).2.nextId = s.nextId + 1 := rfl
@[simp] theorem State.newId_fst (s : State) : (s.newId).1 = s.nextId := rfl

@[simp] theorem State.freshFree_power (s : State) : (s.freshFree).2.power = s.power := rfl
@[simp] theorem State.freshFree_resets (s : State) : (s.freshFree).2.resets = s.resets := rfl
@[simp] theorem State.freshFree_period (s : State) : (s.freshFree).2.period = s.period := rfl
@[simp] theorem State.freshFree_bringUp (s : State) : (s.freshFree).2.bringUp = s.bringUp := rfl
@[simp] theorem State.freshFree_fwOk (s : State) : (s.freshFree).2.fwOk = s.fwOk := rfl
@[simp] theorem State.freshFree_tick (s : State) : (s.freshFree).2.tick = s.tick := rfl
@[simp] theorem State.freshFree_mem (s : State) : (s.freshFree).2.mem = s.mem := rfl
@[simp] theorem State.freshFree_vers (s : State) : (s.freshFree).2.vers = s.vers := rfl
@[simp] theorem State.freshFree_poison (s : State) : (s.freshFree).2.poison = s.poison := rfl
@[simp] theorem State.freshFree_latent (s : State) : (s.freshFree).2.latent = s.latent := rfl
@[simp] theorem State.freshFree_corrected (s : State) : (s.freshFree).2.corrected = s.corrected := rfl
@[simp] theorem State.freshFree_ctx (s : State) : (s.freshFree).2.ctx = s.ctx := rfl
@[simp] theorem State.freshFree_saved (s : State) : (s.freshFree).2.saved = s.saved := rfl
@[simp] theorem State.freshFree_tiles (s : State) : (s.freshFree).2.tiles = s.tiles := rfl
@[simp] theorem State.freshFree_quads (s : State) : (s.freshFree).2.quads = s.quads := rfl
@[simp] theorem State.freshFree_cars (s : State) : (s.freshFree).2.cars = s.cars := rfl
@[simp] theorem State.freshFree_planeLast (s : State) : (s.freshFree).2.planeLast = s.planeLast := rfl
@[simp] theorem State.freshFree_planeUntil (s : State) : (s.freshFree).2.planeUntil = s.planeUntil := rfl
@[simp] theorem State.freshFree_windows (s : State) : (s.freshFree).2.windows = s.windows := rfl
@[simp] theorem State.freshFree_slips (s : State) : (s.freshFree).2.slips = s.slips := rfl
@[simp] theorem State.freshFree_govs (s : State) : (s.freshFree).2.govs = s.govs := rfl
@[simp] theorem State.freshFree_mailbox (s : State) : (s.freshFree).2.mailbox = s.mailbox := rfl
@[simp] theorem State.freshFree_spdm (s : State) : (s.freshFree).2.spdm = s.spdm := rfl
@[simp] theorem State.freshFree_hostLog (s : State) : (s.freshFree).2.hostLog = s.hostLog := rfl
@[simp] theorem State.freshFree_nextId (s : State) : (s.freshFree).2.nextId = s.nextId := rfl
@[simp] theorem State.freshFree_agenda (s : State) : (s.freshFree).2.agenda = s.agenda := rfl
@[simp] theorem State.freshFree_cur (s : State) : (s.freshFree).2.cur = s.cur := rfl
@[simp] theorem State.freshFree_choices (s : State) : (s.freshFree).2.choices = s.choices := rfl
@[simp] theorem State.freshFree_free (s : State) : (s.freshFree).2.free = s.free + 1 := rfl
@[simp] theorem State.freshFree_fst (s : State) : (s.freshFree).1 = s.free := rfl

/-! ### Fields of the context -/

@[simp] theorem State.setEl_ctx_present (le : Nat) (e : Element) (s : State) : (s.setEl le e).ctx.present = s.ctx.present := rfl
@[simp] theorem State.setEl_ctx_ctxid (le : Nat) (e : Element) (s : State) : (s.setEl le e).ctx.ctxid = s.ctx.ctxid := rfl
@[simp] theorem State.setEl_ctx_asid (le : Nat) (e : Element) (s : State) : (s.setEl le e).ctx.asid = s.ctx.asid := rfl
@[simp] theorem State.setEl_ctx_root (le : Nat) (e : Element) (s : State) : (s.setEl le e).ctx.root = s.ctx.root := rfl
@[simp] theorem State.setEl_ctx_ttab (le : Nat) (e : Element) (s : State) : (s.setEl le e).ctx.ttab = s.ctx.ttab := rfl
@[simp] theorem State.setEl_ctx_gtab (le : Nat) (e : Element) (s : State) : (s.setEl le e).ctx.gtab = s.ctx.gtab := rfl
@[simp] theorem State.setEl_ctx_groupsBad (le : Nat) (e : Element) (s : State) : (s.setEl le e).ctx.groupsBad = s.ctx.groupsBad := rfl
@[simp] theorem State.setEl_ctx_trapEntry (le : Nat) (e : Element) (s : State) : (s.setEl le e).ctx.trapEntry = s.ctx.trapEntry := rfl
@[simp] theorem State.setEl_ctx_ownEntry (le : Nat) (e : Element) (s : State) : (s.setEl le e).ctx.ownEntry = s.ctx.ownEntry := rfl
@[simp] theorem State.setEl_ctx_maint (le : Nat) (e : Element) (s : State) : (s.setEl le e).ctx.maint = s.ctx.maint := rfl
@[simp] theorem State.setEl_ctx_jobseed (le : Nat) (e : Element) (s : State) : (s.setEl le e).ctx.jobseed = s.ctx.jobseed := rfl
@[simp] theorem State.setEl_ctx_ringBase (le : Nat) (e : Element) (s : State) : (s.setEl le e).ctx.ringBase = s.ctx.ringBase := rfl
@[simp] theorem State.setEl_ctx_epoch (le : Nat) (e : Element) (s : State) : (s.setEl le e).ctx.epoch = s.ctx.epoch := rfl
@[simp] theorem State.setEl_ctx_tracked (le : Nat) (e : Element) (s : State) : (s.setEl le e).ctx.tracked = s.ctx.tracked := rfl
@[simp] theorem State.setEl_ctx_trust (le : Nat) (e : Element) (s : State) : (s.setEl le e).ctx.trust = s.ctx.trust := rfl
@[simp] theorem State.setEl_ctx_tiles (le : Nat) (e : Element) (s : State) : (s.setEl le e).ctx.tiles = s.ctx.tiles := rfl
@[simp] theorem State.setEl_ctx_narrow (le : Nat) (e : Element) (s : State) : (s.setEl le e).ctx.narrow = s.ctx.narrow := rfl
@[simp] theorem State.setEl_ctx_moved (le : Nat) (e : Element) (s : State) : (s.setEl le e).ctx.moved = s.ctx.moved := rfl
@[simp] theorem State.setEl_ctx_masks (le : Nat) (e : Element) (s : State) : (s.setEl le e).ctx.masks = s.ctx.masks := rfl
@[simp] theorem State.setEl_ctx_groups (le : Nat) (e : Element) (s : State) : (s.setEl le e).ctx.groups = s.ctx.groups := rfl
@[simp] theorem State.setEl_ctx_launches (le : Nat) (e : Element) (s : State) : (s.setEl le e).ctx.launches = s.ctx.launches := rfl
@[simp] theorem State.setEl_ctx_flights (le : Nat) (e : Element) (s : State) : (s.setEl le e).ctx.flights = s.ctx.flights := rfl
@[simp] theorem State.setEl_ctx_shares (le : Nat) (e : Element) (s : State) : (s.setEl le e).ctx.shares = s.ctx.shares := rfl
@[simp] theorem State.setEl_ctx_nextShares (le : Nat) (e : Element) (s : State) : (s.setEl le e).ctx.nextShares = s.ctx.nextShares := rfl
@[simp] theorem State.setEl_ctx_borrowed (le : Nat) (e : Element) (s : State) : (s.setEl le e).ctx.borrowed = s.ctx.borrowed := rfl
@[simp] theorem State.setEl_ctx_calm (le : Nat) (e : Element) (s : State) : (s.setEl le e).ctx.calm = s.ctx.calm := rfl
@[simp] theorem State.setEl_ctx_stopped (le : Nat) (e : Element) (s : State) : (s.setEl le e).ctx.stopped = s.ctx.stopped := rfl
@[simp] theorem State.setEl_ctx_halted (le : Nat) (e : Element) (s : State) : (s.setEl le e).ctx.halted = s.ctx.halted := rfl
@[simp] theorem State.setEl_ctx_halting (le : Nat) (e : Element) (s : State) : (s.setEl le e).ctx.halting = s.ctx.halting := rfl
@[simp] theorem State.setEl_ctx_unspec (le : Nat) (e : Element) (s : State) : (s.setEl le e).ctx.unspec = s.ctx.unspec := rfl

@[simp] theorem State.updEl_ctx_present (le : Nat) (f : Element → Element) (s : State) : (s.updEl le f).ctx.present = s.ctx.present := rfl
@[simp] theorem State.updEl_ctx_ctxid (le : Nat) (f : Element → Element) (s : State) : (s.updEl le f).ctx.ctxid = s.ctx.ctxid := rfl
@[simp] theorem State.updEl_ctx_asid (le : Nat) (f : Element → Element) (s : State) : (s.updEl le f).ctx.asid = s.ctx.asid := rfl
@[simp] theorem State.updEl_ctx_root (le : Nat) (f : Element → Element) (s : State) : (s.updEl le f).ctx.root = s.ctx.root := rfl
@[simp] theorem State.updEl_ctx_ttab (le : Nat) (f : Element → Element) (s : State) : (s.updEl le f).ctx.ttab = s.ctx.ttab := rfl
@[simp] theorem State.updEl_ctx_gtab (le : Nat) (f : Element → Element) (s : State) : (s.updEl le f).ctx.gtab = s.ctx.gtab := rfl
@[simp] theorem State.updEl_ctx_groupsBad (le : Nat) (f : Element → Element) (s : State) : (s.updEl le f).ctx.groupsBad = s.ctx.groupsBad := rfl
@[simp] theorem State.updEl_ctx_trapEntry (le : Nat) (f : Element → Element) (s : State) : (s.updEl le f).ctx.trapEntry = s.ctx.trapEntry := rfl
@[simp] theorem State.updEl_ctx_ownEntry (le : Nat) (f : Element → Element) (s : State) : (s.updEl le f).ctx.ownEntry = s.ctx.ownEntry := rfl
@[simp] theorem State.updEl_ctx_maint (le : Nat) (f : Element → Element) (s : State) : (s.updEl le f).ctx.maint = s.ctx.maint := rfl
@[simp] theorem State.updEl_ctx_jobseed (le : Nat) (f : Element → Element) (s : State) : (s.updEl le f).ctx.jobseed = s.ctx.jobseed := rfl
@[simp] theorem State.updEl_ctx_ringBase (le : Nat) (f : Element → Element) (s : State) : (s.updEl le f).ctx.ringBase = s.ctx.ringBase := rfl
@[simp] theorem State.updEl_ctx_epoch (le : Nat) (f : Element → Element) (s : State) : (s.updEl le f).ctx.epoch = s.ctx.epoch := rfl
@[simp] theorem State.updEl_ctx_tracked (le : Nat) (f : Element → Element) (s : State) : (s.updEl le f).ctx.tracked = s.ctx.tracked := rfl
@[simp] theorem State.updEl_ctx_trust (le : Nat) (f : Element → Element) (s : State) : (s.updEl le f).ctx.trust = s.ctx.trust := rfl
@[simp] theorem State.updEl_ctx_tiles (le : Nat) (f : Element → Element) (s : State) : (s.updEl le f).ctx.tiles = s.ctx.tiles := rfl
@[simp] theorem State.updEl_ctx_narrow (le : Nat) (f : Element → Element) (s : State) : (s.updEl le f).ctx.narrow = s.ctx.narrow := rfl
@[simp] theorem State.updEl_ctx_moved (le : Nat) (f : Element → Element) (s : State) : (s.updEl le f).ctx.moved = s.ctx.moved := rfl
@[simp] theorem State.updEl_ctx_masks (le : Nat) (f : Element → Element) (s : State) : (s.updEl le f).ctx.masks = s.ctx.masks := rfl
@[simp] theorem State.updEl_ctx_groups (le : Nat) (f : Element → Element) (s : State) : (s.updEl le f).ctx.groups = s.ctx.groups := rfl
@[simp] theorem State.updEl_ctx_launches (le : Nat) (f : Element → Element) (s : State) : (s.updEl le f).ctx.launches = s.ctx.launches := rfl
@[simp] theorem State.updEl_ctx_flights (le : Nat) (f : Element → Element) (s : State) : (s.updEl le f).ctx.flights = s.ctx.flights := rfl
@[simp] theorem State.updEl_ctx_shares (le : Nat) (f : Element → Element) (s : State) : (s.updEl le f).ctx.shares = s.ctx.shares := rfl
@[simp] theorem State.updEl_ctx_nextShares (le : Nat) (f : Element → Element) (s : State) : (s.updEl le f).ctx.nextShares = s.ctx.nextShares := rfl
@[simp] theorem State.updEl_ctx_borrowed (le : Nat) (f : Element → Element) (s : State) : (s.updEl le f).ctx.borrowed = s.ctx.borrowed := rfl
@[simp] theorem State.updEl_ctx_calm (le : Nat) (f : Element → Element) (s : State) : (s.updEl le f).ctx.calm = s.ctx.calm := rfl
@[simp] theorem State.updEl_ctx_stopped (le : Nat) (f : Element → Element) (s : State) : (s.updEl le f).ctx.stopped = s.ctx.stopped := rfl
@[simp] theorem State.updEl_ctx_halted (le : Nat) (f : Element → Element) (s : State) : (s.updEl le f).ctx.halted = s.ctx.halted := rfl
@[simp] theorem State.updEl_ctx_halting (le : Nat) (f : Element → Element) (s : State) : (s.updEl le f).ctx.halting = s.ctx.halting := rfl
@[simp] theorem State.updEl_ctx_unspec (le : Nat) (f : Element → Element) (s : State) : (s.updEl le f).ctx.unspec = s.ctx.unspec := rfl

@[simp] theorem State.updThOf_ctx_present (le k : Nat) (f : ThreadSet → ThreadSet) (s : State) : (s.updThOf le k f).ctx.present = s.ctx.present := rfl
@[simp] theorem State.updThOf_ctx_ctxid (le k : Nat) (f : ThreadSet → ThreadSet) (s : State) : (s.updThOf le k f).ctx.ctxid = s.ctx.ctxid := rfl
@[simp] theorem State.updThOf_ctx_asid (le k : Nat) (f : ThreadSet → ThreadSet) (s : State) : (s.updThOf le k f).ctx.asid = s.ctx.asid := rfl
@[simp] theorem State.updThOf_ctx_root (le k : Nat) (f : ThreadSet → ThreadSet) (s : State) : (s.updThOf le k f).ctx.root = s.ctx.root := rfl
@[simp] theorem State.updThOf_ctx_ttab (le k : Nat) (f : ThreadSet → ThreadSet) (s : State) : (s.updThOf le k f).ctx.ttab = s.ctx.ttab := rfl
@[simp] theorem State.updThOf_ctx_gtab (le k : Nat) (f : ThreadSet → ThreadSet) (s : State) : (s.updThOf le k f).ctx.gtab = s.ctx.gtab := rfl
@[simp] theorem State.updThOf_ctx_groupsBad (le k : Nat) (f : ThreadSet → ThreadSet) (s : State) : (s.updThOf le k f).ctx.groupsBad = s.ctx.groupsBad := rfl
@[simp] theorem State.updThOf_ctx_trapEntry (le k : Nat) (f : ThreadSet → ThreadSet) (s : State) : (s.updThOf le k f).ctx.trapEntry = s.ctx.trapEntry := rfl
@[simp] theorem State.updThOf_ctx_ownEntry (le k : Nat) (f : ThreadSet → ThreadSet) (s : State) : (s.updThOf le k f).ctx.ownEntry = s.ctx.ownEntry := rfl
@[simp] theorem State.updThOf_ctx_maint (le k : Nat) (f : ThreadSet → ThreadSet) (s : State) : (s.updThOf le k f).ctx.maint = s.ctx.maint := rfl
@[simp] theorem State.updThOf_ctx_jobseed (le k : Nat) (f : ThreadSet → ThreadSet) (s : State) : (s.updThOf le k f).ctx.jobseed = s.ctx.jobseed := rfl
@[simp] theorem State.updThOf_ctx_ringBase (le k : Nat) (f : ThreadSet → ThreadSet) (s : State) : (s.updThOf le k f).ctx.ringBase = s.ctx.ringBase := rfl
@[simp] theorem State.updThOf_ctx_epoch (le k : Nat) (f : ThreadSet → ThreadSet) (s : State) : (s.updThOf le k f).ctx.epoch = s.ctx.epoch := rfl
@[simp] theorem State.updThOf_ctx_tracked (le k : Nat) (f : ThreadSet → ThreadSet) (s : State) : (s.updThOf le k f).ctx.tracked = s.ctx.tracked := rfl
@[simp] theorem State.updThOf_ctx_trust (le k : Nat) (f : ThreadSet → ThreadSet) (s : State) : (s.updThOf le k f).ctx.trust = s.ctx.trust := rfl
@[simp] theorem State.updThOf_ctx_tiles (le k : Nat) (f : ThreadSet → ThreadSet) (s : State) : (s.updThOf le k f).ctx.tiles = s.ctx.tiles := rfl
@[simp] theorem State.updThOf_ctx_narrow (le k : Nat) (f : ThreadSet → ThreadSet) (s : State) : (s.updThOf le k f).ctx.narrow = s.ctx.narrow := rfl
@[simp] theorem State.updThOf_ctx_moved (le k : Nat) (f : ThreadSet → ThreadSet) (s : State) : (s.updThOf le k f).ctx.moved = s.ctx.moved := rfl
@[simp] theorem State.updThOf_ctx_masks (le k : Nat) (f : ThreadSet → ThreadSet) (s : State) : (s.updThOf le k f).ctx.masks = s.ctx.masks := rfl
@[simp] theorem State.updThOf_ctx_groups (le k : Nat) (f : ThreadSet → ThreadSet) (s : State) : (s.updThOf le k f).ctx.groups = s.ctx.groups := rfl
@[simp] theorem State.updThOf_ctx_launches (le k : Nat) (f : ThreadSet → ThreadSet) (s : State) : (s.updThOf le k f).ctx.launches = s.ctx.launches := rfl
@[simp] theorem State.updThOf_ctx_flights (le k : Nat) (f : ThreadSet → ThreadSet) (s : State) : (s.updThOf le k f).ctx.flights = s.ctx.flights := rfl
@[simp] theorem State.updThOf_ctx_shares (le k : Nat) (f : ThreadSet → ThreadSet) (s : State) : (s.updThOf le k f).ctx.shares = s.ctx.shares := rfl
@[simp] theorem State.updThOf_ctx_nextShares (le k : Nat) (f : ThreadSet → ThreadSet) (s : State) : (s.updThOf le k f).ctx.nextShares = s.ctx.nextShares := rfl
@[simp] theorem State.updThOf_ctx_borrowed (le k : Nat) (f : ThreadSet → ThreadSet) (s : State) : (s.updThOf le k f).ctx.borrowed = s.ctx.borrowed := rfl
@[simp] theorem State.updThOf_ctx_calm (le k : Nat) (f : ThreadSet → ThreadSet) (s : State) : (s.updThOf le k f).ctx.calm = s.ctx.calm := rfl
@[simp] theorem State.updThOf_ctx_stopped (le k : Nat) (f : ThreadSet → ThreadSet) (s : State) : (s.updThOf le k f).ctx.stopped = s.ctx.stopped := rfl
@[simp] theorem State.updThOf_ctx_halted (le k : Nat) (f : ThreadSet → ThreadSet) (s : State) : (s.updThOf le k f).ctx.halted = s.ctx.halted := rfl
@[simp] theorem State.updThOf_ctx_halting (le k : Nat) (f : ThreadSet → ThreadSet) (s : State) : (s.updThOf le k f).ctx.halting = s.ctx.halting := rfl
@[simp] theorem State.updThOf_ctx_unspec (le k : Nat) (f : ThreadSet → ThreadSet) (s : State) : (s.updThOf le k f).ctx.unspec = s.ctx.unspec := rfl

@[simp] theorem State.updTh_ctx_present (f : ThreadSet → ThreadSet) (s : State) : (s.updTh f).ctx.present = s.ctx.present := rfl
@[simp] theorem State.updTh_ctx_ctxid (f : ThreadSet → ThreadSet) (s : State) : (s.updTh f).ctx.ctxid = s.ctx.ctxid := rfl
@[simp] theorem State.updTh_ctx_asid (f : ThreadSet → ThreadSet) (s : State) : (s.updTh f).ctx.asid = s.ctx.asid := rfl
@[simp] theorem State.updTh_ctx_root (f : ThreadSet → ThreadSet) (s : State) : (s.updTh f).ctx.root = s.ctx.root := rfl
@[simp] theorem State.updTh_ctx_ttab (f : ThreadSet → ThreadSet) (s : State) : (s.updTh f).ctx.ttab = s.ctx.ttab := rfl
@[simp] theorem State.updTh_ctx_gtab (f : ThreadSet → ThreadSet) (s : State) : (s.updTh f).ctx.gtab = s.ctx.gtab := rfl
@[simp] theorem State.updTh_ctx_groupsBad (f : ThreadSet → ThreadSet) (s : State) : (s.updTh f).ctx.groupsBad = s.ctx.groupsBad := rfl
@[simp] theorem State.updTh_ctx_trapEntry (f : ThreadSet → ThreadSet) (s : State) : (s.updTh f).ctx.trapEntry = s.ctx.trapEntry := rfl
@[simp] theorem State.updTh_ctx_ownEntry (f : ThreadSet → ThreadSet) (s : State) : (s.updTh f).ctx.ownEntry = s.ctx.ownEntry := rfl
@[simp] theorem State.updTh_ctx_maint (f : ThreadSet → ThreadSet) (s : State) : (s.updTh f).ctx.maint = s.ctx.maint := rfl
@[simp] theorem State.updTh_ctx_jobseed (f : ThreadSet → ThreadSet) (s : State) : (s.updTh f).ctx.jobseed = s.ctx.jobseed := rfl
@[simp] theorem State.updTh_ctx_ringBase (f : ThreadSet → ThreadSet) (s : State) : (s.updTh f).ctx.ringBase = s.ctx.ringBase := rfl
@[simp] theorem State.updTh_ctx_epoch (f : ThreadSet → ThreadSet) (s : State) : (s.updTh f).ctx.epoch = s.ctx.epoch := rfl
@[simp] theorem State.updTh_ctx_tracked (f : ThreadSet → ThreadSet) (s : State) : (s.updTh f).ctx.tracked = s.ctx.tracked := rfl
@[simp] theorem State.updTh_ctx_trust (f : ThreadSet → ThreadSet) (s : State) : (s.updTh f).ctx.trust = s.ctx.trust := rfl
@[simp] theorem State.updTh_ctx_tiles (f : ThreadSet → ThreadSet) (s : State) : (s.updTh f).ctx.tiles = s.ctx.tiles := rfl
@[simp] theorem State.updTh_ctx_narrow (f : ThreadSet → ThreadSet) (s : State) : (s.updTh f).ctx.narrow = s.ctx.narrow := rfl
@[simp] theorem State.updTh_ctx_moved (f : ThreadSet → ThreadSet) (s : State) : (s.updTh f).ctx.moved = s.ctx.moved := rfl
@[simp] theorem State.updTh_ctx_masks (f : ThreadSet → ThreadSet) (s : State) : (s.updTh f).ctx.masks = s.ctx.masks := rfl
@[simp] theorem State.updTh_ctx_groups (f : ThreadSet → ThreadSet) (s : State) : (s.updTh f).ctx.groups = s.ctx.groups := rfl
@[simp] theorem State.updTh_ctx_launches (f : ThreadSet → ThreadSet) (s : State) : (s.updTh f).ctx.launches = s.ctx.launches := rfl
@[simp] theorem State.updTh_ctx_flights (f : ThreadSet → ThreadSet) (s : State) : (s.updTh f).ctx.flights = s.ctx.flights := rfl
@[simp] theorem State.updTh_ctx_shares (f : ThreadSet → ThreadSet) (s : State) : (s.updTh f).ctx.shares = s.ctx.shares := rfl
@[simp] theorem State.updTh_ctx_nextShares (f : ThreadSet → ThreadSet) (s : State) : (s.updTh f).ctx.nextShares = s.ctx.nextShares := rfl
@[simp] theorem State.updTh_ctx_borrowed (f : ThreadSet → ThreadSet) (s : State) : (s.updTh f).ctx.borrowed = s.ctx.borrowed := rfl
@[simp] theorem State.updTh_ctx_calm (f : ThreadSet → ThreadSet) (s : State) : (s.updTh f).ctx.calm = s.ctx.calm := rfl
@[simp] theorem State.updTh_ctx_stopped (f : ThreadSet → ThreadSet) (s : State) : (s.updTh f).ctx.stopped = s.ctx.stopped := rfl
@[simp] theorem State.updTh_ctx_halted (f : ThreadSet → ThreadSet) (s : State) : (s.updTh f).ctx.halted = s.ctx.halted := rfl
@[simp] theorem State.updTh_ctx_halting (f : ThreadSet → ThreadSet) (s : State) : (s.updTh f).ctx.halting = s.ctx.halting := rfl
@[simp] theorem State.updTh_ctx_unspec (f : ThreadSet → ThreadSet) (s : State) : (s.updTh f).ctx.unspec = s.ctx.unspec := rfl

/-! ### Fields of a thread set -/

@[simp] theorem ThreadSet.logWrite_g (key : Bool × RegKey) (t : ThreadSet) : (t.logWrite key).g = t.g := rfl
@[simp] theorem ThreadSet.logWrite_sg (key : Bool × RegKey) (t : ThreadSet) : (t.logWrite key).sg = t.sg := rfl
@[simp] theorem ThreadSet.logWrite_f (key : Bool × RegKey) (t : ThreadSet) : (t.logWrite key).f = t.f := rfl
@[simp] theorem ThreadSet.logWrite_v (key : Bool × RegKey) (t : ThreadSet) : (t.logWrite key).v = t.v := rfl
@[simp] theorem ThreadSet.logWrite_fcsr (key : Bool × RegKey) (t : ThreadSet) : (t.logWrite key).fcsr = t.fcsr := rfl
@[simp] theorem ThreadSet.logWrite_sigctl (key : Bool × RegKey) (t : ThreadSet) : (t.logWrite key).sigctl = t.sigctl := rfl
@[simp] theorem ThreadSet.logWrite_scnt (key : Bool × RegKey) (t : ThreadSet) : (t.logWrite key).scnt = t.scnt := rfl
@[simp] theorem ThreadSet.logWrite_scap (key : Bool × RegKey) (t : ThreadSet) : (t.logWrite key).scap = t.scap := rfl
@[simp] theorem ThreadSet.logWrite_sbase (key : Bool × RegKey) (t : ThreadSet) : (t.logWrite key).sbase = t.sbase := rfl
@[simp] theorem ThreadSet.logWrite_stack (key : Bool × RegKey) (t : ThreadSet) : (t.logWrite key).stack = t.stack := rfl
@[simp] theorem ThreadSet.logWrite_tcause (key : Bool × RegKey) (t : ThreadSet) : (t.logWrite key).tcause = t.tcause := rfl
@[simp] theorem ThreadSet.logWrite_tepc (key : Bool × RegKey) (t : ThreadSet) : (t.logWrite key).tepc = t.tepc := rfl
@[simp] theorem ThreadSet.logWrite_tval (key : Bool × RegKey) (t : ThreadSet) : (t.logWrite key).tval = t.tval := rfl
@[simp] theorem ThreadSet.logWrite_tmsg (key : Bool × RegKey) (t : ThreadSet) : (t.logWrite key).tmsg = t.tmsg := rfl
@[simp] theorem ThreadSet.logWrite_tstat (key : Bool × RegKey) (t : ThreadSet) : (t.logWrite key).tstat = t.tstat := rfl
@[simp] theorem ThreadSet.logWrite_pc (key : Bool × RegKey) (t : ThreadSet) : (t.logWrite key).pc = t.pc := rfl
@[simp] theorem ThreadSet.logWrite_callctr (key : Bool × RegKey) (t : ThreadSet) : (t.logWrite key).callctr = t.callctr := rfl
@[simp] theorem ThreadSet.logWrite_sndctr (key : Bool × RegKey) (t : ThreadSet) : (t.logWrite key).sndctr = t.sndctr := rfl
@[simp] theorem ThreadSet.logWrite_sendBuf (key : Bool × RegKey) (t : ThreadSet) : (t.logWrite key).sendBuf = t.sendBuf := rfl
@[simp] theorem ThreadSet.logWrite_pend (key : Bool × RegKey) (t : ThreadSet) : (t.logWrite key).pend = t.pend := rfl
@[simp] theorem ThreadSet.logWrite_run (key : Bool × RegKey) (t : ThreadSet) : (t.logWrite key).run = t.run := rfl
@[simp] theorem ThreadSet.logWrite_act (key : Bool × RegKey) (t : ThreadSet) : (t.logWrite key).act = t.act := rfl
@[simp] theorem ThreadSet.logWrite_susp (key : Bool × RegKey) (t : ThreadSet) : (t.logWrite key).susp = t.susp := rfl
@[simp] theorem ThreadSet.logWrite_frame (key : Bool × RegKey) (t : ThreadSet) : (t.logWrite key).frame = t.frame := rfl
@[simp] theorem ThreadSet.logWrite_pending (key : Bool × RegKey) (t : ThreadSet) : (t.logWrite key).pending = t.pending := rfl
@[simp] theorem ThreadSet.logWrite_barTok (key : Bool × RegKey) (t : ThreadSet) : (t.logWrite key).barTok = t.barTok := rfl
@[simp] theorem ThreadSet.logWrite_fences (key : Bool × RegKey) (t : ThreadSet) : (t.logWrite key).fences = t.fences := rfl
@[simp] theorem ThreadSet.logWrite_ending (key : Bool × RegKey) (t : ThreadSet) : (t.logWrite key).ending = t.ending := rfl
@[simp] theorem ThreadSet.logWrite_yielded (key : Bool × RegKey) (t : ThreadSet) : (t.logWrite key).yielded = t.yielded := rfl
@[simp] theorem ThreadSet.logWrite_waiting (key : Bool × RegKey) (t : ThreadSet) : (t.logWrite key).waiting = t.waiting := rfl
@[simp] theorem ThreadSet.logWrite_waited (key : Bool × RegKey) (t : ThreadSet) : (t.logWrite key).waited = t.waited := rfl
@[simp] theorem ThreadSet.logWrite_blocked (key : Bool × RegKey) (t : ThreadSet) : (t.logWrite key).blocked = t.blocked := rfl
@[simp] theorem ThreadSet.logWrite_migrated (key : Bool × RegKey) (t : ThreadSet) : (t.logWrite key).migrated = t.migrated := rfl
@[simp] theorem ThreadSet.logWrite_bubble (key : Bool × RegKey) (t : ThreadSet) : (t.logWrite key).bubble = t.bubble := rfl

@[simp] theorem ThreadSet.wf_g (n : RegNo) (x : FReg) (t : ThreadSet) : (t.wf n x).g = t.g := rfl
@[simp] theorem ThreadSet.wf_sg (n : RegNo) (x : FReg) (t : ThreadSet) : (t.wf n x).sg = t.sg := rfl
@[simp] theorem ThreadSet.wf_v (n : RegNo) (x : FReg) (t : ThreadSet) : (t.wf n x).v = t.v := rfl
@[simp] theorem ThreadSet.wf_fcsr (n : RegNo) (x : FReg) (t : ThreadSet) : (t.wf n x).fcsr = t.fcsr := rfl
@[simp] theorem ThreadSet.wf_sigctl (n : RegNo) (x : FReg) (t : ThreadSet) : (t.wf n x).sigctl = t.sigctl := rfl
@[simp] theorem ThreadSet.wf_scnt (n : RegNo) (x : FReg) (t : ThreadSet) : (t.wf n x).scnt = t.scnt := rfl
@[simp] theorem ThreadSet.wf_scap (n : RegNo) (x : FReg) (t : ThreadSet) : (t.wf n x).scap = t.scap := rfl
@[simp] theorem ThreadSet.wf_sbase (n : RegNo) (x : FReg) (t : ThreadSet) : (t.wf n x).sbase = t.sbase := rfl
@[simp] theorem ThreadSet.wf_stack (n : RegNo) (x : FReg) (t : ThreadSet) : (t.wf n x).stack = t.stack := rfl
@[simp] theorem ThreadSet.wf_tcause (n : RegNo) (x : FReg) (t : ThreadSet) : (t.wf n x).tcause = t.tcause := rfl
@[simp] theorem ThreadSet.wf_tepc (n : RegNo) (x : FReg) (t : ThreadSet) : (t.wf n x).tepc = t.tepc := rfl
@[simp] theorem ThreadSet.wf_tval (n : RegNo) (x : FReg) (t : ThreadSet) : (t.wf n x).tval = t.tval := rfl
@[simp] theorem ThreadSet.wf_tmsg (n : RegNo) (x : FReg) (t : ThreadSet) : (t.wf n x).tmsg = t.tmsg := rfl
@[simp] theorem ThreadSet.wf_tstat (n : RegNo) (x : FReg) (t : ThreadSet) : (t.wf n x).tstat = t.tstat := rfl
@[simp] theorem ThreadSet.wf_pc (n : RegNo) (x : FReg) (t : ThreadSet) : (t.wf n x).pc = t.pc := rfl
@[simp] theorem ThreadSet.wf_callctr (n : RegNo) (x : FReg) (t : ThreadSet) : (t.wf n x).callctr = t.callctr := rfl
@[simp] theorem ThreadSet.wf_sndctr (n : RegNo) (x : FReg) (t : ThreadSet) : (t.wf n x).sndctr = t.sndctr := rfl
@[simp] theorem ThreadSet.wf_sendBuf (n : RegNo) (x : FReg) (t : ThreadSet) : (t.wf n x).sendBuf = t.sendBuf := rfl
@[simp] theorem ThreadSet.wf_pend (n : RegNo) (x : FReg) (t : ThreadSet) : (t.wf n x).pend = t.pend := rfl
@[simp] theorem ThreadSet.wf_run (n : RegNo) (x : FReg) (t : ThreadSet) : (t.wf n x).run = t.run := rfl
@[simp] theorem ThreadSet.wf_act (n : RegNo) (x : FReg) (t : ThreadSet) : (t.wf n x).act = t.act := rfl
@[simp] theorem ThreadSet.wf_susp (n : RegNo) (x : FReg) (t : ThreadSet) : (t.wf n x).susp = t.susp := rfl
@[simp] theorem ThreadSet.wf_frame (n : RegNo) (x : FReg) (t : ThreadSet) : (t.wf n x).frame = t.frame := rfl
@[simp] theorem ThreadSet.wf_pending (n : RegNo) (x : FReg) (t : ThreadSet) : (t.wf n x).pending = t.pending := rfl
@[simp] theorem ThreadSet.wf_barTok (n : RegNo) (x : FReg) (t : ThreadSet) : (t.wf n x).barTok = t.barTok := rfl
@[simp] theorem ThreadSet.wf_fences (n : RegNo) (x : FReg) (t : ThreadSet) : (t.wf n x).fences = t.fences := rfl
@[simp] theorem ThreadSet.wf_ending (n : RegNo) (x : FReg) (t : ThreadSet) : (t.wf n x).ending = t.ending := rfl
@[simp] theorem ThreadSet.wf_yielded (n : RegNo) (x : FReg) (t : ThreadSet) : (t.wf n x).yielded = t.yielded := rfl
@[simp] theorem ThreadSet.wf_waiting (n : RegNo) (x : FReg) (t : ThreadSet) : (t.wf n x).waiting = t.waiting := rfl
@[simp] theorem ThreadSet.wf_waited (n : RegNo) (x : FReg) (t : ThreadSet) : (t.wf n x).waited = t.waited := rfl
@[simp] theorem ThreadSet.wf_blocked (n : RegNo) (x : FReg) (t : ThreadSet) : (t.wf n x).blocked = t.blocked := rfl
@[simp] theorem ThreadSet.wf_migrated (n : RegNo) (x : FReg) (t : ThreadSet) : (t.wf n x).migrated = t.migrated := rfl
@[simp] theorem ThreadSet.wf_bubble (n : RegNo) (x : FReg) (t : ThreadSet) : (t.wf n x).bubble = t.bubble := rfl

@[simp] theorem ThreadSet.wv_g (n : RegNo) (x : VReg) (t : ThreadSet) : (t.wv n x).g = t.g := rfl
@[simp] theorem ThreadSet.wv_sg (n : RegNo) (x : VReg) (t : ThreadSet) : (t.wv n x).sg = t.sg := rfl
@[simp] theorem ThreadSet.wv_f (n : RegNo) (x : VReg) (t : ThreadSet) : (t.wv n x).f = t.f := rfl
@[simp] theorem ThreadSet.wv_fcsr (n : RegNo) (x : VReg) (t : ThreadSet) : (t.wv n x).fcsr = t.fcsr := rfl
@[simp] theorem ThreadSet.wv_sigctl (n : RegNo) (x : VReg) (t : ThreadSet) : (t.wv n x).sigctl = t.sigctl := rfl
@[simp] theorem ThreadSet.wv_scnt (n : RegNo) (x : VReg) (t : ThreadSet) : (t.wv n x).scnt = t.scnt := rfl
@[simp] theorem ThreadSet.wv_scap (n : RegNo) (x : VReg) (t : ThreadSet) : (t.wv n x).scap = t.scap := rfl
@[simp] theorem ThreadSet.wv_sbase (n : RegNo) (x : VReg) (t : ThreadSet) : (t.wv n x).sbase = t.sbase := rfl
@[simp] theorem ThreadSet.wv_stack (n : RegNo) (x : VReg) (t : ThreadSet) : (t.wv n x).stack = t.stack := rfl
@[simp] theorem ThreadSet.wv_tcause (n : RegNo) (x : VReg) (t : ThreadSet) : (t.wv n x).tcause = t.tcause := rfl
@[simp] theorem ThreadSet.wv_tepc (n : RegNo) (x : VReg) (t : ThreadSet) : (t.wv n x).tepc = t.tepc := rfl
@[simp] theorem ThreadSet.wv_tval (n : RegNo) (x : VReg) (t : ThreadSet) : (t.wv n x).tval = t.tval := rfl
@[simp] theorem ThreadSet.wv_tmsg (n : RegNo) (x : VReg) (t : ThreadSet) : (t.wv n x).tmsg = t.tmsg := rfl
@[simp] theorem ThreadSet.wv_tstat (n : RegNo) (x : VReg) (t : ThreadSet) : (t.wv n x).tstat = t.tstat := rfl
@[simp] theorem ThreadSet.wv_pc (n : RegNo) (x : VReg) (t : ThreadSet) : (t.wv n x).pc = t.pc := rfl
@[simp] theorem ThreadSet.wv_callctr (n : RegNo) (x : VReg) (t : ThreadSet) : (t.wv n x).callctr = t.callctr := rfl
@[simp] theorem ThreadSet.wv_sndctr (n : RegNo) (x : VReg) (t : ThreadSet) : (t.wv n x).sndctr = t.sndctr := rfl
@[simp] theorem ThreadSet.wv_sendBuf (n : RegNo) (x : VReg) (t : ThreadSet) : (t.wv n x).sendBuf = t.sendBuf := rfl
@[simp] theorem ThreadSet.wv_pend (n : RegNo) (x : VReg) (t : ThreadSet) : (t.wv n x).pend = t.pend := rfl
@[simp] theorem ThreadSet.wv_run (n : RegNo) (x : VReg) (t : ThreadSet) : (t.wv n x).run = t.run := rfl
@[simp] theorem ThreadSet.wv_act (n : RegNo) (x : VReg) (t : ThreadSet) : (t.wv n x).act = t.act := rfl
@[simp] theorem ThreadSet.wv_susp (n : RegNo) (x : VReg) (t : ThreadSet) : (t.wv n x).susp = t.susp := rfl
@[simp] theorem ThreadSet.wv_frame (n : RegNo) (x : VReg) (t : ThreadSet) : (t.wv n x).frame = t.frame := rfl
@[simp] theorem ThreadSet.wv_pending (n : RegNo) (x : VReg) (t : ThreadSet) : (t.wv n x).pending = t.pending := rfl
@[simp] theorem ThreadSet.wv_barTok (n : RegNo) (x : VReg) (t : ThreadSet) : (t.wv n x).barTok = t.barTok := rfl
@[simp] theorem ThreadSet.wv_fences (n : RegNo) (x : VReg) (t : ThreadSet) : (t.wv n x).fences = t.fences := rfl
@[simp] theorem ThreadSet.wv_ending (n : RegNo) (x : VReg) (t : ThreadSet) : (t.wv n x).ending = t.ending := rfl
@[simp] theorem ThreadSet.wv_yielded (n : RegNo) (x : VReg) (t : ThreadSet) : (t.wv n x).yielded = t.yielded := rfl
@[simp] theorem ThreadSet.wv_waiting (n : RegNo) (x : VReg) (t : ThreadSet) : (t.wv n x).waiting = t.waiting := rfl
@[simp] theorem ThreadSet.wv_waited (n : RegNo) (x : VReg) (t : ThreadSet) : (t.wv n x).waited = t.waited := rfl
@[simp] theorem ThreadSet.wv_blocked (n : RegNo) (x : VReg) (t : ThreadSet) : (t.wv n x).blocked = t.blocked := rfl
@[simp] theorem ThreadSet.wv_migrated (n : RegNo) (x : VReg) (t : ThreadSet) : (t.wv n x).migrated = t.migrated := rfl
@[simp] theorem ThreadSet.wv_bubble (n : RegNo) (x : VReg) (t : ThreadSet) : (t.wv n x).bubble = t.bubble := rfl

@[simp] theorem ThreadSet.saveTrap_g (cause : Nat) (tval : Word) (t : ThreadSet) : (t.saveTrap cause tval).g = t.g := rfl
@[simp] theorem ThreadSet.saveTrap_sg (cause : Nat) (tval : Word) (t : ThreadSet) : (t.saveTrap cause tval).sg = t.sg := rfl
@[simp] theorem ThreadSet.saveTrap_f (cause : Nat) (tval : Word) (t : ThreadSet) : (t.saveTrap cause tval).f = t.f := rfl
@[simp] theorem ThreadSet.saveTrap_v (cause : Nat) (tval : Word) (t : ThreadSet) : (t.saveTrap cause tval).v = t.v := rfl
@[simp] theorem ThreadSet.saveTrap_fcsr (cause : Nat) (tval : Word) (t : ThreadSet) : (t.saveTrap cause tval).fcsr = t.fcsr := rfl
@[simp] theorem ThreadSet.saveTrap_sigctl (cause : Nat) (tval : Word) (t : ThreadSet) : (t.saveTrap cause tval).sigctl = t.sigctl := rfl
@[simp] theorem ThreadSet.saveTrap_scnt (cause : Nat) (tval : Word) (t : ThreadSet) : (t.saveTrap cause tval).scnt = t.scnt := rfl
@[simp] theorem ThreadSet.saveTrap_scap (cause : Nat) (tval : Word) (t : ThreadSet) : (t.saveTrap cause tval).scap = t.scap := rfl
@[simp] theorem ThreadSet.saveTrap_sbase (cause : Nat) (tval : Word) (t : ThreadSet) : (t.saveTrap cause tval).sbase = t.sbase := rfl
@[simp] theorem ThreadSet.saveTrap_stack (cause : Nat) (tval : Word) (t : ThreadSet) : (t.saveTrap cause tval).stack = t.stack := rfl
@[simp] theorem ThreadSet.saveTrap_pc (cause : Nat) (tval : Word) (t : ThreadSet) : (t.saveTrap cause tval).pc = t.pc := rfl
@[simp] theorem ThreadSet.saveTrap_callctr (cause : Nat) (tval : Word) (t : ThreadSet) : (t.saveTrap cause tval).callctr = t.callctr := rfl
@[simp] theorem ThreadSet.saveTrap_sndctr (cause : Nat) (tval : Word) (t : ThreadSet) : (t.saveTrap cause tval).sndctr = t.sndctr := rfl
@[simp] theorem ThreadSet.saveTrap_sendBuf (cause : Nat) (tval : Word) (t : ThreadSet) : (t.saveTrap cause tval).sendBuf = t.sendBuf := rfl
@[simp] theorem ThreadSet.saveTrap_pend (cause : Nat) (tval : Word) (t : ThreadSet) : (t.saveTrap cause tval).pend = t.pend := rfl
@[simp] theorem ThreadSet.saveTrap_run (cause : Nat) (tval : Word) (t : ThreadSet) : (t.saveTrap cause tval).run = t.run := rfl
@[simp] theorem ThreadSet.saveTrap_act (cause : Nat) (tval : Word) (t : ThreadSet) : (t.saveTrap cause tval).act = t.act := rfl
@[simp] theorem ThreadSet.saveTrap_susp (cause : Nat) (tval : Word) (t : ThreadSet) : (t.saveTrap cause tval).susp = t.susp := rfl
@[simp] theorem ThreadSet.saveTrap_frame (cause : Nat) (tval : Word) (t : ThreadSet) : (t.saveTrap cause tval).frame = t.frame := rfl
@[simp] theorem ThreadSet.saveTrap_pending (cause : Nat) (tval : Word) (t : ThreadSet) : (t.saveTrap cause tval).pending = t.pending := rfl
@[simp] theorem ThreadSet.saveTrap_barTok (cause : Nat) (tval : Word) (t : ThreadSet) : (t.saveTrap cause tval).barTok = t.barTok := rfl
@[simp] theorem ThreadSet.saveTrap_fences (cause : Nat) (tval : Word) (t : ThreadSet) : (t.saveTrap cause tval).fences = t.fences := rfl
@[simp] theorem ThreadSet.saveTrap_ending (cause : Nat) (tval : Word) (t : ThreadSet) : (t.saveTrap cause tval).ending = t.ending := rfl
@[simp] theorem ThreadSet.saveTrap_yielded (cause : Nat) (tval : Word) (t : ThreadSet) : (t.saveTrap cause tval).yielded = t.yielded := rfl
@[simp] theorem ThreadSet.saveTrap_waiting (cause : Nat) (tval : Word) (t : ThreadSet) : (t.saveTrap cause tval).waiting = t.waiting := rfl
@[simp] theorem ThreadSet.saveTrap_waited (cause : Nat) (tval : Word) (t : ThreadSet) : (t.saveTrap cause tval).waited = t.waited := rfl
@[simp] theorem ThreadSet.saveTrap_blocked (cause : Nat) (tval : Word) (t : ThreadSet) : (t.saveTrap cause tval).blocked = t.blocked := rfl
@[simp] theorem ThreadSet.saveTrap_migrated (cause : Nat) (tval : Word) (t : ThreadSet) : (t.saveTrap cause tval).migrated = t.migrated := rfl
@[simp] theorem ThreadSet.saveTrap_bubble (cause : Nat) (tval : Word) (t : ThreadSet) : (t.saveTrap cause tval).bubble = t.bubble := rfl
@[simp] theorem ThreadSet.saveTrap_oplog (cause : Nat) (tval : Word) (t : ThreadSet) : (t.saveTrap cause tval).oplog = t.oplog := rfl
@[simp] theorem ThreadSet.saveTrap_badRegs (cause : Nat) (tval : Word) (t : ThreadSet) : (t.saveTrap cause tval).badRegs = t.badRegs := rfl

@[simp] theorem ThreadSet.saveTrap_saved_tval (cause : Nat) (tval : Word) (t : ThreadSet) : (t.saveTrap cause tval).tval = tval := rfl
@[simp] theorem ThreadSet.saveTrap_saved_tepc (cause : Nat) (tval : Word) (t : ThreadSet) :
    (t.saveTrap cause tval).tepc = t.pc &&& 0x0001FFFFFFFFFFFC := rfl

@[simp] theorem ThreadSet.wgIn_f (sup : Bool) (n : RegNo) (x : Word) (t : ThreadSet) : (t.wgIn sup n x).f = t.f := by unfold ThreadSet.wgIn; split; rfl; split <;> rfl
@[simp] theorem ThreadSet.wgIn_v (sup : Bool) (n : RegNo) (x : Word) (t : ThreadSet) : (t.wgIn sup n x).v = t.v := by unfold ThreadSet.wgIn; split; rfl; split <;> rfl
@[simp] theorem ThreadSet.wgIn_fcsr (sup : Bool) (n : RegNo) (x : Word) (t : ThreadSet) : (t.wgIn sup n x).fcsr = t.fcsr := by unfold ThreadSet.wgIn; split; rfl; split <;> rfl
@[simp] theorem ThreadSet.wgIn_sigctl (sup : Bool) (n : RegNo) (x : Word) (t : ThreadSet) : (t.wgIn sup n x).sigctl = t.sigctl := by unfold ThreadSet.wgIn; split; rfl; split <;> rfl
@[simp] theorem ThreadSet.wgIn_scnt (sup : Bool) (n : RegNo) (x : Word) (t : ThreadSet) : (t.wgIn sup n x).scnt = t.scnt := by unfold ThreadSet.wgIn; split; rfl; split <;> rfl
@[simp] theorem ThreadSet.wgIn_scap (sup : Bool) (n : RegNo) (x : Word) (t : ThreadSet) : (t.wgIn sup n x).scap = t.scap := by unfold ThreadSet.wgIn; split; rfl; split <;> rfl
@[simp] theorem ThreadSet.wgIn_sbase (sup : Bool) (n : RegNo) (x : Word) (t : ThreadSet) : (t.wgIn sup n x).sbase = t.sbase := by unfold ThreadSet.wgIn; split; rfl; split <;> rfl
@[simp] theorem ThreadSet.wgIn_stack (sup : Bool) (n : RegNo) (x : Word) (t : ThreadSet) : (t.wgIn sup n x).stack = t.stack := by unfold ThreadSet.wgIn; split; rfl; split <;> rfl
@[simp] theorem ThreadSet.wgIn_tcause (sup : Bool) (n : RegNo) (x : Word) (t : ThreadSet) : (t.wgIn sup n x).tcause = t.tcause := by unfold ThreadSet.wgIn; split; rfl; split <;> rfl
@[simp] theorem ThreadSet.wgIn_tepc (sup : Bool) (n : RegNo) (x : Word) (t : ThreadSet) : (t.wgIn sup n x).tepc = t.tepc := by unfold ThreadSet.wgIn; split; rfl; split <;> rfl
@[simp] theorem ThreadSet.wgIn_tval (sup : Bool) (n : RegNo) (x : Word) (t : ThreadSet) : (t.wgIn sup n x).tval = t.tval := by unfold ThreadSet.wgIn; split; rfl; split <;> rfl
@[simp] theorem ThreadSet.wgIn_tmsg (sup : Bool) (n : RegNo) (x : Word) (t : ThreadSet) : (t.wgIn sup n x).tmsg = t.tmsg := by unfold ThreadSet.wgIn; split; rfl; split <;> rfl
@[simp] theorem ThreadSet.wgIn_tstat (sup : Bool) (n : RegNo) (x : Word) (t : ThreadSet) : (t.wgIn sup n x).tstat = t.tstat := by unfold ThreadSet.wgIn; split; rfl; split <;> rfl
@[simp] theorem ThreadSet.wgIn_pc (sup : Bool) (n : RegNo) (x : Word) (t : ThreadSet) : (t.wgIn sup n x).pc = t.pc := by unfold ThreadSet.wgIn; split; rfl; split <;> rfl
@[simp] theorem ThreadSet.wgIn_callctr (sup : Bool) (n : RegNo) (x : Word) (t : ThreadSet) : (t.wgIn sup n x).callctr = t.callctr := by unfold ThreadSet.wgIn; split; rfl; split <;> rfl
@[simp] theorem ThreadSet.wgIn_sndctr (sup : Bool) (n : RegNo) (x : Word) (t : ThreadSet) : (t.wgIn sup n x).sndctr = t.sndctr := by unfold ThreadSet.wgIn; split; rfl; split <;> rfl
@[simp] theorem ThreadSet.wgIn_sendBuf (sup : Bool) (n : RegNo) (x : Word) (t : ThreadSet) : (t.wgIn sup n x).sendBuf = t.sendBuf := by unfold ThreadSet.wgIn; split; rfl; split <;> rfl
@[simp] theorem ThreadSet.wgIn_pend (sup : Bool) (n : RegNo) (x : Word) (t : ThreadSet) : (t.wgIn sup n x).pend = t.pend := by unfold ThreadSet.wgIn; split; rfl; split <;> rfl
@[simp] theorem ThreadSet.wgIn_run (sup : Bool) (n : RegNo) (x : Word) (t : ThreadSet) : (t.wgIn sup n x).run = t.run := by unfold ThreadSet.wgIn; split; rfl; split <;> rfl
@[simp] theorem ThreadSet.wgIn_act (sup : Bool) (n : RegNo) (x : Word) (t : ThreadSet) : (t.wgIn sup n x).act = t.act := by unfold ThreadSet.wgIn; split; rfl; split <;> rfl
@[simp] theorem ThreadSet.wgIn_susp (sup : Bool) (n : RegNo) (x : Word) (t : ThreadSet) : (t.wgIn sup n x).susp = t.susp := by unfold ThreadSet.wgIn; split; rfl; split <;> rfl
@[simp] theorem ThreadSet.wgIn_frame (sup : Bool) (n : RegNo) (x : Word) (t : ThreadSet) : (t.wgIn sup n x).frame = t.frame := by unfold ThreadSet.wgIn; split; rfl; split <;> rfl
@[simp] theorem ThreadSet.wgIn_pending (sup : Bool) (n : RegNo) (x : Word) (t : ThreadSet) : (t.wgIn sup n x).pending = t.pending := by unfold ThreadSet.wgIn; split; rfl; split <;> rfl
@[simp] theorem ThreadSet.wgIn_barTok (sup : Bool) (n : RegNo) (x : Word) (t : ThreadSet) : (t.wgIn sup n x).barTok = t.barTok := by unfold ThreadSet.wgIn; split; rfl; split <;> rfl
@[simp] theorem ThreadSet.wgIn_fences (sup : Bool) (n : RegNo) (x : Word) (t : ThreadSet) : (t.wgIn sup n x).fences = t.fences := by unfold ThreadSet.wgIn; split; rfl; split <;> rfl
@[simp] theorem ThreadSet.wgIn_ending (sup : Bool) (n : RegNo) (x : Word) (t : ThreadSet) : (t.wgIn sup n x).ending = t.ending := by unfold ThreadSet.wgIn; split; rfl; split <;> rfl
@[simp] theorem ThreadSet.wgIn_yielded (sup : Bool) (n : RegNo) (x : Word) (t : ThreadSet) : (t.wgIn sup n x).yielded = t.yielded := by unfold ThreadSet.wgIn; split; rfl; split <;> rfl
@[simp] theorem ThreadSet.wgIn_waiting (sup : Bool) (n : RegNo) (x : Word) (t : ThreadSet) : (t.wgIn sup n x).waiting = t.waiting := by unfold ThreadSet.wgIn; split; rfl; split <;> rfl
@[simp] theorem ThreadSet.wgIn_waited (sup : Bool) (n : RegNo) (x : Word) (t : ThreadSet) : (t.wgIn sup n x).waited = t.waited := by unfold ThreadSet.wgIn; split; rfl; split <;> rfl
@[simp] theorem ThreadSet.wgIn_blocked (sup : Bool) (n : RegNo) (x : Word) (t : ThreadSet) : (t.wgIn sup n x).blocked = t.blocked := by unfold ThreadSet.wgIn; split; rfl; split <;> rfl
@[simp] theorem ThreadSet.wgIn_migrated (sup : Bool) (n : RegNo) (x : Word) (t : ThreadSet) : (t.wgIn sup n x).migrated = t.migrated := by unfold ThreadSet.wgIn; split; rfl; split <;> rfl
@[simp] theorem ThreadSet.wgIn_bubble (sup : Bool) (n : RegNo) (x : Word) (t : ThreadSet) : (t.wgIn sup n x).bubble = t.bubble := by unfold ThreadSet.wgIn; split; rfl; split <;> rfl

@[simp] theorem ThreadSet.wg_f (n : RegNo) (x : Word) (t : ThreadSet) : (t.wg n x).f = t.f := ThreadSet.wgIn_f _ n x t
@[simp] theorem ThreadSet.wg_v (n : RegNo) (x : Word) (t : ThreadSet) : (t.wg n x).v = t.v := ThreadSet.wgIn_v _ n x t
@[simp] theorem ThreadSet.wg_fcsr (n : RegNo) (x : Word) (t : ThreadSet) : (t.wg n x).fcsr = t.fcsr := ThreadSet.wgIn_fcsr _ n x t
@[simp] theorem ThreadSet.wg_sigctl (n : RegNo) (x : Word) (t : ThreadSet) : (t.wg n x).sigctl = t.sigctl := ThreadSet.wgIn_sigctl _ n x t
@[simp] theorem ThreadSet.wg_scnt (n : RegNo) (x : Word) (t : ThreadSet) : (t.wg n x).scnt = t.scnt := ThreadSet.wgIn_scnt _ n x t
@[simp] theorem ThreadSet.wg_scap (n : RegNo) (x : Word) (t : ThreadSet) : (t.wg n x).scap = t.scap := ThreadSet.wgIn_scap _ n x t
@[simp] theorem ThreadSet.wg_sbase (n : RegNo) (x : Word) (t : ThreadSet) : (t.wg n x).sbase = t.sbase := ThreadSet.wgIn_sbase _ n x t
@[simp] theorem ThreadSet.wg_stack (n : RegNo) (x : Word) (t : ThreadSet) : (t.wg n x).stack = t.stack := ThreadSet.wgIn_stack _ n x t
@[simp] theorem ThreadSet.wg_tcause (n : RegNo) (x : Word) (t : ThreadSet) : (t.wg n x).tcause = t.tcause := ThreadSet.wgIn_tcause _ n x t
@[simp] theorem ThreadSet.wg_tepc (n : RegNo) (x : Word) (t : ThreadSet) : (t.wg n x).tepc = t.tepc := ThreadSet.wgIn_tepc _ n x t
@[simp] theorem ThreadSet.wg_tval (n : RegNo) (x : Word) (t : ThreadSet) : (t.wg n x).tval = t.tval := ThreadSet.wgIn_tval _ n x t
@[simp] theorem ThreadSet.wg_tmsg (n : RegNo) (x : Word) (t : ThreadSet) : (t.wg n x).tmsg = t.tmsg := ThreadSet.wgIn_tmsg _ n x t
@[simp] theorem ThreadSet.wg_tstat (n : RegNo) (x : Word) (t : ThreadSet) : (t.wg n x).tstat = t.tstat := ThreadSet.wgIn_tstat _ n x t
@[simp] theorem ThreadSet.wg_pc (n : RegNo) (x : Word) (t : ThreadSet) : (t.wg n x).pc = t.pc := ThreadSet.wgIn_pc _ n x t
@[simp] theorem ThreadSet.wg_callctr (n : RegNo) (x : Word) (t : ThreadSet) : (t.wg n x).callctr = t.callctr := ThreadSet.wgIn_callctr _ n x t
@[simp] theorem ThreadSet.wg_sndctr (n : RegNo) (x : Word) (t : ThreadSet) : (t.wg n x).sndctr = t.sndctr := ThreadSet.wgIn_sndctr _ n x t
@[simp] theorem ThreadSet.wg_sendBuf (n : RegNo) (x : Word) (t : ThreadSet) : (t.wg n x).sendBuf = t.sendBuf := ThreadSet.wgIn_sendBuf _ n x t
@[simp] theorem ThreadSet.wg_pend (n : RegNo) (x : Word) (t : ThreadSet) : (t.wg n x).pend = t.pend := ThreadSet.wgIn_pend _ n x t
@[simp] theorem ThreadSet.wg_run (n : RegNo) (x : Word) (t : ThreadSet) : (t.wg n x).run = t.run := ThreadSet.wgIn_run _ n x t
@[simp] theorem ThreadSet.wg_act (n : RegNo) (x : Word) (t : ThreadSet) : (t.wg n x).act = t.act := ThreadSet.wgIn_act _ n x t
@[simp] theorem ThreadSet.wg_susp (n : RegNo) (x : Word) (t : ThreadSet) : (t.wg n x).susp = t.susp := ThreadSet.wgIn_susp _ n x t
@[simp] theorem ThreadSet.wg_frame (n : RegNo) (x : Word) (t : ThreadSet) : (t.wg n x).frame = t.frame := ThreadSet.wgIn_frame _ n x t
@[simp] theorem ThreadSet.wg_pending (n : RegNo) (x : Word) (t : ThreadSet) : (t.wg n x).pending = t.pending := ThreadSet.wgIn_pending _ n x t
@[simp] theorem ThreadSet.wg_barTok (n : RegNo) (x : Word) (t : ThreadSet) : (t.wg n x).barTok = t.barTok := ThreadSet.wgIn_barTok _ n x t
@[simp] theorem ThreadSet.wg_fences (n : RegNo) (x : Word) (t : ThreadSet) : (t.wg n x).fences = t.fences := ThreadSet.wgIn_fences _ n x t
@[simp] theorem ThreadSet.wg_ending (n : RegNo) (x : Word) (t : ThreadSet) : (t.wg n x).ending = t.ending := ThreadSet.wgIn_ending _ n x t
@[simp] theorem ThreadSet.wg_yielded (n : RegNo) (x : Word) (t : ThreadSet) : (t.wg n x).yielded = t.yielded := ThreadSet.wgIn_yielded _ n x t
@[simp] theorem ThreadSet.wg_waiting (n : RegNo) (x : Word) (t : ThreadSet) : (t.wg n x).waiting = t.waiting := ThreadSet.wgIn_waiting _ n x t
@[simp] theorem ThreadSet.wg_waited (n : RegNo) (x : Word) (t : ThreadSet) : (t.wg n x).waited = t.waited := ThreadSet.wgIn_waited _ n x t
@[simp] theorem ThreadSet.wg_blocked (n : RegNo) (x : Word) (t : ThreadSet) : (t.wg n x).blocked = t.blocked := ThreadSet.wgIn_blocked _ n x t
@[simp] theorem ThreadSet.wg_migrated (n : RegNo) (x : Word) (t : ThreadSet) : (t.wg n x).migrated = t.migrated := ThreadSet.wgIn_migrated _ n x t
@[simp] theorem ThreadSet.wg_bubble (n : RegNo) (x : Word) (t : ThreadSet) : (t.wg n x).bubble = t.bubble := ThreadSet.wgIn_bubble _ n x t

@[simp] theorem ThreadSet.advance_g (t : ThreadSet) : t.advance.g = t.g := by unfold ThreadSet.advance; split <;> rfl
@[simp] theorem ThreadSet.advance_sg (t : ThreadSet) : t.advance.sg = t.sg := by unfold ThreadSet.advance; split <;> rfl
@[simp] theorem ThreadSet.advance_f (t : ThreadSet) : t.advance.f = t.f := by unfold ThreadSet.advance; split <;> rfl
@[simp] theorem ThreadSet.advance_v (t : ThreadSet) : t.advance.v = t.v := by unfold ThreadSet.advance; split <;> rfl
@[simp] theorem ThreadSet.advance_fcsr (t : ThreadSet) : t.advance.fcsr = t.fcsr := by unfold ThreadSet.advance; split <;> rfl
@[simp] theorem ThreadSet.advance_sigctl (t : ThreadSet) : t.advance.sigctl = t.sigctl := by unfold ThreadSet.advance; split <;> rfl
@[simp] theorem ThreadSet.advance_scnt (t : ThreadSet) : t.advance.scnt = t.scnt := by unfold ThreadSet.advance; split <;> rfl
@[simp] theorem ThreadSet.advance_scap (t : ThreadSet) : t.advance.scap = t.scap := by unfold ThreadSet.advance; split <;> rfl
@[simp] theorem ThreadSet.advance_sbase (t : ThreadSet) : t.advance.sbase = t.sbase := by unfold ThreadSet.advance; split <;> rfl
@[simp] theorem ThreadSet.advance_stack (t : ThreadSet) : t.advance.stack = t.stack := by unfold ThreadSet.advance; split <;> rfl
@[simp] theorem ThreadSet.advance_tcause (t : ThreadSet) : t.advance.tcause = t.tcause := by unfold ThreadSet.advance; split <;> rfl
@[simp] theorem ThreadSet.advance_tepc (t : ThreadSet) : t.advance.tepc = t.tepc := by unfold ThreadSet.advance; split <;> rfl
@[simp] theorem ThreadSet.advance_tval (t : ThreadSet) : t.advance.tval = t.tval := by unfold ThreadSet.advance; split <;> rfl
@[simp] theorem ThreadSet.advance_tmsg (t : ThreadSet) : t.advance.tmsg = t.tmsg := by unfold ThreadSet.advance; split <;> rfl
@[simp] theorem ThreadSet.advance_tstat (t : ThreadSet) : t.advance.tstat = t.tstat := by unfold ThreadSet.advance; split <;> rfl
@[simp] theorem ThreadSet.advance_callctr (t : ThreadSet) : t.advance.callctr = t.callctr := by unfold ThreadSet.advance; split <;> rfl
@[simp] theorem ThreadSet.advance_sndctr (t : ThreadSet) : t.advance.sndctr = t.sndctr := by unfold ThreadSet.advance; split <;> rfl
@[simp] theorem ThreadSet.advance_sendBuf (t : ThreadSet) : t.advance.sendBuf = t.sendBuf := by unfold ThreadSet.advance; split <;> rfl
@[simp] theorem ThreadSet.advance_pend (t : ThreadSet) : t.advance.pend = t.pend := by unfold ThreadSet.advance; split <;> rfl
@[simp] theorem ThreadSet.advance_run (t : ThreadSet) : t.advance.run = t.run := by unfold ThreadSet.advance; split <;> rfl
@[simp] theorem ThreadSet.advance_act (t : ThreadSet) : t.advance.act = t.act := by unfold ThreadSet.advance; split <;> rfl
@[simp] theorem ThreadSet.advance_susp (t : ThreadSet) : t.advance.susp = t.susp := by unfold ThreadSet.advance; split <;> rfl
@[simp] theorem ThreadSet.advance_pending (t : ThreadSet) : t.advance.pending = t.pending := by unfold ThreadSet.advance; split <;> rfl
@[simp] theorem ThreadSet.advance_barTok (t : ThreadSet) : t.advance.barTok = t.barTok := by unfold ThreadSet.advance; split <;> rfl
@[simp] theorem ThreadSet.advance_fences (t : ThreadSet) : t.advance.fences = t.fences := by unfold ThreadSet.advance; split <;> rfl
@[simp] theorem ThreadSet.advance_ending (t : ThreadSet) : t.advance.ending = t.ending := by unfold ThreadSet.advance; split <;> rfl
@[simp] theorem ThreadSet.advance_yielded (t : ThreadSet) : t.advance.yielded = t.yielded := by unfold ThreadSet.advance; split <;> rfl
@[simp] theorem ThreadSet.advance_waiting (t : ThreadSet) : t.advance.waiting = t.waiting := by unfold ThreadSet.advance; split <;> rfl
@[simp] theorem ThreadSet.advance_waited (t : ThreadSet) : t.advance.waited = t.waited := by unfold ThreadSet.advance; split <;> rfl
@[simp] theorem ThreadSet.advance_blocked (t : ThreadSet) : t.advance.blocked = t.blocked := by unfold ThreadSet.advance; split <;> rfl
@[simp] theorem ThreadSet.advance_migrated (t : ThreadSet) : t.advance.migrated = t.migrated := by unfold ThreadSet.advance; split <;> rfl
@[simp] theorem ThreadSet.advance_bubble (t : ThreadSet) : t.advance.bubble = t.bubble := by unfold ThreadSet.advance; split <;> rfl
@[simp] theorem ThreadSet.advance_oplog (t : ThreadSet) : t.advance.oplog = t.oplog := by unfold ThreadSet.advance; split <;> rfl
@[simp] theorem ThreadSet.advance_badRegs (t : ThreadSet) : t.advance.badRegs = t.badRegs := by unfold ThreadSet.advance; split <;> rfl

theorem ThreadSet.advance_pc_of_none {t : ThreadSet} (h : t.frame = none) : t.advance.pc = t.pc + 4 ∧ t.advance.frame = none := by
  simp [ThreadSet.advance, h]

/-! ### Register files and vectors -/

@[simp] theorem vget_vset_same {α : Type} {n : Nat} (v : Vector α (n + 1)) (k : Nat) (x : α) : vget (vset v k x) k = x := by
  simp [vget, vset]

theorem vget_vset_other {α : Type} {n : Nat} (v : Vector α (n + 1)) {k j : Nat} (x : α) (h : j % (n + 1) ≠ k % (n + 1)) :
    vget (vset v k x) j = vget v j := by
  simp only [vget, vset]
  exact Vector.getElem_set_ne _ _ (Ne.symm h)

@[simp] theorem rget_rset_same {α : Type} (v : Vector α 32) (n : RegNo) (x : α) : rget (rset v n x) n = x := by simp [rget, rset]

theorem rget_rset_other {α : Type} (v : Vector α 32) {n m : RegNo} (x : α) (h : m ≠ n) : rget (rset v n x) m = rget v m := by
  simp only [rget, rset]
  exact Vector.getElem_set_ne _ _ (fun e => h (BitVec.eq_of_toNat_eq e.symm))

/-! ### What the accessors find -/

@[simp] theorem State.el_setEl_same (s : State) (le : Nat) (e : Element) : (s.setEl le e).el le = e := by
  simp [State.el, State.setEl, Map.find_set_same]

theorem State.el_setEl_other (s : State) {le m : Nat} (e : Element) (h : m ≠ le) : (s.setEl le e).el m = s.el m := by
  simp [State.el, State.setEl, Map.find_set_other h]

@[simp] theorem State.el_updEl_same (s : State) (le : Nat) (f : Element → Element) : (s.updEl le f).el le = f (s.el le) := by
  simp [State.updEl]

theorem State.el_updEl_other (s : State) {le m : Nat} (f : Element → Element) (h : m ≠ le) : (s.updEl le f).el m = s.el m :=
  State.el_setEl_other s _ h

@[simp] theorem State.thOf_updThOf_same (s : State) (le k : Nat) (f : ThreadSet → ThreadSet) :
    (s.updThOf le k f).thOf le k = f (s.thOf le k) := by
  simp [State.thOf, State.updThOf]

theorem State.thOf_updThOf_other (s : State) {le m k j : Nat} (f : ThreadSet → ThreadSet) (h : m ≠ le ∨ j % 4 ≠ k % 4) :
    (s.updThOf le k f).thOf m j = s.thOf m j := by
  unfold State.thOf State.updThOf
  by_cases hm : m = le
  · subst hm
    have hj : j % 4 ≠ k % 4 := h.resolve_left (fun e => e rfl)
    simp [vget_vset_other _ _ hj]
  · rw [State.el_updEl_other _ _ hm]

@[simp] theorem State.th_updTh (s : State) (f : ThreadSet → ThreadSet) : (s.updTh f).th = f s.th := by
  simp [State.th, State.updTh]

@[simp] theorem State.tile_setTile_same (s : State) (t : Nat) (x : Tile) : (s.setTile t x).tile t = x := by
  simp [State.tile, State.setTile]

theorem State.tile_setTile_other (s : State) {t u : Nat} (x : Tile) (h : u ≠ t) : (s.setTile t x).tile u = s.tile u := by
  simp [State.tile, State.setTile, Map.get_set_other _ h]

@[simp] theorem State.tile_updTile_same (s : State) (t : Nat) (f : Tile → Tile) : (s.updTile t f).tile t = f (s.tile t) := by
  simp [State.updTile]

@[simp] theorem State.window_setWindow_same (s : State) (w : Nat) (x : Window) : (s.setWindow w x).window w = x := by
  simp [State.window, State.setWindow]

theorem State.window_setWindow_other (s : State) {w v : Nat} (x : Window) (h : v ≠ w) : (s.setWindow w x).window v = s.window v := by
  simp [State.window, State.setWindow, Map.get_set_other _ h]

@[simp] theorem State.car_updCar_same (s : State) (k : Nat) (f : Carousel → Carousel) : (s.updCar k f).car k = f (s.car k) := by
  simp [State.car, State.updCar]

/-- `g0` reads as zero whatever was written to it (R34). -/
@[simp] theorem ThreadSet.rg_zero (t : ThreadSet) : t.rg 0 = 0 := rfl

/-- A register written reads back in its bank; `g0` stays zero (R34). -/
theorem ThreadSet.rg_wg_same (t : ThreadSet) (n : RegNo) (x : Word) : (t.wg n x).rg n = if n = 0 then 0 else x := by
  unfold ThreadSet.rg ThreadSet.wg ThreadSet.wgIn
  by_cases h : n = 0
  · simp [h]
  · by_cases hs : t.inSup = true <;> simp_all [ThreadSet.bank, ThreadSet.inSup, ThreadSet.logWrite]

/-- A write leaves every other register of the bank alone. -/
theorem ThreadSet.rg_wg_other (t : ThreadSet) {n m : RegNo} (x : Word) (h : m ≠ n) : (t.wg n x).rg m = t.rg m := by
  unfold ThreadSet.rg ThreadSet.wg ThreadSet.wgIn
  by_cases hn : n = 0
  · simp [hn]
  · by_cases hs : t.inSup = true <;> simp_all [ThreadSet.bank, ThreadSet.inSup, ThreadSet.logWrite, rget_rset_other]

end Sys2Proof.Machine
end

