-- ==== Sys2Proof/Laws/Issue.lean ====
section
/-! SUPPORT. What the shared operations of the instructions can do: operands read and written, the checks at issue, and traps. -/
namespace Sys2Proof.Machine

/-! ### Operands -/

@[simp] theorem State.takeG_reg (s : State) (n : RegNo) : s.takeG (.reg n) = (s.rg n, s) := rfl
@[simp] theorem State.takeG_port (s : State) (p : Port) : s.takeG (.port p) = s.popWord p := rfl
@[simp] theorem State.takeV_reg (s : State) (p : Nat) (n : RegNo) : s.takeV p (.reg n) = (s.rv n, s) := rfl
@[simp] theorem State.takeF_reg (s : State) (p : Nat) (n : RegNo) : s.takeF p (.reg n) = (⟨(s.rf n).bits, min (s.rf n).tc p⟩, s) := rfl
@[simp] theorem State.putG_reg (s : State) (n : RegNo) (x : Word) : s.putG (.reg n) x = s.wg n x := rfl
@[simp] theorem State.putG_port (s : State) (p : Port) (x : Word) : s.putG (.port p) x = s.pushWord p x := rfl
@[simp] theorem State.putF_reg (s : State) (n : RegNo) (x : FReg) : s.putF (.reg n) x = s.updTh (·.wf n x) := rfl
@[simp] theorem State.putV_reg (s : State) (n : RegNo) (x : VReg) : s.putV (.reg n) x = s.updTh (·.wv n x) := rfl
@[simp] theorem State.popWord_po (s : State) : s.popWord .po = (0, s) := rfl
@[simp] theorem State.pushWord_pi (s : State) (x : Word) : s.pushWord .pi x = s := rfl

/-- The register that a write of the issuing set leaves. -/
@[simp] theorem State.th_wg (s : State) (n : RegNo) (x : Word) : (s.wg n x).th = s.th.wg n x := by simp [State.wg]
@[simp] theorem State.th_advance (s : State) : s.advance.th = s.th.advance := by simp [State.advance]

/-- What a port's queue becomes leaves memory alone. -/
theorem State.updIn_mem (s : State) (le : Nat) (p : Port) (f : Fifo → Fifo) : (s.updIn le p f).mem = s.mem := by
  unfold State.updIn
  repeat' split
  all_goals rfl

theorem State.updOut_mem (s : State) (le : Nat) (p : Port) (f : Fifo → Fifo) : (s.updOut le p f).mem = s.mem := by
  unfold State.updOut
  repeat' split
  all_goals rfl

/-- A pop leaves memory, the mesh and every counter alone. -/
theorem State.popWord_mem (s : State) (p : Port) : (s.popWord p).2.mem = s.mem := by
  unfold State.popWord State.popPayload State.popFifo
  repeat' split
  all_goals first | rfl | simp [State.updIn_mem]

theorem State.pushWord_mem (s : State) (p : Port) (x : Word) : (s.pushWord p x).mem = s.mem := by
  unfold State.pushWord State.pushFifo
  split
  · rfl
  · simp
  · exact State.updOut_mem s _ _ _

theorem State.write_mem (s : State) (w : RegWrite) : (s.write w).mem = s.mem := by
  cases w with
  | port p xs =>
    simp only [State.write]
    induction xs generalizing s with
    | nil => rfl
    | cons x xs ih => simp only [List.foldl_cons]; rw [ih, State.pushWord_mem]
  | _ => rfl

theorem State.takeG_mem (s : State) (o : Opnd) : (s.takeG o).2.mem = s.mem := by
  cases o with
  | reg n => rfl
  | port p => exact State.popWord_mem s p

theorem State.putG_mem (s : State) (o : Opnd) (x : Word) : (s.putG o x).mem = s.mem := State.write_mem s _
theorem State.putF_mem (s : State) (o : Opnd) (x : FReg) : (s.putF o x).mem = s.mem := State.write_mem s _
theorem State.putV_mem (s : State) (o : Opnd) (x : VReg) : (s.putV o x).mem = s.mem := State.write_mem s _

/-! ### Issue -/

theorem withIssue_of_go {rds wrs : List (Cls × Opnd)} {k : State → Host.Outcome State Fault Refusal} {s u : State}
    (h : gate rds wrs s = .go u) : withIssue rds wrs k s = k u := by simp [withIssue, h]

theorem withIssue_of_stop {rds wrs : List (Cls × Opnd)} {k : State → Host.Outcome State Fault Refusal} {s : State}
    {o : Host.Outcome State Fault Refusal} (h : gate rds wrs s = .stop o) : withIssue rds wrs k s = o := by simp [withIssue, h]

/-- The checks at issue stop only with a next state: a trap, or a stall. -/
theorem gate_stop_next {rds wrs : List (Cls × Opnd)} {s : State} {o : Host.Outcome State Fault Refusal}
    (h : gate rds wrs s = .stop o) : ∃ t, o = .next t := by
  unfold gate at h
  dsimp only at h
  repeat' split at h
  all_goals first
    | (cases h; exact ⟨_, rfl⟩)
    | cases h

/-- What issues answers a next state if its effect does. -/
theorem withIssue_next {rds wrs : List (Cls × Opnd)} {k : State → Host.Outcome State Fault Refusal} (s : State)
    (h : ∀ u, ∃ t, k u = .next t) : ∃ t, withIssue rds wrs k s = .next t := by
  unfold withIssue
  split
  · exact h _
  · rename_i o ho
    exact gate_stop_next ho

/-- The same for an instruction of the quad's unit. -/
theorem withVec_next {rds wrs : List (Cls × Opnd)} {k : State → Host.Outcome State Fault Refusal} (s : State)
    (h : ∀ u, ∃ t, k u = .next t) : ∃ t, withVec rds wrs k s = .next t := by
  unfold withVec
  dsimp only
  split
  · exact withIssue_next s h
  · split
    · exact ⟨_, rfl⟩
    · exact withIssue_next s (fun u => h _)

/-- The same for an instruction of slot 0. -/
theorem withSlot0_next {i : Instr} {k : State → Host.Outcome State Fault Refusal} (s : State)
    (h : ∀ u, ∃ t, k u = .next t) : ∃ t, withSlot0 i k s = .next t := by
  unfold withSlot0
  split
  · exact h s
  · split
    · exact ⟨_, rfl⟩
    · split <;> exact ⟨_, rfl⟩

/-- The same for a structure read from memory. -/
theorem withStruct_next {ea n m al : Nat} {k : List Byte → State → Host.Outcome State Fault Refusal} (s : State)
    (h : ∀ bs u, ∃ t, k bs u = .next t) : ∃ t, withStruct ea n m al k s = .next t := by
  unfold withStruct
  repeat' split
  all_goals first
    | exact ⟨_, rfl⟩
    | exact h _ _

/-! ### Traps -/

/-- The outcome of a trap is a next state. -/
theorem State.trap_next (s : State) (cause : Nat) (tval : Word) :
    s.trap cause tval = .next (s.trapAt s.cur.1 s.cur.2 cause tval none) := rfl

theorem State.memTrap_next (s : State) (cause ea : Nat) :
    s.memTrap cause ea = .next (s.trapAt s.cur.1 s.cur.2 cause (BitVec.ofNat 64 ea) none) := rfl

/-- The supervisor handler starts at the context's trap entry (R347). -/
theorem State.startSup_thOf (s : State) (le k : Nat) : (s.startSup le k).thOf le k = { s.thOf le k with
    run := .sup, pc := s.ctx.trapEntry, frame := none, sendBuf := [], pend := [], ending := none, waiting := none, blocked := [] } := by
  simp [State.startSup]

/-- Muting the operations of a set changes no thread set (R144). -/
@[simp] theorem State.muteOps_thOf (s : State) (le k : Nat) (sup : Bool) (le' k' : Nat) :
    (s.muteOps le k sup).thOf le' k' = s.thOf le' k' := by
  by_cases h : le' = le
  · subst h; simp [State.muteOps, State.thOf]
  · rw [State.thOf, State.muteOps, State.el_updEl_other _ _ h, State.thOf]

@[simp] theorem State.muteOps_cur (s : State) (le k : Nat) (sup : Bool) : (s.muteOps le k sup).cur = s.cur := rfl
@[simp] theorem State.muteOps_mem (s : State) (le k : Nat) (sup : Bool) : (s.muteOps le k sup).mem = s.mem := rfl
@[simp] theorem State.muteOps_poison (s : State) (le k : Nat) (sup : Bool) : (s.muteOps le k sup).poison = s.poison := rfl
@[simp] theorem State.muteOps_tiles (s : State) (le k : Nat) (sup : Bool) : (s.muteOps le k sup).tiles = s.tiles := rfl

/-- A set parked in `ldv` issues nothing (R160, R361). -/
theorem State.canRun_of_parked {s : State} {le : Nat} {o : MemOp} (h : o ∈ (s.el le).ops) (hp : o.parked = true) :
    s.canRun le o.set = false := by
  have : (s.el le).ops.any (fun p => p.set == o.set && p.parked) = true := by
    rw [List.any_eq_true]; exact ⟨o, h, by simp [hp]⟩
  simp [State.canRun, this]

/-- Noting what an activation leaves outstanding changes no thread set and no memory (R333). -/
@[simp] theorem State.noteTrailing_thOf (s : State) (n j le k : Nat) : (s.noteTrailing n j).thOf le k = s.thOf le k := by
  unfold State.noteTrailing
  split
  · split
    · by_cases h : le = n
      · subst h; simp [State.thOf]
      · rw [State.thOf, State.el_updEl_other _ _ h, State.thOf]
    · rfl
  · rfl

@[simp] theorem State.noteTrailing_mem (s : State) (le k : Nat) : (s.noteTrailing le k).mem = s.mem := by
  unfold State.noteTrailing; split
  · split <;> rfl
  · rfl

/-- An activation with a store outstanding into the memory of its element holds back the next one of its channel's state until it is performed
(R333). -/
theorem State.trails_noteTrailing {s : State} {le k : Nat} {a : Act} (ha : (s.thOf le k).act = some a)
    (h : s.storesLeft le k s.nextId = true) : (s.noteTrailing le k).trails le a.stateCh = true := by
  unfold State.noteTrailing State.trails
  rw [ha]; dsimp only; rw [if_pos h, List.any_eq_true]
  refine ⟨(a.stateCh, k, s.nextId), by simp, ?_⟩
  simp only [beq_self_eq_true, Bool.true_and]
  unfold State.storesLeft at h ⊢
  simpa using h

/-- A freed set runs nothing (R169). -/
theorem State.freeSet_thOf (s : State) (le k : Nat) : ((s.freeSet le k).thOf le k).run = .free ∧ ((s.freeSet le k).thOf le k).act = none ∧
    ((s.freeSet le k).thOf le k).susp = none := by
  simp [State.freeSet]

/-- A trap of the supervisor handler is only reported, and sends its context to the halt (R348). -/
theorem State.trapAt_of_sup {s : State} {le k : Nat} (h : (s.thOf le k).inSup = true) (hh : s.ctx.halting.contains (le, k) = false) (cause : Nat) (tval : Word)
    (held : Option HeldResult) : s.trapAt le k cause tval held =
      s.doubleTrap le k (BitVec.ofNat 64 cause) (s.thOf le k).pc tval := by
  unfold State.trapAt; dsimp only; rw [if_pos h, hh]; rfl

/-- Without a fault that waits for the handler, it goes on (R155). -/
@[simp] theorem State.strikeLate_none {u : Suspended} (h : u.late = none) (s : State) : s.strikeLate u = s := by
  simp [State.strikeLate, h]

/-- Restarting an idle count changes no thread set and no memory (R121). -/
@[simp] theorem State.noteRunnable_thOf (s : State) (n le k : Nat) : (s.noteRunnable n).thOf le k = s.thOf le k := by
  unfold State.noteRunnable; split <;> rfl

@[simp] theorem State.noteRunnable_mem (s : State) (n : Nat) : (s.noteRunnable n).mem = s.mem := by
  unfold State.noteRunnable; split <;> rfl

end Sys2Proof.Machine
end

