-- ==== Sys2Proof/Laws/Matrix.lean ====
section
/-! SUPPORT. What holds of a minted capability, whatever the keyed check gives (R263, R264, R275). -/
namespace Sys2Proof.Machine

/-- A capability's number: its key above its low 36 bits. -/
theorem State.mint_toNat (s : State) (l : BitVec 36) : (s.mint l).toNat = (Config.keyedCheck s.resets l).toNat * 2 ^ 36 + l.toNat := by
  unfold State.mint
  rw [BitVec.toNat_append, Nat.shiftLeft_eq, Nat.mul_comm]
  exact (Nat.two_pow_add_eq_or_of_lt l.isLt _).symm
/-- The low 36 bits of a capability are those it was minted from (R275). -/
theorem State.mint_low (s : State) (l : BitVec 36) : (s.mint l).setWidth 36 = l := by
  apply BitVec.eq_of_toNat_eq
  rw [BitVec.toNat_setWidth, State.mint_toNat]
  have := l.isLt
  omega
/-- A field within the low 36 bits. -/
theorem State.mint_field (s : State) (l : BitVec 36) (a n : Nat) (h : a + n ≤ 36) : (s.mint l).extractLsb' a n = l.extractLsb' a n := by
  apply BitVec.eq_of_toNat_eq
  simp only [BitVec.extractLsb'_toNat, State.mint_toNat, Nat.shiftRight_eq_div_pow]
  have h1 : 2 ^ 36 = 2 ^ a * (2 ^ n * 2 ^ (36 - a - n)) := by rw [← Nat.pow_add, ← Nat.pow_add]; congr 1; omega
  rw [h1, Nat.mul_comm, Nat.mul_assoc, Nat.mul_add_div (Nat.two_pow_pos a), Nat.mul_assoc, Nat.mul_add_mod]
/-- The rights that a mask picks out. -/
theorem State.mint_and (s : State) (l : BitVec 36) (r : Nat) (h : r < 2 ^ 36) : (s.mint l).toNat &&& r = l.toNat &&& r := by
  apply Nat.eq_of_testBit_eq; intro i
  simp only [Nat.testBit_and, State.mint_toNat]
  by_cases hi : i < 36
  · rw [Nat.mul_comm, Nat.testBit_two_pow_mul_add _ l.isLt]; simp [hi]
  · rw [Nat.testBit_lt_two_pow (x := r) (Nat.lt_of_lt_of_le h (Nat.pow_le_pow_right (by omega) (by omega)))]; simp
/-- A minted capability of the running context and epoch, with a right and a tile of the partition, is not refused (R264). -/
theorem State.mint_accepted (s : State) (l : BitVec 36) (r : Nat) (e : Bool) (hr : r < 2 ^ 36) (hc : l.extractLsb' 16 12 = s.ctx.ctxid)
    (he : l.extractLsb' 28 8 = s.ctx.epoch) (ha : l.toNat &&& r ≠ 0) (ht : l.toNat % 4096 < s.ctx.tiles.length) :
    s.capRefusal (s.mint l) r e = none := by
  have hm : (s.mint l).toNat % 4096 = l.toNat % 4096 := by rw [State.mint_toNat]; omega
  unfold State.capRefusal
  rw [State.mint_low, State.mint_field _ _ _ _ (by omega), State.mint_field _ _ _ _ (by omega), State.mint_and _ _ _ hr, hm]
  simp [hc, he, ha, Nat.not_le.mpr ht]

/-- The tile that a minted capability names (R263). -/
theorem State.mint_tile (s u : State) (l : BitVec 36) : s.capTile (u.mint l) = s.ctx.tiles.getD (l.toNat % 4096) 0 := by
  have hm : (u.mint l).toNat % 4096 = l.toNat % 4096 := by rw [State.mint_toNat]; omega
  rw [State.capTile, hm]

/-- A capability depends on the state by the number of resets alone. -/
theorem State.mint_congr {s u : State} (h : s.resets = u.resets) (l : BitVec 36) : s.mint l = u.mint l := by
  rw [State.mint, State.mint, h]

end Sys2Proof.Machine
end

