-- ==== Sys2Proof/Laws/Memory.lean ====
section
/-! SUPPORT. The laws of memory: every operation keeps the canonical form, a read finds what a write left, and which operations of the state
keep its memory canonical; what a correcting read changes. -/
namespace Sys2Proof.Machine

/-! ### The canonical form -/

theorem Mem.wfFrom_mono {lo hi : Nat} (h : lo ≤ hi) {m : List Host.Cell} (w : Mem.wfFrom hi m = true) : Mem.wfFrom lo m = true := by
  cases m with
  | nil => rfl
  | cons c m =>
    simp only [Mem.wfFrom, Bool.and_eq_true, decide_eq_true_eq] at w ⊢
    exact ⟨⟨by omega, w.1.2⟩, w.2⟩

theorem Mem.wfFrom_write {lo a : Nat} (h : lo ≤ a) (b : Byte) {m : List Host.Cell} (w : Mem.wfFrom lo m = true) :
    Mem.wfFrom lo (Mem.write a b m) = true := by
  induction m generalizing lo with
  | nil =>
    unfold Mem.write
    split <;> simp_all [Mem.wfFrom]
  | cons c m ih =>
    obtain ⟨k, x⟩ := c
    simp only [Mem.wfFrom, Bool.and_eq_true, decide_eq_true_eq] at w
    obtain ⟨⟨hk, hx⟩, hm⟩ := w
    unfold Mem.write
    split
    · split
      · simp [Mem.wfFrom, hk, hx, hm]
      · rename_i hak hb
        simp [Mem.wfFrom, h, hb, hx, hm, Nat.succ_le_of_lt hak]
    · split
      · rename_i _ hak
        split
        · exact Mem.wfFrom_mono (by omega) hm
        · rename_i hb
          subst hak
          simp [Mem.wfFrom, h, hb, hm]
      · rename_i h1 h2
        have := ih (lo := k + 1) (by omega) hm
        simp [Mem.wfFrom, hk, hx, this]

theorem Mem.wf_write (a : Nat) (b : Byte) {m : List Host.Cell} (w : Mem.wf m = true) : Mem.wf (Mem.write a b m) = true :=
  Mem.wfFrom_write (Nat.zero_le a) b w

theorem Mem.wf_writeN (a : Nat) (bs : List Byte) {m : List Host.Cell} (w : Mem.wf m = true) : Mem.wf (Mem.writeN a bs m) = true := by
  induction bs generalizing a m with
  | nil => exact w
  | cons b bs ih => exact ih (a + 1) (Mem.wf_write a b w)

theorem Mem.wfFrom_filter (p : Host.Cell → Bool) {lo : Nat} {m : List Host.Cell} (w : Mem.wfFrom lo m = true) :
    Mem.wfFrom lo (m.filter p) = true := by
  induction m generalizing lo with
  | nil => rfl
  | cons c m ih =>
    obtain ⟨k, x⟩ := c
    simp only [Mem.wfFrom, Bool.and_eq_true, decide_eq_true_eq] at w
    have hm := ih w.2
    cases hp : p (k, x) with
    | true => simp [hp, Mem.wfFrom, w.1.1, w.1.2, hm]
    | false => simp only [List.filter_cons, hp]; exact Mem.wfFrom_mono (by omega) hm

theorem Mem.wf_filter (p : Host.Cell → Bool) {m : List Host.Cell} (w : Mem.wf m = true) : Mem.wf (m.filter p) = true :=
  Mem.wfFrom_filter p w

/-! ### Reading after writing -/

theorem Mem.read_below {lo a : Nat} (h : a < lo) {m : List Host.Cell} (w : Mem.wfFrom lo m = true) : Mem.read a m = unlisted := by
  induction m generalizing lo with
  | nil => rfl
  | cons c m ih =>
    obtain ⟨k, x⟩ := c
    simp only [Mem.wfFrom, Bool.and_eq_true, decide_eq_true_eq] at w
    have hk : k ≠ a := by omega
    simp [Mem.read, hk, ih (lo := k + 1) (by omega) w.2]

theorem Mem.read_write_of_ne {a c : Nat} (h : c ≠ a) (b : Byte) (m : List Host.Cell) : Mem.read c (Mem.write a b m) = Mem.read c m := by
  induction m with
  | nil => unfold Mem.write; split <;> simp [Mem.read, Ne.symm h]
  | cons e m ih =>
    obtain ⟨k, x⟩ := e
    unfold Mem.write
    split
    · split
      · rfl
      · simp [Mem.read, Ne.symm h]
    · split
      · rename_i _ hk
        subst hk
        split <;> simp [Mem.read, Ne.symm h]
      · simp [Mem.read, ih]

/-! ### Operations of the state -/

/-- Bytes written leave every other place alone. -/
theorem Mem.read_writeN_off {x a : Nat} (bs : List Byte) (h : x < a ∨ a + bs.length ≤ x) (m : List Host.Cell) :
    Mem.read x (Mem.writeN a bs m) = Mem.read x m := by
  induction bs generalizing a m with
  | nil => rfl
  | cons b bs ih =>
    rw [List.length_cons] at h
    rw [Mem.writeN, ih (by omega), Mem.read_write_of_ne (by omega)]

theorem State.poke_memInv (a : Nat) (bs : List Byte) {s : State} (h : s.memInv = true) : (s.poke a bs).memInv = true :=
  Mem.wf_writeN a bs h

theorem State.setTile_memInv (t : Nat) (x : Tile) {s : State} (h : s.memInv = true) : (s.setTile t x).memInv = true := h

theorem State.setEl_memInv (le : Nat) (e : Element) {s : State} (h : s.memInv = true) : (s.setEl le e).memInv = true := h

/-- A fold of steps that each keep memory canonical keeps it. -/
theorem foldl_memInv {α : Type} (f : State → α → State) (hf : ∀ s x, s.memInv = true → (f s x).memInv = true) (xs : List α) {s : State}
    (h : s.memInv = true) : (xs.foldl f s).memInv = true := by
  induction xs generalizing s with
  | nil => exact h
  | cons x xs ih => exact ih (hf s x h)

theorem writeWord_memInv (pa : Nat) (l : Line) (w : Nat) {s : State} (h : s.memInv = true) : (writeWord pa l w s).memInv = true := by
  have hp : ∀ ks : List Nat, (ks.foldl (fun s k => s.poke (pa + k) [l.byte k]) s).memInv = true :=
    fun ks => foldl_memInv _ (fun _ _ h => State.poke_memInv _ _ h) ks h
  unfold writeWord
  dsimp only
  split <;> split <;> first | exact State.poke_memInv _ _ h | exact hp _

theorem writeBack_memInv (pa : Nat) (l : Line) {s : State} (h : s.memInv = true) : (writeBack pa l s).memInv = true := by
  unfold writeBack
  split
  · exact foldl_memInv _ (fun _ w h => writeWord_memInv pa l w h) _ h
  · exact h

/-! ### What a correcting read changes (R154) -/

/-- A read at the home of a line changes nothing but the single-bit errors left and their count. -/
theorem State.correctLine_only (pa : Nat) (s : State) : ∃ l c, s.correctLine pa = { s with latent := l, corrected := c } := by
  unfold State.correctLine
  dsimp only
  split
  · exact ⟨s.latent, s.corrected, rfl⟩
  · exact ⟨_, _, rfl⟩

/-- A fold of reads that change no more than that changes no more either. -/
theorem foldl_corrects {α : Type} (f : State → α → State) (hf : ∀ s x, ∃ l c, f s x = { s with latent := l, corrected := c }) (xs : List α)
    (s : State) : ∃ l c, xs.foldl f s = { s with latent := l, corrected := c } := by
  induction xs generalizing s with
  | nil => exact ⟨s.latent, s.corrected, rfl⟩
  | cons x xs ih =>
    obtain ⟨l, c, h⟩ := hf s x
    obtain ⟨l', c', h'⟩ := ih (f s x)
    exact ⟨l', c', by rw [List.foldl_cons, h', h]⟩

/-- The reads of a walk. -/
theorem State.walkSeen_only (root va : Nat) (s : State) : ∃ l c, s.walkSeen root va = { s with latent := l, corrected := c } := by
  unfold State.walkSeen
  split
  · exact ⟨s.latent, s.corrected, rfl⟩
  · exact foldl_corrects _ (fun s p => s.correctLine_only p) _ s

/-- The reads of a unit of the device. -/
theorem State.unitSeen_only (va n : Nat) (s : State) : ∃ l c, s.unitSeen va n = { s with latent := l, corrected := c } := by
  unfold State.unitSeen
  split
  · exact ⟨s.latent, s.corrected, rfl⟩
  · refine foldl_corrects _ (fun s a => ?_) _ s
    obtain ⟨l, c, h⟩ := s.walkSeen_only s.ctx.root a
    dsimp only
    split
    · rename_i pa _
      obtain ⟨l', c', h'⟩ := (s.walkSeen s.ctx.root a).correctLine_only pa
      exact ⟨l', c', by rw [h', h]⟩
    · exact ⟨l, c, h⟩

/-- The reads of a group's members. -/
theorem State.membersSeen_only (g : Nat) (s : State) : ∃ l c, s.membersSeen g = { s with latent := l, corrected := c } := by
  obtain ⟨l, c, h⟩ := s.unitSeen_only (s.ctx.gtab + 16 * g) 16
  unfold State.membersSeen
  dsimp only
  split
  · rename_i bs _
    obtain ⟨l', c', h'⟩ := (s.unitSeen (s.ctx.gtab + 16 * g) 16).unitSeen_only (leNat (bs.take 8)) (4 * leNat ((bs.drop 8).take 4))
    exact ⟨l', c', by rw [h', h]⟩
  · exact ⟨l, c, h⟩

/-- The reads of all groups' members (R342). -/
theorem State.groupsSeen_only (s : State) : ∃ l c, s.groupsSeen = { s with latent := l, corrected := c } := by
  unfold State.groupsSeen
  split
  · exact ⟨s.latent, s.corrected, rfl⟩
  · exact foldl_corrects _ (fun s g => s.membersSeen_only g) _ s

end Sys2Proof.Machine
end

