-- ==== Sys2Proof/Laws/Orders.lean ====
section
/-! SUPPORT. What the operations can do that take the orders the spec leaves open, keep places at queues, watch the queued w-ops, and bind
windows. -/
namespace Sys2Proof.Machine

/-! ### The orders that R305 leaves open -/

@[simp] theorem State.defers_idle {s : State} (h : s.choices = []) (t : Target) : s.defers t = (false, s) := by
  unfold State.defers; rw [h]; cases t.place <;> rfl

/-- Deciding whether an access is deferred takes a choice and nothing else. -/
theorem State.defers_only (s : State) (t : Target) : ∃ cs, (s.defers t).2 = { s with choices := cs } := by
  unfold State.defers
  split
  · exact ⟨_, rfl⟩
  · exact ⟨_, rfl⟩
  · exact ⟨_, rfl⟩

theorem State.choose_idle {s : State} (h : s.choices = []) (o : MemOp) : s.choose o = (o.rest, s) := by
  simp [State.choose, h]

/-- A part that may be next is one that is left, and the upper half of a load only after its lower one (R157). -/
theorem MemOp.mem_first {o : MemOp} {p : Part} (h : p ∈ o.first) :
    p ∈ o.rest ∧ (∀ d form, o.kind = .load d form → p = .hi → o.parts.lo.isSome = true) := by
  unfold MemOp.first at h
  split at h
  · rw [List.mem_filter] at h
    refine ⟨h.1, fun _ _ _ hp => ?_⟩
    subst hp; simpa using h.2
  · next hk => exact ⟨h, fun d form hd => absurd hd (hk d form)⟩

/-- Choosing among the parts of an access takes a choice and nothing else. -/
theorem State.choose_only (s : State) (o : MemOp) : ∃ cs, (s.choose o).2 = { s with choices := cs } := by
  unfold State.choose
  split
  · exact ⟨s.choices, rfl⟩
  · split
    · exact ⟨s.choices, rfl⟩
    · exact ⟨_, rfl⟩

/-! ### Places at queues (R180) -/

theorem State.holdPlaces_mem (le k : Nat) (needs : List (Port × Nat × Nat)) (s : State) : (s.holdPlaces le k needs).mem = s.mem := by
  unfold State.holdPlaces
  induction needs generalizing s with
  | nil => rfl
  | cons nd nds ih =>
    rw [List.foldl_cons, ih]
    dsimp only
    split <;> split <;> simp only [State.updIn_mem, State.updOut_mem]

@[simp] theorem State.holdPlaces_nil (le k : Nat) (s : State) : s.holdPlaces le k [] = s := rfl

/-! ### Queued w-ops (R250) -/

/-- Watching the queued w-ops marks commands and their context, and changes nothing else. -/
theorem State.watchWops_only (s : State) : ∃ q b, s.watchWops = { s with quads := q, ctx := { s.ctx with unspec := b } } := by
  unfold State.watchWops
  split
  · exact ⟨s.quads, s.ctx.unspec, rfl⟩
  · exact ⟨_, _, rfl⟩

@[simp] theorem State.watchWops_idle {s : State} (h : s.quads.all (fun q => q.2.wops.isEmpty) = true) : s.watchWops = s := by
  unfold State.watchWops; rw [if_pos h]

/-- A command once marked stays so; the rest of it stays in any case. -/
theorem State.noteChange_broken (s : State) (c : WCmd) :
    (s.noteChange c).broken = (c.broken || s.recordsDiffer c || s.sourcesDiffer c) := rfl

@[simp] theorem State.noteChange_who (s : State) (c : WCmd) : (s.noteChange c).who = c.who := rfl

/-! ### Broken obligations (R10) -/

/-- `g0` stays as it is among free values (R34). -/
theorem freeG_zero (n k : Nat) (g : Vector Word 32) : (freeG n k g)[0] = g[0] := by simp [freeG]

/-- The user's `g` registers among free values. -/
theorem ThreadSet.unspecify_g (own : Bool) (n k : Nat) (t : ThreadSet) : (t.unspecify own n k).g = freeG n k t.g := by
  simp only [ThreadSet.unspecify, ThreadSet.unspecifyCsrs]; split <;> simp only

/-- `g0` stays 0 among free values (R34). -/
@[simp] theorem ThreadSet.unspecify_g0 (own : Bool) (n k : Nat) (t : ThreadSet) : (t.unspecify own n k).g[0] = t.g[0] := by
  rw [ThreadSet.unspecify_g]; exact freeG_zero n k t.g

/-- Where the set stands is no value that the program sees, and the registers of the runtime's own handler are none of the program's. -/
theorem ThreadSet.unspecify_kept (own : Bool) (n k : Nat) (t : ThreadSet) : (t.unspecify own n k).run = t.run ∧
    (t.unspecify own n k).pc = t.pc ∧ (t.unspecify own n k).pending = t.pending ∧ (own = false → (t.unspecify own n k).sg = t.sg) := by
  simp only [ThreadSet.unspecify, ThreadSet.unspecifyCsrs]
  split <;> simp only [true_and] <;> intro h <;> simp [h]

@[simp] theorem State.unspecify_idle {s : State} (h : s.ctx.unspec = false) : s.unspecify = s := by
  unfold State.unspecify; rw [h]; rfl

/-- What makes values free changes memory, the tiles' copies of it, the elements of the running context and the counter of free values, and nothing
else. -/
theorem State.unspecify_only (s : State) :
    ∃ m ts es n, s.unspecify = { s with mem := m, tiles := ts, ctx := { s.ctx with elems := es }, free := n } := by
  unfold State.unspecify
  split
  · exact ⟨_, _, _, _, rfl⟩
  · exact ⟨s.mem, s.tiles, s.ctx.elems, s.free, rfl⟩

/-- Of a tile's parts only its copies of memory become free, and they keep their tags, their places and which of their bytes are stored (R10). -/
theorem State.tileUnspecify_kept (s : State) (own : List (Nat × Nat)) (n : Nat) (tl : Tile) :
    (s.tileUnspecify own n tl).dirty = tl.dirty ∧ (s.tileUnspecify own n tl).tlb = tl.tlb ∧ (s.tileUnspecify own n tl).mx = tl.mx ∧
    (s.tileUnspecify own n tl).l1.map (·.pa) = tl.l1.map (·.pa) := by
  refine ⟨rfl, rfl, rfl, ?_⟩
  simp only [State.tileUnspecify, List.map_map]
  refine List.map_congr_left fun b _ => ?_
  simp only [Function.comp_apply]; split <;> rfl

/-- A line of the program's own memory holds, byte for byte, the free values that its home holds (R10). -/
theorem Line.unspecify_kept (n pa : Nat) (l : Line) : (l.unspecify n pa).stored = l.stored ∧ (l.unspecify n pa).poison = l.poison ∧
    (l.unspecify n pa).valid = l.valid ∧ (l.unspecify n pa).data = BitVec.ofNat 512 (leNat (freeBytes n pa 64)) := by
  simp only [Line.unspecify, and_self]

theorem Mem.wf_foldl_writeN {α : Type} (a : α → Nat) (bs : α → List Byte) (rs : List α) {m : List Host.Cell} (w : Mem.wf m = true) :
    Mem.wf (rs.foldl (fun m r => Mem.writeN (a r) (bs r) m) m) = true := by
  induction rs generalizing m with
  | nil => exact w
  | cons r rs ih => exact ih (Mem.wf_writeN _ _ w)

/-- A byte outside the ranges written keeps what it holds. -/
theorem Mem.read_foldl_writeN {α : Type} (a : α → Nat) (bs : α → List Byte) (rs : List α) (m : List Host.Cell) (x : Nat)
    (h : ∀ r ∈ rs, x < a r ∨ a r + (bs r).length ≤ x) : Mem.read x (rs.foldl (fun m r => Mem.writeN (a r) (bs r) m) m) = Mem.read x m := by
  induction rs generalizing m with
  | nil => rfl
  | cons r rs ih =>
    rw [List.foldl_cons, ih _ (fun q hq => h q (List.mem_cons_of_mem _ hq)), Mem.read_writeN_off _ (h r (List.mem_cons_self ..))]

/-- Memory keeps its canonical form among free values. -/
theorem State.unspecify_wf {s : State} (w : Mem.wf s.mem = true) : Mem.wf s.unspecify.mem = true := by
  unfold State.unspecify
  split
  · exact Mem.wf_foldl_writeN _ _ _ w
  · exact w

/-- Before a step commands and their context may be marked and values of the program made free, and nothing else changes. -/
theorem State.noted_only (s : State) :
    ∃ q b m ts es n, s.noted = { s with quads := q, mem := m, tiles := ts, ctx := { s.ctx with unspec := b, elems := es }, free := n } := by
  obtain ⟨q, b, h⟩ := s.watchWops_only
  obtain ⟨m, ts, es, n, h'⟩ := s.watchWops.unspecify_only
  refine ⟨q, b, m, ts, es, n, ?_⟩
  unfold State.noted; rw [h', h]

@[simp] theorem State.noted_idle {s : State} (h : s.quads.all (fun q => q.2.wops.isEmpty) = true) (hu : s.ctx.unspec = false) : s.noted = s := by
  unfold State.noted; rw [State.watchWops_idle h, State.unspecify_idle hu]

/-- Memory keeps its canonical form before a step. -/
theorem State.noted_wf {s : State} (w : Mem.wf s.mem = true) : Mem.wf s.noted.mem = true := by
  obtain ⟨q, b, h⟩ := s.watchWops_only
  refine State.unspecify_wf ?_
  rw [h]; exact w

@[simp] theorem State.noted_agenda (s : State) : s.noted.agenda = s.agenda := by
  obtain ⟨q, b, m, ts, es, n, h⟩ := s.noted_only; rw [h]

@[simp] theorem State.noted_power (s : State) : s.noted.power = s.power := by
  obtain ⟨q, b, m, ts, es, n, h⟩ := s.noted_only; rw [h]

@[simp] theorem State.noted_cur (s : State) : s.noted.cur = s.cur := by
  obtain ⟨q, b, m, ts, es, n, h⟩ := s.noted_only; rw [h]

@[simp] theorem State.noted_tick (s : State) : s.noted.tick = s.tick := by
  obtain ⟨q, b, m, ts, es, n, h⟩ := s.noted_only; rw [h]

/-- The token of a command under which nothing has changed is the one that its run gives. -/
@[simp] theorem State.tokenOf_sound {c : WCmd} (h : c.broken = false) (v : Word) (s : State) : s.tokenOf c v = (v, s) := by
  unfold State.tokenOf; rw [h]; rfl

/-! ### The timebase (R6) -/

@[simp] theorem State.timebase_toNat (s : State) : s.timebase.toNat = s.tick % 2 ^ 64 := by
  simp [State.timebase]

/-! ### Windows (R105, R108) -/

@[simp] theorem Window.bind_bound (id : BitVec 12) (w : Window) : (w.bind id).bound = some id := rfl

@[simp] theorem Window.unbind_bound (w : Window) : w.unbind.bound = none := by
  unfold Window.unbind; split <;> simp_all

/-- Unbinding keeps the record being written and the error. -/
theorem Window.unbind_kept (w : Window) : w.unbind.record = w.record ∧ w.unbind.seen = w.seen ∧ w.unbind.err = w.err ∧
    w.unbind.code = w.code := by
  unfold Window.unbind; split <;> exact ⟨rfl, rfl, rfl, rfl⟩

theorem Window.bind_kept (id : BitVec 12) (w : Window) : (w.bind id).record = w.record ∧ (w.bind id).seen = w.seen ∧
    (w.bind id).err = w.err ∧ (w.bind id).code = w.code := w.unbind_kept

/-! ### Traps -/

/-- A set whose double trap is reported takes no further one (R348). -/
theorem State.trapAt_of_halting {s : State} {le k : Nat} (h : (s.thOf le k).inSup = true) (hh : s.ctx.halting.contains (le, k) = true)
    (cause : Nat) (tval : Word) (held : Option HeldResult) : s.trapAt le k cause tval held = s := by
  unfold State.trapAt; dsimp only; rw [if_pos h, if_pos hh]

/-! ### The words of a `vrst` (R162) -/

@[simp] theorem State.chooseWords_idle {s : State} (h : s.choices = []) (ws : List Nat) : s.chooseWords ws = (ws, s) := by
  unfold State.chooseWords; rw [h]

/-- A choice among the words takes a choice and nothing else, and names words of the list. -/
theorem State.chooseWords_only (s : State) (ws : List Nat) :
    (∃ cs, (s.chooseWords ws).2 = { s with choices := cs }) ∧ ∀ w ∈ (s.chooseWords ws).1, w ∈ ws := by
  unfold State.chooseWords
  split
  · exact ⟨⟨s.choices, rfl⟩, fun _ h => h⟩
  · split
    · exact ⟨⟨s.choices, rfl⟩, fun _ h => h⟩
    · refine ⟨⟨_, rfl⟩, fun w h => ?_⟩
      split at h
      · exact h
      · exact List.mem_of_mem_drop (List.mem_of_mem_take h)

/-! ### Calm points (R360) -/

/-- Where no calm point is pending, the timebase goes as far as the plane lets it. -/
theorem State.advanceCalm_free {s : State} (h : s.ctx.calm = none) (n : Nat) : s.advanceCalm n = s.advancePlane n := by
  unfold State.advanceCalm; rw [h]

/-- A tick that every set ends quiet, up to T, is the last before the partition stops (R359). -/
theorem State.advanceCalm_quiet {s : State} {t : Nat} (h : s.ctx.calm = some t) (hq : s.allQuiet = true) (ht : s.tick ≤ t)
    (hd : s.planeDue.all (fun d => decide (s.tick < d)) = true) {n : Nat} (hn : 0 < n) :
    s.advanceCalm n = (s.stopAt (s.tick + 1) n).stopAll := by
  unfold State.advanceCalm
  simp [h, hq, ht, hn, hd]

/-- A PC sample that has been made is not made again at its tick (R372). -/
theorem State.pcSample_once (s : State) (le : Nat) (h : s.sampleDue le = false) : s.pcSample le = s := by
  unfold State.pcSample; rw [h]; rfl

/-- A partition stopped at its calm point has none pending. -/
@[simp] theorem State.stopAll_ctx (s : State) : s.stopAll.ctx.stopped = true ∧ s.stopAll.ctx.calm = none := by
  unfold State.stopAll; split <;> exact ⟨rfl, rfl⟩

/-! ### Locations (R130) -/

/-- Ranges of one page share a location exactly where their addresses overlap. -/
theorem State.sharesPlace_page {a b : Nat} (h : a / 65536 = b / 65536) (who : Issuer) (n m : Nat) (s : State) :
    s.sharesPlace who a n b m = true ↔ a < b + m ∧ b < a + n := by
  unfold State.sharesPlace
  simp only [h, beq_self_eq_true, Bool.true_or, Bool.and_true, Bool.and_eq_true, decide_eq_true_eq]
  omega

/-- Ranges whose bytes do not stand at one offset of their pages share none. -/
theorem State.sharesPlace_offset {who : Issuer} {a n b m : Nat} {s : State} (h : s.sharesPlace who a n b m = true) :
    a % 65536 < b % 65536 + m ∧ b % 65536 < a % 65536 + n := by
  unfold State.sharesPlace at h
  simp only [Bool.and_eq_true, decide_eq_true_eq] at h
  exact h.1

/-! ### Channel 0 (R167) -/

/-- The message that channel 0 would dispatch stands in the queue, is not taken yet, and finds a free set of its allotment. -/
theorem State.oldestReady_mem {s : State} {le : Nat} {held : List Nat} {qs : List QMsg} {k : Nat} {m : Option QMsg}
    (h : s.oldestReady le held qs = some (k, m)) :
    ∃ q ∈ qs, m = some q ∧ q.taken = false ∧ hdrChan q.msg.header = 0 ∧ (s.allotFor le q.msg).bind (s.freeSetOf le) = some k := by
  induction qs generalizing held with
  | nil => simp [State.oldestReady] at h
  | cons q qs ih =>
    unfold State.oldestReady at h
    split at h
    · obtain ⟨r, hr, h⟩ := ih h; exact ⟨r, List.mem_cons_of_mem _ hr, h⟩
    · next hq =>
      split at h
      · next k' hk =>
        simp only [Option.some.injEq, Prod.mk.injEq] at h
        obtain ⟨rfl, rfl⟩ := h
        simp only [Bool.or_eq_true, not_or, Bool.not_eq_true, bne_eq_false_iff_eq] at hq
        exact ⟨q, List.mem_cons_self .., rfl, hq.1.1, hq.1.2, hk⟩
      · obtain ⟨r, hr, h⟩ := ih h; exact ⟨r, List.mem_cons_of_mem _ hr, h⟩

end Sys2Proof.Machine
end

