-- ==== Sys2Proof/Laws/Time.lean ====
section
/-! SUPPORT. What happens before a step and as a tick ends, once for all: which parts of the state the retirements and retries of `State.atOnce` touch
(R113, R376, R377), and how far an advance of the timebase goes (R124, R188, R372, R386, R387). -/
namespace Sys2Proof.Machine

/-! ### Retirement and allotting (R112, R113, R376, R377) -/

/-- `t` differs from `s` only where the release of allotments and the allotting of shares leave their marks. -/
def State.Allots (s t : State) : Prop :=
  ∃ es ls fs rs ts m p l n ws, t = { s with
    ctx := { s.ctx with elems := es, launches := ls, flights := fs, released := rs }
    tiles := ts, mem := m, poison := p, latent := l, nextId := n, windows := ws }

theorem State.Allots.refl (s : State) : s.Allots s := ⟨_, _, _, _, _, _, _, _, _, _, rfl⟩

theorem State.Allots.trans {s t u : State} (h : s.Allots t) (h' : t.Allots u) : s.Allots u := by
  obtain ⟨_, _, _, _, _, _, _, _, _, _, rfl⟩ := h
  obtain ⟨_, _, _, _, _, _, _, _, _, _, rfl⟩ := h'
  exact ⟨_, _, _, _, _, _, _, _, _, _, rfl⟩

/-- A fold of steps that leave only such marks leaves only such marks. -/
theorem foldl_allots {α : Type} (f : State → α → State) (hf : ∀ (s : State) (x : α), s.Allots (f s x)) (xs : List α) (s : State) : s.Allots (xs.foldl f s) := by
  induction xs generalizing s with
  | nil => exact .refl s
  | cons x xs ih => exact (hf s x).trans (ih _)

theorem State.noteReleased_allots (le : Nat) (s : State) : s.Allots (s.noteReleased le) := by
  unfold State.noteReleased; split <;> exact ⟨_, _, _, _, _, _, _, _, _, _, rfl⟩

theorem State.noteRunnable_allots (le : Nat) (s : State) : s.Allots (s.noteRunnable le) := by
  unfold State.noteRunnable State.noteBusy State.updTile State.setTile; split
  · exact ⟨_, _, _, _, _, _, _, _, _, _, rfl⟩
  · exact .refl s

theorem State.updEl_allots (le : Nat) (f : Element → Element) (s : State) : s.Allots (s.updEl le f) := ⟨_, _, _, _, _, _, _, _, _, _, rfl⟩

theorem State.releaseAllot_allots (le id : Nat) (s : State) : s.Allots (s.releaseAllot le id) := by
  unfold State.releaseAllot
  split
  · exact .refl s
  · exact ((s.noteRunnable_allots le).trans (State.noteReleased_allots le _)).trans (State.updEl_allots le _ _)

theorem State.retire_allots (le : Nat) (a : Allot) (s : State) : s.Allots (s.retire le a) := by
  unfold State.retire
  dsimp only
  split
  · exact (s.releaseAllot_allots le a.id).trans ⟨_, _, _, _, _, _, _, _, _, _, rfl⟩
  · exact s.releaseAllot_allots le a.id

theorem State.poke_allots (a : Nat) (bs : List Byte) (s : State) : s.Allots (s.poke a bs) := ⟨_, _, _, _, _, _, _, _, _, _, rfl⟩

theorem State.newId_allots (s : State) : s.Allots s.newId.2 := ⟨_, _, _, _, _, _, _, _, _, _, rfl⟩

theorem State.launchFlight_allots (f : Flight) (s : State) : s.Allots (s.launchFlight f) := ⟨_, _, _, _, _, _, _, _, _, _, rfl⟩

theorem State.allotOn_allots (le ttype base k : Nat) (tt : TaskType) (launch : Option Nat) (s : State) : s.Allots (s.allotOn le ttype base k tt launch) := by
  unfold State.allotOn State.fillLocal
  exact ((s.newId_allots.trans (State.poke_allots ..)).trans (State.poke_allots ..)).trans (State.updEl_allots ..)

theorem State.launchOne_allots (w id : Nat) (r : LaunchRec) (tt : TaskType) (p : Nat × Nat) (s : State) : s.Allots (s.launchOne w id r tt p) := by
  unfold State.launchOne
  split
  · exact (State.allotOn_allots ..).trans (State.launchFlight_allots ..)
  · exact .refl s

theorem State.allotShare_allots (w id : Nat) (r : LaunchRec) (tt : TaskType) (les : List (Nat × Nat)) (s : State) : s.Allots (s.allotShare w id r tt les) := by
  unfold State.allotShare
  refine State.Allots.trans ?_ (foldl_allots _ (fun s p => s.launchOne_allots w id r tt p) _ _)
  split <;> exact ⟨_, _, _, _, _, _, _, _, _, _, rfl⟩

theorem State.keepHead_allots (w id : Nat) (left : List (Nat × List (Nat × Nat))) (s : State) : s.Allots (s.keepHead w id left) := by
  unfold State.keepHead; split <;> exact ⟨_, _, _, _, _, _, _, _, _, _, rfl⟩

theorem State.tryShare_allots (w c : Nat) (s : State) : s.Allots (s.tryShare w c) := by
  unfold State.tryShare
  split
  · exact .refl s
  · dsimp only; split
    · exact .refl s
    · split
      · exact .refl s
      · split
        · exact .refl s
        · exact (s.allotShare_allots ..).trans (State.keepHead_allots ..)

theorem State.retryShare_allots (w c : Nat) (s : State) : s.Allots (s.retryShare w c) := by
  unfold State.retryShare
  split
  · exact s.tryShare_allots w c
  · exact .refl s

/-- What happens at once touches allotments, their memory, launches and windows, and nothing else. -/
theorem State.atOnce_allots (s : State) : s.Allots s.atOnce := by
  unfold State.atOnce
  refine State.Allots.trans (t := s.retireDead) ?_ ?_
  · unfold State.retireDead
    refine foldl_allots _ (fun (s : State) e => foldl_allots _ (fun (s : State) a => ?_) _ s) _ s
    split
    · exact .refl s
    · exact s.retire_allots _ a
  · generalize s.retireDead = t
    unfold State.retryShares
    split
    · exact .refl t
    · exact (foldl_allots _ (fun (s : State) c => foldl_allots (fun (s : State) (w : Nat × Window) => s.retryShare w.1 c) (fun s w => s.retryShare_allots w.1 c) s.windows s) _ t).trans ⟨_, _, _, _, _, _, _, _, _, _, rfl⟩

@[simp] theorem State.atOnce_agenda (s : State) : s.atOnce.agenda = s.agenda := by
  obtain ⟨_, _, _, _, _, _, _, _, _, _, h⟩ := s.atOnce_allots; rw [h]

@[simp] theorem State.atOnce_power (s : State) : s.atOnce.power = s.power := by
  obtain ⟨_, _, _, _, _, _, _, _, _, _, h⟩ := s.atOnce_allots; rw [h]

@[simp] theorem State.atOnce_cur (s : State) : s.atOnce.cur = s.cur := by
  obtain ⟨_, _, _, _, _, _, _, _, _, _, h⟩ := s.atOnce_allots; rw [h]

@[simp] theorem State.atOnce_tick (s : State) : s.atOnce.tick = s.tick := by
  obtain ⟨_, _, _, _, _, _, _, _, _, _, h⟩ := s.atOnce_allots; rw [h]

@[simp] theorem State.atOnce_quads (s : State) : s.atOnce.quads = s.quads := by
  obtain ⟨_, _, _, _, _, _, _, _, _, _, h⟩ := s.atOnce_allots; rw [h]

@[simp] theorem State.atOnce_unspec (s : State) : s.atOnce.ctx.unspec = s.ctx.unspec := by
  obtain ⟨_, _, _, _, _, _, _, _, _, _, h⟩ := s.atOnce_allots; rw [h]

/-- A fold that leaves its state alone at every member. -/
theorem foldl_still {α β : Type} (f : β → α → β) (b : β) (xs : List α) (h : ∀ x ∈ xs, f b x = b) : xs.foldl f b = b := by
  induction xs with
  | nil => rfl
  | cons x xs ih =>
    rw [List.foldl_cons, h x (List.mem_cons_self ..)]
    exact ih (fun y hy => h y (List.mem_cons_of_mem _ hy))

/-- Where every allotment is live and no retry is due, nothing happens at once. -/
theorem State.atOnce_still {s : State} (h : ∀ e ∈ s.ctx.elems, ∀ a ∈ e.2.allots, s.live e.1 a = true) (hr : s.ctx.released = []) : s.atOnce = s := by
  have hd : s.retireDead = s :=
    foldl_still _ s _ (fun e he => foldl_still _ s _ (fun a ha => by rw [h e he a ha]; rfl))
  unfold State.atOnce State.retryShares
  rw [hd, hr]; simp

theorem State.fillLocal_memInv (le base size : Nat) (image : List Byte) {s : State} (h : s.memInv = true) : (s.fillLocal le base size image).memInv = true :=
  State.poke_memInv _ _ (State.poke_memInv _ _ h)

theorem State.noteRunnable_memInv (le : Nat) {s : State} (h : s.memInv = true) : (s.noteRunnable le).memInv = true := by
  unfold State.memInv; rw [State.noteRunnable_mem]; exact h

theorem State.noteReleased_memInv (le : Nat) {s : State} (h : s.memInv = true) : (s.noteReleased le).memInv = true := by
  unfold State.noteReleased; split <;> exact h

theorem State.releaseAllot_memInv (le id : Nat) {s : State} (h : s.memInv = true) : (s.releaseAllot le id).memInv = true := by
  unfold State.releaseAllot
  split
  · exact h
  · exact State.noteReleased_memInv le (State.noteRunnable_memInv le h)

theorem State.retire_memInv (le : Nat) (a : Allot) {s : State} (h : s.memInv = true) : (s.retire le a).memInv = true := by
  unfold State.retire
  dsimp only
  split <;> exact s.releaseAllot_memInv le a.id h

theorem State.launchOne_memInv (w id : Nat) (r : LaunchRec) (tt : TaskType) (p : Nat × Nat) {s : State} (h : s.memInv = true) :
    (s.launchOne w id r tt p).memInv = true := by
  unfold State.launchOne
  split
  · exact State.fillLocal_memInv _ _ _ _ h
  · exact h

theorem State.allotShare_memInv (w id : Nat) (r : LaunchRec) (tt : TaskType) (les : List (Nat × Nat)) {s : State} (h : s.memInv = true) :
    (s.allotShare w id r tt les).memInv = true := by
  unfold State.allotShare
  exact foldl_memInv _ (fun s p hs => State.launchOne_memInv w id r tt p hs) _ (by split <;> exact h)

theorem State.keepHead_memInv (w id : Nat) (left : List (Nat × List (Nat × Nat))) {s : State} (h : s.memInv = true) : (s.keepHead w id left).memInv = true := by
  unfold State.keepHead; split <;> exact h

theorem State.tryShare_memInv (w c : Nat) {s : State} (h : s.memInv = true) : (s.tryShare w c).memInv = true := by
  unfold State.tryShare
  split
  · exact h
  · dsimp only; split
    · exact h
    · split
      · exact h
      · split
        · exact h
        · exact State.keepHead_memInv _ _ _ (State.allotShare_memInv _ _ _ _ _ h)

/-- Memory keeps its canonical form through what happens at once. -/
theorem State.atOnce_memInv {s : State} (h : s.memInv = true) : s.atOnce.memInv = true := by
  have hd : s.retireDead.memInv = true := by
    unfold State.retireDead
    refine foldl_memInv _ (fun s e hs => foldl_memInv _ (fun s a hs => ?_) _ hs) _ h
    split
    · exact hs
    · exact State.retire_memInv _ a hs
  unfold State.atOnce
  generalize s.retireDead = t at hd
  unfold State.retryShares
  split
  · exact hd
  · refine foldl_memInv (fun s c => s.windows.foldl (fun s w => s.retryShare w.1 c) s) (fun s c hs => foldl_memInv _ (fun s w hs => ?_) _ hs) _ hd
    unfold State.retryShare
    split
    · exact State.tryShare_memInv _ _ hs
    · exact hs

/-! ### The ends of ticks -/

theorem lt_nextMultiple {n : Nat} (h : 0 < n) (t : Nat) : t < nextMultiple n t := by
  have := Nat.mod_lt t h
  unfold nextMultiple; omega

theorem nextMultiple_mod {n : Nat} (h : 0 < n) (t : Nat) : nextMultiple n t % n = 0 := by
  have hm := Nat.mod_lt t h
  have : nextMultiple n t = n * (t / n + 1) := by
    have := Nat.div_add_mod t n
    unfold nextMultiple; rw [Nat.mul_add, Nat.mul_one]; omega
  rw [this]; exact Nat.mul_mod_right n _

theorem foldl_min_le (x : Nat) (ds : List Nat) : ds.foldl min x ≤ x := by
  induction ds generalizing x with
  | nil => exact Nat.le_refl x
  | cons d ds ih => exact Nat.le_trans (ih _) (Nat.min_le_left x d)

theorem foldl_min_le_mem {d : Nat} {ds : List Nat} (h : d ∈ ds) (x : Nat) : ds.foldl min x ≤ d := by
  induction ds generalizing x with
  | nil => cases h
  | cons e ds ih =>
    rcases List.mem_cons.mp h with rfl | h
    · exact Nat.le_trans (foldl_min_le _ ds) (Nat.min_le_right x d)
    · exact ih h _

theorem lt_foldl_min {t x : Nat} {ds : List Nat} (hx : t < x) (h : ∀ d ∈ ds, t < d) : t < ds.foldl min x := by
  induction ds generalizing x with
  | nil => exact hx
  | cons d ds ih =>
    exact ih (Nat.lt_min.mpr ⟨hx, h d (List.mem_cons_self ..)⟩) (fun e he => h e (List.mem_cons_of_mem _ he))

/-- The next due tick is still to come. -/
theorem State.tick_lt_nextDue (s : State) : s.tick < s.nextDue := by
  unfold State.nextDue
  exact lt_foldl_min (lt_nextMultiple (by decide) _) (fun d h => of_decide_eq_true (List.mem_filter.mp h).2)

/-- It comes no later than the next budget period (R124). -/
theorem State.nextDue_le_period (s : State) : s.nextDue ≤ nextMultiple 512 s.tick := by
  unfold State.nextDue; exact foldl_min_le _ _

/-- It comes no later than any tick to come at which something falls due. -/
theorem State.nextDue_le {s : State} {d : Nat} (h : d ∈ s.dues) (ht : s.tick < d) : s.nextDue ≤ d := by
  unfold State.nextDue; exact foldl_min_le_mem (List.mem_filter.mpr ⟨h, decide_eq_true ht⟩) _

/-- An advance that passes nothing due goes on after the tick has ended. -/
theorem State.advanceTime_within {s : State} {n : Nat} (hn : 0 < n) (h : s.closeTick.tick + n ≤ s.closeTick.nextDue) :
    s.advanceTime n = s.closeTick.advanceCalm n := by
  unfold State.advanceTime
  rw [if_neg (by omega)]
  dsimp only
  rw [if_neg (by omega)]

/-- A tick at which nothing is due ends as it stands. -/
theorem State.closeTick_still {s : State} (h : s.samplers = []) (hb : s.boundaryDue = false)
    (hg : ∀ c < 16, s.intervalDue c = false ∧ s.stepDue c = false)
    (hw : ∀ e ∈ s.ctx.elems, ∀ k < 4, (s.thOf e.1 k).waiting = none) : s.closeTick = s := by
  have h1 : s.takeSamples = s := by unfold State.takeSamples; rw [h]; rfl
  have h2 : s.beginPeriod = s := by unfold State.beginPeriod; rw [hb]; rfl
  have h3 : s.governAll = s := by
    refine foldl_still _ s _ (fun c hc => ?_)
    have hc := hg c (List.mem_range.mp hc)
    have : s.govern c (s.governor c).temp = s := by unfold State.govern; rw [hc.1]; rfl
    rw [this]; unfold State.stepDown; rw [hc.2]; rfl
  have h4 : s.closeWaits = s := by
    unfold State.closeWaits
    split
    · rfl
    · refine foldl_still _ s _ (fun p hp => ?_)
      obtain ⟨e, he, hp⟩ := List.mem_flatMap.mp hp
      obtain ⟨k, hk, rfl⟩ := List.mem_map.mp hp
      unfold State.closeWait
      rw [hw e he k (List.mem_range.mp hk)]
  unfold State.closeTick; rw [h1, h2, h3, h4]

/-- A period that has begun does not begin again (R124). -/
theorem State.beginPeriod_once {s : State} (h : s.boundaryDue = false) : s.beginPeriod = s := by
  unfold State.beginPeriod; rw [h]; rfl

/-- A governor decides once in an interval (R386). -/
theorem State.govern_once {s : State} {c : Nat} (h : s.intervalDue c = false) (temp : Nat) : s.govern c temp = s := by
  unfold State.govern; rw [h]; rfl

/-- Within 1 µs of a step by rank 1 there is no other (R387). -/
theorem State.stepDown_spaced {s : State} {c t : Nat} (h : (s.governor c).stepped = some t) (ht : s.tick < t + 1000) : s.stepDown c = s := by
  unfold State.stepDown State.stepDue
  simp only [h]
  rw [if_neg]
  simp only [Bool.and_eq_true, decide_eq_true_eq, not_and]
  omega

/-- A wait that a tick has ended ends with the entries of that tick, whatever the queue holds since (R188). -/
theorem State.waitEnds_waited {s : State} {le k : Nat} {w : Nat × Nat × Nat} {n : Nat} (h : (s.thOf le k).waiting = some w)
    (hw : (s.thOf le k).waited = some n) (port : Nat) : s.waitEnds le k port = some n := by
  unfold State.waitEnds; rw [h, hw]; rfl

end Sys2Proof.Machine
end

