-- ==== Sys2Proof/Tests/Slice0.lean ====
section
/-! SUPPORT. Tests: ill-formed terms that `wellFormed` refuses, words of the spec that decode to the instructions it names, states that meet the
hypotheses of each obligation, and single steps whose results the spec works out. -/
namespace Sys2Proof.Tests
open Sys2Proof Sys2Proof.Machine

section
set_option Elab.async false

/-! ### Ill-formed terms: one for each check of WellFormed.lean -/

/-- Every term of a list is refused. -/
def allIll (l : List Instr) : Bool := l.all (fun i => !i.wellFormed)

/-- `pi` is no destination and `po` no source (R35): integer and control rows. -/
theorem test_illformed_integer : allIll [.add (.port .pi) (.reg 1) (.reg 2), .sub (.reg 1) (.port .po) (.reg 2),
    .lea3 (.reg 1) (.reg 2) (.port .po), .clz (.port .pi) (.reg 1), .popc (.reg 1) (.port .po), .bins 1 (.port .po) (.reg 2),
    .sel 1 (.reg 2) (.port .po), .addi (.port .pi) (.reg 1) 0, .srai (.reg 1) (.port .po) 0, .ldhi (.port .pi) 0, .pcadd (.port .pi) 0,
    .beq (.port .po) (.reg 1) 0, .bgen (.reg 1) (.port .po) 0, .jal (.port .pi) 0, .jalr (.port .pi) 1 0,
    .callat (.port .pi) (.reg 1) 2 3, .callat (.reg 1) (.port .po) 2 3, .callat (.reg 1) (.reg 2) 3 29] = true := by decide

/-- Memory rows (R35, R40, R41): no `pi` loaded into, no `po` stored from, a fence that names a kind. -/
theorem test_illformed_memory : allIll [.ldn8 (.port .pi) 1 0, .vldt (.port .pi) 1 0, .st8 (.port .po) 1 0, .vstt (.port .po) 1 0,
    .lda (.port .pi) 1 .el .w8, .stl (.port .po) 1 .el .w8, .ldv (.port .pi) 1 (.reg 2) .el, .ldv (.reg 1) 1 (.port .po) .el,
    .stv (.port .po) 1 .el, .vrst 1 (.port .po), .aadd (.port .pi) 1 (.reg 2) true false, .aswp (.reg 1) 1 (.port .po) true false,
    .acas 1 2 (.port .po) true false, .fenc 1 false false false .dv] = true := by decide

/-- Floating-point and vector rows (R35, R42, R43, R52). -/
theorem test_illformed_float : allIll [.fadd .f32 (.port .pi) (.reg 1) (.reg 2), .fsgn .f64 (.reg 1) (.port .po) (.reg 2),
    .fmax .f32 (.reg 1) (.reg 2) (.port .po), .fsqrt .f32 (.port .pi) (.reg 1), .fmov .f16 (.reg 1) (.port .po),
    .ffma true (.reg 1) (.reg 2) (.reg 3) (.port .po), .fcmp .f32 .lt (.port .pi) (.reg 1) (.reg 2), .fcvt .f32 .f32 .dyn (.reg 1) (.reg 2),
    .fcvt .i64 .n32 .dyn (.reg 1) (.reg 2), .fcvt .f32 .f64 .dyn (.port .pi) (.reg 2), .fmovi (.reg 1) 0x7F9, .fmovi (.reg 1) 0xFFF,
    .fmovi (.port .pi) 0, .ftc (.reg 1) 2 false 1, .ftc (.port .pi) 2 true 1, .fstc 1 (.reg 2) false 3, .fstc 1 (.port .po) true 3] = true := by decide

theorem test_illformed_vector : allIll [.vadd .i8 (.port .pi) (.reg 1) (.reg 2), .vcmp .n16 (.reg 1) (.reg 2) (.port .po),
    .vabs .n32 (.reg 1) (.reg 2), .vneg .n8 (.reg 1) (.reg 2), .vand .f32 (.reg 1) (.reg 2) (.reg 3), .vshr .bf16 (.reg 1) (.reg 2) (.reg 3),
    .vbc .f32 (.port .pi) (.reg 1), .vred .f32 (.reg 1) (.port .po), .vins .f32 1 (.reg 2) 4, .vins .i16 1 (.reg 2) 8, .vext .n8 (.reg 1) (.reg 2) 16,
    .vsel .f32 1 (.reg 2) (.port .po), .vfmaF32 (.port .pi) (.reg 1) (.reg 2) (.reg 3), .vfmaBf16 (.reg 1) (.reg 2) (.reg 3) (.port .po),
    .vcvt .f32 .f32 (.reg 1) (.reg 2), .vcvt .f32 .i32 (.port .pi) (.reg 2), .wact 1 2 (.port .po), .wscl 1 2 (.port .po)] = true := by decide

/-- Engine, message, group and carousel rows (R35, R46 to R49, R183, R188). -/
theorem test_illformed_engines : allIll [.cpy 1 2 3 (.port .po), .cpym (.port .pi) 1 2 (.reg 3), .rbr (.reg 1) 1 2 (.port .po),
    .mcap 1 (.port .po) (.reg 2), .send 1 2 9 none, .send 1 31 2 none, .send 1 2 0 none, .gsend 1 25 8 none, .sendm 1 2 0 none, .sendm 1 2 9 none,
    .mid (.port .pi), .spawn 1 (.port .po) 2 3, .spawn 1 (.reg 1) 2 29, .alw (.port .pi) (.reg 1), .qwait (.reg 1) 33 (.reg 2),
    .qwait (.reg 1) 38 (.reg 2), .qwait (.port .pi) 32 (.reg 2), .qwait (.reg 1) 32 (.port .po), .hmask (.reg 1) (.port .po) (.reg 2),
    .gid (.port .pi) 0, .merge 1 2 (.port .po), .krd (.port .pi) 1 0, .xst 1 2 (.port .po), .csub (.port .pi) 1 2, .cskip (.port .pi) 1 2,
    .cstat (.reg 1) 2 3, .cstat (.port .pi) 2 0] = true := by decide

/-- Rendering and system rows (R49, R50, R356). -/
theorem test_illformed_system : allIll [.boxt 1 31 2 3, .trit 1 31 2 3, .spush (.port .po), .spop (.port .pi), .edg 30 1 2, .cov 1 30 2 3,
    .qmrg 31 1 2 3, .qmrg 1 31 2 3, .qmrg 1 2 31 3, .smp 29 1 2, .smp 1 2 31, .smpl 29 1 2 3, .txl 1 2 31, .tret 3, .mark (.port .po) 0,
    .csrr (.reg 1) 0, .csrr (.reg 1) 0x56, .csrr (.port .pi) 1, .csrw (.reg 1) (.reg 2) 0x10, .csrw (.reg 1) (.reg 2) 0x99,
    .csrs (.reg 1) (.reg 2) 0x23, .csrc (.reg 1) (.port .po) 2] = true := by decide

/-- A load request that is well formed. -/
def goodLoad : LoadRequest where
  narrow := [0, 1, 2, 4, 5, 6, 8, 9, 10, 12, 13, 14]
  wide := [3, 7, 11, 15]
  ctxid := 3
  asid := 5
  root := 0x4000
  ttab := 0x10000000000
  gtab := 0
  image := ⟨0x10000000000, 0x10000030000, some 0x10000020000, 0x10000040000, some 0x10000000000, some 0x10000010000⟩
  maint := false
  jobseed := 0
  windows := [0]
  ringBase := 0
  tracked := [(0x10000010000, 0x10000)]
  trust := []
  carousels := []

/-- The steps of the other agents: ranges of elements, tiles, quads, chiplets, windows, carousels, channels and addresses. -/
theorem test_illformed_steps : allIll [.launchWindowWrite 64 0 [0], .launchWindowWrite 0 0 [], .launchWindowWrite 0 127 [0, 0], .lstatRead 64,
    .launchDispatch 64, .launchShareRetry 64 0, .launchShareRetry 0 16, .activationDispatch 262144, .pcSample 262144, .tileIdle 4096,
    .matrixCommandComplete 4096, .slotAnnouncement 4096, .lossRecord 4096, .splitQueue 0 4, .cloneInstall 0 30, .mergeExportQueue 262144 5,
    .mergeImportQueue 0 30, .pageWalk 4096 0, .pageWalk 0 (2 ^ 49), .shootdown (2 ^ 49) 0, .shootdown 0 (2 ^ 49 + 1), .ldvWake 262144 0,
    .remoteLocalAccess 262144 0, .memoryOperationComplete 262144 0, .allotmentRetire 262144 0, .scrub 4, .portUnblock 0 4, .doneComplete 0 4,
    .qwaitExpiry 262144 0, .fetchLineFill 0 4, .fencComplete 0 4 0, .copyCommandComplete 4096 0, .wopExecute 65536, .wopQuantumEnd 65536,
    .sramRailWindow 65536, .clenWrite 4 0, .ncmtWrite 4 0, .tableCopyComplete 4, .arbiterTurn 4, .frameRead 4, .captureComplete 0 3,
    .captureComplete 4096 0, .contextResume 1 [] [], .governorInterval 16 0, .overcurrent 16 0, .registerWrite 0 [],
    .registerWrite 0x100000 [0]] = true ∧ (Instr.contextStart goodLoad).wellFormed = true := by decide

/-- A load request needs a partition, an aligned root, a window below 64, whole tracked blocks, whole trust windows, carousels
below 4 and an image placed and labelled by R391. -/
theorem test_illformed_load : allIll ([{ goodLoad with narrow := [] }, { goodLoad with root := 0x4008 }, { goodLoad with windows := [] },
    { goodLoad with windows := [64] }, { goodLoad with tracked := [(0x10000000100, 0x10000)] }, { goodLoad with tracked := [(0, 2 ^ 28 + 65536)] },
    { goodLoad with trust := [(1, 256, 64)] }, { goodLoad with trust := List.replicate 5 (0, 0, 0) },
    { goodLoad with carousels := [⟨4, 0, 1, none⟩] }, { goodLoad with carousels := [⟨0, 0, 4097, none⟩] },
    { goodLoad with image := { goodLoad.image with trapend := none } }, { goodLoad with image := { goodLoad.image with trapentry := some 0x10000000100 } },
    { goodLoad with image := { goodLoad.image with text := 0x10000000100 } },
    { goodLoad with image := { goodLoad.image with pool := some 0x10000038000 } },
    { goodLoad with image := { goodLoad.image with pool := some 0x10000030000 } }, { goodLoad with image := { goodLoad.image with pool := some 0x10000020004 } }].map .contextStart) = true := by decide

/-! ### Words of the spec

Each word is written out in the spec beside the instruction it stands for. -/

/-- Every word of a list decodes to the instruction beside it. -/
def allDecode (l : List (Code × Instr)) : Bool := l.all (fun p => match decode p.1 with
  | .ok i => decide (i = p.2)
  | .error _ => false)

/-- R189, R192, idiom 2, Worked encodings. -/
theorem test_decode_integer : allDecode [(0x01104080, .add (.reg 4) (.reg 4) (.reg 2)), (0x011461E4, .lea3 (.reg 5) (.reg 6) (.reg 7)),
    (0x01060003, .or (.reg 1) (.port .pi) (.reg 0)), (0x020C0064, .addi (.reg 3) (.reg 0) 100), (0x0230CFFF, .addi (.reg 12) (.reg 12) (-1)),
    (0x06462020, .slli (.reg 17) (.port (.q 0)) 32), (0x0C0D2345, .ldhi (.reg 3) 0x12345), (0x020C3678, .addi (.reg 3) (.reg 3) 0x678),
    (0x02000000, .addi (.reg 0) (.reg 0) 0)] = true := by decide

/-- R193 to R195, R210, R117. -/
theorem test_decode_control : allDecode [(0x140C4005, .bltn (.reg 3) (.reg 4) 5), (0x11080FFD, .bne (.reg 2) (.reg 0) (-3)),
    (0x15453001, .bgen (.reg 17) (.reg 19) 1), (0x167C0064, .jal (.reg 31) 100), (0x1701F000, .jalr (.reg 0) 31 0),
    (0x180C1500, .rpt 3 0 1 1 1), (0x180C1400, .rpt 3 0 1 1 0), (0x1A55400C, .bsiglt 21 20 12),
    (0x1934C381, .callat (.reg 13) (.reg 12) 14 1)] = true := by decide

/-- R157 to R162. The `stv` of g22 to [g21] has a in bits 17 to 12 by R41; the line beside it in Ordering prints 5 there (log entry 6). -/
theorem test_decode_memory : allDecode [(0x26103001, .ld64 (.reg 4) 3 1), (0x33103002, .vld (.reg 4) 3 2), (0x2F081000, .fldt32 (.reg 2) 1 0),
    (0x2434B00A, .ldn32 (.reg 13) 11 10), (0x2B04B000, .fld32 (.reg 1) 11 0), (0x2B28F004, .fld32 (.reg 10) 15 4),
    (0x2934B00A, .st32 (.reg 13) 11 10), (0x370C7023, .lda (.reg 3) 7 .dv .w64), (0x38085012, .stl (.reg 2) 5 .tl .w32),
    (0x390C7204, .ldv (.reg 3) 7 (.reg 8) .dv), (0x3A247004, .stv (.reg 9) 7 .dv), (0x3B0070C0, .vrst 7 (.reg 3)),
    (0x3A595004, .stv (.reg 22) 21 .dv), (0x390C1204, .ldv (.reg 3) 1 (.reg 8) .dv)] = true := by decide

/-- R315 to R318. -/
theorem test_decode_ordering : allDecode [(0x3C0C7110, .aadd (.reg 3) 7 (.reg 4) true false), (0x3C0C7136, .aminn (.reg 3) 7 (.reg 4) true true),
    (0x3C0C7109, .acas 3 7 (.reg 4) false false), (0x3D240014, .fenc 9 false true false .dv), (0x3D240022, .fenc 9 true false false .tl),
    (0x3D240034, .fenc 9 true true false .dv), (0x3D10001B, .fenc 4 false true true .cp), (0x3E009000, .fwait 9), (0x3F00001C, .fence .sc .dv),
    (0x3F000015, .fence .ar .sy)] = true := by decide

/-- R200 to R209. -/
theorem test_decode_float : allDecode [(0x41341181, .fsub .f32 (.reg 13) (.reg 1) (.reg 6)), (0x415480C1, .fsub .f32 (.reg 21) (.reg 8) (.reg 3)),
    (0x400420C5, .fmin .f64 (.reg 1) (.reg 2) (.reg 3)), (0x410C500A, .fclass .f32 (.reg 3) (.reg 5)), (0x4189500C, .fmov .f32 (.port (.q 0)) (.reg 21)),
    (0x440420C4, .ffma false (.reg 1) (.reg 2) (.reg 3) (.reg 4)), (0x46093009, .fcmp .f32 .lt (.reg 2) (.reg 19) (.reg 0)),
    (0x47081001, .fcvt .f32 .f64 (.mode .rne) (.reg 2) (.reg 1)), (0x471421A1, .fcvt .f32 .i64 .dyn (.reg 5) (.reg 2)),
    (0x4710208E, .fcvt .i32 .f32 (.mode .rtz) (.reg 4) (.reg 2)), (0x480403F8, .fmovi (.reg 1) 0x3F8), (0x49155000, .ftc (.reg 5) 21 false 0),
    (0x49143022, .ftc (.reg 5) 3 true 2), (0x4A545000, .fstc 21 (.reg 5) false 0)] = true := by decide

/-- R240 to R246. -/
theorem test_decode_vector : allDecode [(0x500420C0, .vadd .f32 (.reg 1) (.reg 2) (.reg 3)), (0x51105191, .vdot .bf16 (.reg 4) (.reg 5) (.reg 6)),
    (0x5304508F, .vins .i32 1 (.reg 5) 2), (0x590420C4, .vfmaF32 (.reg 1) (.reg 2) (.reg 3) (.reg 4)), (0x5B083040, .vcvt .f32 .bf16 (.reg 2) (.reg 3)),
    (0x60147003, .wfma 5 7)] = true := by decide

/-- R252 to R257, R275 to R282. -/
theorem test_decode_engines : allDecode [(0x78141083, .cpy 5 1 2 (.reg 3)), (0x79181083, .cpym (.reg 6) 1 2 (.reg 3)), (0x7C181083, .rbr (.reg 6) 1 2 (.reg 3)),
    (0x7A14824A, .gath 5 8 9 10), (0x7D109284, .coll 4 9 10 .minnN64), (0x74183100, .mcap 6 (.reg 3) (.reg 4)), (0x681461C8, .mld 5 6 7 8),
    (0x69146000, .mswp 5 6), (0x6A1461C1, .mrfp4 5 6 7 1), (0x6D1461C1, .mrbf 5 6 7 1), (0x72146242, .mdrn 5 6 9 2), (0x73146000, .mzro 5 6),
    (0x751C6000, .mqry 7 6)] = true := by decide

/-- R96, R97, R116, R119, R183 to R188, R339 to R342. -/
theorem test_decode_messages : allDecode [(0x89083000, .hmask (.reg 2) (.reg 3) (.reg 0)), (0x88003100, .hset 3 4), (0x8408C381, .spawn 2 (.reg 12) 14 1),
    (0x85005000, .rdec 0 5), (0x80247080, .send 9 7 2 none), (0x80247089, .send 9 7 2 (some .dv)), (0x8124A0C0, .sendm 9 10 3 none),
    (0x82000000, .doneI), (0x830C0000, .mid (.reg 3)), (0x86083000, .alw (.reg 2) (.reg 3)), (0x870A2140, .qwait (.reg 2) 34 (.reg 5)),
    (0x8C109000, .gbar 4 9), (0x8D247089, .gsend 9 7 2 (some .dv)), (0x8E0C1000, .gid (.reg 3) 1)] = true := by decide

/-- R99, R227 to R230, R335 to R338. -/
theorem test_decode_stages : allDecode [(0x90005180, .stg 5 6), (0x91146000, .clone 5 6), (0x921461C0, .merge 5 6 (.reg 7)), (0x930C6040, .krd (.reg 3) 6 1),
    (0x9414A2C0, .xst 5 10 (.reg 11)), (0x9808A2C0, .csub (.reg 2) 10 11), (0x985C0540, .csub (.reg 23) 0 21), (0x99181540, .cskip (.reg 6) 1 21),
    (0x9A14A2C0, .cprom 5 10 11), (0x9B0C1040, .cstat (.reg 3) 1 1)] = true := by decide

/-- R234 to R237, R291 to R296. -/
theorem test_decode_rendering : allDecode [(0xA0100209, .boxt 4 0 8 9), (0xA15403C6, .trit 21 0 15 6), (0xA2005000, .spush (.reg 5)),
    (0xA3180000, .spop (.reg 6)), (0xA4108000, .edg 4 8 0), (0xA5244047, .cov 9 4 1 7), (0xA628C385, .qmrg 10 12 14 5), (0xA7083000, .dfx 2 3),
    (0xA8083000, .dfy 2 3), (0xAC40A500, .smp 16 10 20), (0xAD40A503, .smpl 16 10 20 3), (0xAE40A500, .txl 16 10 20)] = true := by decide

/-- R353 to R358. -/
theorem test_decode_system : allDecode [(0xF0000005, .sys 5), (0xF1000000, .tret 0), (0xF1000001, .tret 1), (0xF2000000, .yld),
    (0xF4200011, .csrr (.reg 8) 0x11), (0xF5005002, .csrw (.reg 0) (.reg 5) 2), (0xF60C4001, .csrs (.reg 3) (.reg 4) 1),
    (0xF7006002, .csrc (.reg 0) (.reg 6) 2)] = true := by decide

/-- A word outside the opcode map, a reserved field that is not 0 and a port where none may stand are no instructions (R55, R35). -/
theorem test_decode_refuses : [0x00000000, 0xFF000000, 0x0110407F, 0x011040BF, 0x82000001, 0xF2000001, 0x26123001].all (fun w : Code =>
    match decode w with
    | .ok _ => false
    | .error _ => true) = true := by decide

/-! ### A small machine -/

/-- The activation of a message of two words on channel 5, in allotment 1 of task type 7. -/
def smallAct : Act := ⟨.message, 1, 7, 5, false, 3, 0x50, [11, 22], 0, 0, 0, 0, 0, 0, none, []⟩

/-- Allotment 1: 4 KiB from offset 0, sets T0 and T1, channels 5 and 6. -/
def smallAllot : Allot := ⟨1, 7, 0, 0x1000, [0x100, 0x200], 0, 2, [5, 6], 0, 0, none, none, 0, 0, false, true⟩

/-- A handler of allotment 1. -/
def smallHandler : Handler := ⟨0x10000000200, 0, 0, 1, false, false, 0, 0, 0, false, some 1⟩

/-- Tile 0 alone, with a 1 GiB page from 2^40 on GDDR 7, 64 KiB of it tracked, a group table of one group, and T0 of element 0 in an
activation: `g1` points to tracked memory, `g2` to local memory at 0x100, `g3` holds 5. -/
def small : State :=
  let s := State.reset.placeCode (leBytes 4 0x02000000)
  let s := { s with
    mem := Mem.writeN 0x20000 (leBytes 8 0x10000020100 ++ leBytes 8 1) s.mem
    mailbox := { s.mailbox with ready := true }
    ctx := { s.ctx with
      ctxid := 3, trapEntry := 0x10000000400, gtab := 0x10000020000, narrow := 1
      tracked := vset s.ctx.tracked 0 (0x10000010000, 0x10000) } }
  let s := s.updEl 0 (fun e => { e with
    allots := [smallAllot], handlers := [(5, smallHandler), (6, { smallHandler with prio := true })] })
  s.updTh (fun t => ((({ t with act := some smallAct }).wg 1 0x10000010000).wg 2 0x100).wg 3 5)

/-- `small` with general registers set. -/
def withG (l : List (RegNo × Word)) : State := small.updTh (fun t => l.foldl (fun t p => t.wg p.1 p.2) t)

/-- `small` with an f register set. -/
def withF (n : RegNo) (bits : Word) (tc : Nat) (s : State) : State := s.updTh (·.wf n ⟨bits, tc⟩)

/-- `small` in the supervisor handler of a system call. -/
def inHandler : State := small.trapAt 0 0 0x10 0 none

/-- `s` with one request on the mesh. -/
def sent (f : Flight) (s : State) : State := { s with ctx := { s.ctx with flights := [(9, f)] } }

/-- Every premise of a list holds. -/
def allHold (l : List Bool) : Bool := l.all id

/-- The first component of an answer is this error. -/
def errs {ε α : Type} [DecidableEq ε] (r : Except ε α × State) (e : ε) : Bool :=
  match r.1 with
  | .error x => decide (x = e)
  | .ok _ => false

/-- The first component of an answer is no error. -/
def oks {ε α : Type} (r : Except ε α × State) : Bool :=
  match r.1 with
  | .error _ => false
  | .ok _ => true

/-- An outcome is a next state that satisfies `p`. -/
def nextHas (o : Host.Outcome State Fault Refusal) (p : State → Bool) : Bool :=
  match o with
  | .next t => p t
  | _ => false

/-! ### Hypotheses that a state meets: one entry for each clause of the obligation named -/

theorem witness_EncodedInstructionsDecodeToThemselves : allHold [(Instr.acas 31 31 (.port .pw) true true).wellFormed,
    encode (.acas 31 31 (.port .pw) true true) == some 0x3C7DFAF9] = true := by decide +kernel

theorem witness_IssueRunsTheDecodedInstruction : allHold [
    errs (small.updTh (fun t => { t with pc := 0x100 })).nextWord (0x07, 0x100),
    oks (small.updTh (fun t => { t with pc := 0x10000000100 })).nextWord,
    oks small.nextWord] = true := by decide +kernel

theorem witness_StepRunsTheOneReadySet :
    let s := small.noted
    let all := s.candidates 0 true ++ s.candidates 0 false
    allHold [small.power, small.agenda == [], (s.candidates 0 false).contains (0, 0, 0),
      all.all (fun c => s.canRun c.2.1 c.2.2 == (c == (0, 0, 0))), oks s.nextWord,
      nextHas (exec (.addi (.reg 0) (.reg 0) 0) s.nextWord.2) (fun t => s.progressed t),
      all.all (fun c => !((small.updTh (fun t => { t with yielded := true })).noted.canRun c.2.1 c.2.2))] = true := by decide +kernel

theorem witness_StepRunsTheHeadOfTheAgenda : allHold [small.power, isEvent (.scrub 8), (Instr.scrub 8).wellFormed,
    encode (.sys 5) == some 0xF0000005, !small.noted.ctx.unspec, !small.ctx.unspec] = true := by decide +kernel

/-- `small` with the arbiter of carousel 0 running on a table of two segments, its first turn from tick 100 on. -/
def turning : State := { small with
  ctx := { small.ctx with present := true }
  cars := vset small.cars 0 { Carousel.start with cbind := 0x8003, clen := 2, idle := false, wakeAt := 100 } }

/-- `turning` with a chiplet whose elements make a PC sample every 10 ticks. -/
def sampling : State := { turning with slips := [(0, { Slip.start with en := 5, pcn := 10 })] }

/-- An advance before the due turn, one past it, one past the tick of a calm point (R360), one with every set quiet (R359), and one with samples due
(R372). -/
theorem witness_AdvanceTime :
  let calmed : State := { turning with ctx := { turning.ctx with calm := some 50 } }
  let quiet := calmed.updTh (fun t => { t with yielded := true })
  let waits := small.updTh (fun t => { t with waiting := some (0, 0, 20) })
  let open_ := { small with planeUntil := 100, cars := vset small.cars 0 { Carousel.start with slot := some ⟨0, 2, 0, 0, none⟩ } }
  allHold [turning.turnDue == some 100, turning.slotEnd.isNone, open_.slotEnd == some 100, (open_.advanceTime 250).tick == 100,
    ((open_.advanceTime 250).car 0).slot.isNone, decide (turning.tick + 99 < 100), decide (100 ≤ turning.tick + 100),
    (turning.advanceTime 250).tick == 100, small.turnDue.isNone,
    (calmed.advanceTime 250).tick == 50, (calmed.advanceTime 250).ctx.stopped, (calmed.advanceTime 50).tick == 50, !(calmed.advanceTime 50).ctx.stopped,
    !calmed.allQuiet, quiet.allQuiet, (quiet.advanceTime 250).tick == 1, (quiet.advanceTime 250).ctx.stopped, (quiet.advanceTime 250).agenda.take 1 == [.advance 249],
    turning.samplers == [], sampling.samplers == [0], sampling.nextDue == 10, ({ sampling with tick := 7 } : State).nextDue == 10,
    small.nextDue == 512, (small.advanceTime 600).tick == 512,
    ({ small with tick := 9990 } : State).nextDue == 10000, waits.nextDue == 20, !small.boundaryDue,
    (List.range 16).all (fun c => !small.intervalDue c && !small.stepDue c), small.closeTick == small, small.ctx.released == [],
    small.ctx.elems.all (fun e => e.2.allots.all (fun a => small.live e.1 a)), small.atOnce == small,

    sampling.sampleDue 0, !({ sampling with tick := 7 } : State).sampleDue 0, !(sampling.updEl 0 (fun e => { e with sampledAt := some 0 })).sampleDue 0] = true := by decide +kernel

theorem witness_StepStopsOnlyWithoutPower : allHold [match step { State.reset with power := false } with
    | .fault .poweredOff => true
    | _ => false] = true := by decide +kernel

theorem witness_StepKeepsMemoryCanonical : allHold [small.memInv, nextHas (step small) (fun t => t.memInv)] = true := by decide +kernel

theorem witness_MemoryReadsBackWhatWasWritten : allHold [Mem.wf [⟨3, 7⟩, ⟨5, 1⟩], Mem.wf []] = true := by decide +kernel

theorem witness_ReadyInstructionsIssue : allHold [small.readyFor [(.g, .reg 1), (.g, .port .pi)] [(.g, .reg 2), (.g, .port .po)],
    small.readyFor [] [], small.clearFor [(.g, .reg 31), (.f, .reg 0), (.v, .reg 31)] [(.g, .reg 0)]] = true := by decide +kernel

theorem witness_ChecksAtIssueTrapInTheirOrder :
    let full := small.updTh (fun t => { t with pend := List.replicate 8 0 })
    let bad := small.updTh (fun t => { t with badRegs := [(false, .g 4)] })
    allHold [small.absentLink 0 (portUses [(.g, .port .pn)]) == some .pn,
      (full.absentLink 0 (portUses [(.g, .port .po)])).isNone, decide (8 < full.th.pend.length + wordsAt .po (portUses [(.g, .port .po)])),
      (bad.th.readsOf [(.g, .reg 4)]).find? (fun r => bad.th.badRegs.contains r && !bad.th.oplog.contains r) == some (false, .g 4),
      (full.th.readsOf [(.g, .reg 4)]).all (fun r => !full.th.badRegs.contains r)] = true := by decide +kernel

theorem witness_PortsPopAndPush :
    let q := small.putG (.port (.q 2)) 9
    allHold [(vget (q.el 0).queues 2).words == [9], small.th.act == some smallAct, !small.th.inSup, decide (smallAct.read < smallAct.payload.length),
      inHandler.th.inSup, decide ({ smallAct with read := 2 }.payload.length ≤ ({ smallAct with read := 2 } : Act).read)] = true := by decide +kernel

theorem witness_Integer : allHold [(intTable (.divn (.reg 31) (.port .pi) (.reg 1))).isSome,
    small.readyFor [(.g, .port .pi), (.g, .reg 1)] [(.g, .reg 31)],
    (intTable1 (.addwi (.port .po) (.reg 1) (-2048))).isSome, small.readyFor [(.g, .reg 1)] [(.g, .port .po)],
    (intTable3 (.bins 3 (.reg 1) (.reg 2))).isSome, small.readyFor [(.g, .reg 1), (.g, .reg 2), (.g, .reg 3)] [(.g, .reg 3)],
    small.readyFor [] [(.g, .reg 31)], small.clearFor [(.g, .reg 1), (.g, .reg 2)] [(.g, .reg 0)], small.th.frame.isNone,
    small.clearFor [(.g, .reg 1), (.g, .reg 2), (.g, .reg 0)] [(.g, .reg 0)], small.clearFor [] [(.g, .reg 31)]] = true := by decide +kernel

theorem witness_Branches : allHold [(branchTable (.bgen (.reg 1) (.port .pi) (-2048))).isSome, small.readyFor [(.g, .reg 1), (.g, .port .pi)] [],
    small.readyFor [(.f, .reg 31)] [], small.readyFor [] [(.g, .port .po)], small.readyFor [(.g, .reg 3)] [(.g, .reg 31)],
    (small.rg 3 + 3).toNat % 4 == 0, (small.rg 3 + 0).toNat % 4 == 1] = true := by decide +kernel

theorem witness_RepeatCapturesItsFrame :
    let s := small.updTh (fun t => { t with pc := 0x10000000000 - 4 })
    let jump := { small with mem := Mem.writeN 0 (leBytes 4 0x167C0064) small.mem }
    allHold [oks (small.capture small.th.pc 1 1 1 1 1 0x10000000000), !oks (jump.capture jump.th.pc 1 1 1 1 1 0x10000000000),
      s.th.frame.isNone] = true := by decide +kernel

theorem witness_FramesReplayInOrder :
    let fr : Frame := ⟨0x10000000000, [0x02000000, 0x02000000], 64, 1, 1, 1, 0, 0⟩
    allHold [({ small.th with frame := some fr } : ThreadSet).frame == some fr, fr.words != [], decide (0 < fr.count)] = true := by decide +kernel

theorem witness_LoadsWriteWhatTheyRead :
    let far := withG [(1, 0x10000010000)]
    let issue := fun (s : State) => s.issued [(.g, .reg 1)]
    let check := fun (s : State) (n : Nat) => (issue s).dataTargets ((issue s).issuer 0) false false (s.rg 1).toNat n
    let here := withG [(1, 0xFF8)]
    let now := (here.issued [(.g, .reg 1)]).dataTargets (here.issuer 0) false false 0xFF8 8
    allHold [(loadTable (.ld64 (.reg 4) 1 0)).isSome, far.readyFor [(.g, .reg 1)] [(.g, .reg 4)],
      errs (check (withG [(1, 0x10000010001)]) 8) (0x04, 0x10000010001), oks (check far 8), oks now,
      match now with
      | (.ok (t, ps), s1) => !s1.behindAny t 8 ps && s1.allServed (here.issuer 0) t 0xFF8 ps false && untagged ps &&
        oks (s1.loadNow (here.issuer 0) t 0xFF8 8) && !(s1.defers t).1 && (({ s1 with choices := [1] } : State).defers t).1 &&
        !s1.opsFull s1.cur.1 && !(({ s1 with choices := [1] } : State).defers { t with place := .win 0 0 }).1
      | _ => false,
      match check far 8 with
      | (.ok (t, ps), s1) => !(!s1.behindAny t 8 ps && s1.allServed (far.issuer 0) t (far.rg 1).toNat ps false && untagged ps) &&
        !s1.behindAny t 8 ps && !s1.opsFull s1.cur.1
      | _ => false,
      far.readyFor [(.g, .reg 1)] [(.g, .port .po)],
      match now with
      | (.ok (t, _), s1) => errs (({ s1 with poison := [locPlace 0 0xFF8 / 8] } : State).loadNow (here.issuer 0) t 0xFF8 8) 0xFF8
      | _ => false] = true := by decide +kernel

theorem witness_StoresWriteTheirData :
    let rds : List (Cls × Opnd) := [(.g, .reg 1), (.g, .reg 3)]
    let far := withG [(1, 0x10000010000)]
    let here := withG [(1, 0xFF8)]
    let check := fun (s : State) => (s.issued rds).dataTargets (s.issuer 0) false true (s.rg 1).toNat 8
    allHold [(storeTable (.st64 (.reg 3) 1 0)).isSome, far.readyFor rds [], errs (check (withG [(1, 0x1000)])) (0x08, 0x1000),
      match check here with
      | (.ok (t, ps), s1) => !s1.behindAny t 8 ps && s1.allServed (here.issuer 0) t 0xFF8 ps true && untagged ps &&
        !(s1.defers t).1 && (({ s1 with choices := [1] } : State).defers t).1 && !s1.opsFull s1.cur.1
      | _ => false,
      match check far with
      | (.ok (t, ps), s1) => !(!s1.behindAny t 8 ps && s1.allServed (far.issuer 0) t (far.rg 1).toNat ps true && untagged ps) &&
        !s1.opsFull s1.cur.1
      | _ => false] = true := by decide +kernel

theorem witness_OwnLocalAccesses :
    let here := withG [(1, 0xFF8)]
    allHold [(storeTable (.st64 (.reg 3) 1 0)).isSome, (loadTable (.ld64 (.reg 3) 1 0)).isSome, here.memInv,
      here.clearFor [(.g, .reg 1), (.g, .reg 3)] [], here.clearFor [(.g, .reg 1)] [(.g, .reg 3)], here.th.frame.isNone,
      here.allotOf 0 (here.act.getD Act.idle).allot == some smallAllot, addressOf (here.rg 1) 0 8 == 0xFF8, decide (0xFF8 + 8 ≤ smallAllot.size),
      !here.behind 0 0 (.loc 0 (smallAllot.base + 0xFF8)) 8, here.choices.headD 0 == 0, !here.poison.contains (locPlace 0 0xFF0 / 8), ({ here with choices := [0, 1] } : State).choices.headD 0 == 0, (firstPoison here.poison (locPlace 0 0xFF8) 8).isNone] = true := by decide +kernel

theorem witness_MisalignedAndOutOfBoundsAccessesTrap : allHold [addressOf 0xFF9 0 8 % 8 == 1, addressOf 0x2000000000000 0 8 == 2 ^ 49,
    addressOf 0xFF8 1 8 == 0x1000, small.readyFor [(.g, .reg 1)] [(.g, .reg 4)], small.readyFor [(.g, .reg 1), (.g, .reg 4)] [],
    decide (smallAllot.size < 0x1000 + 8)] = true := by decide +kernel

/-- An outstanding operation of T0. -/
def smallOp (kind : OpKind) (place : Place) : MemOp := ⟨9, 0, false, 0x10000000000, 0x10000010000, 8, place, true, false, [], kind, false, Parts.none, true⟩

/-- `small` with one outstanding operation. -/
def withOp (kind : OpKind) (place : Place) : State := small.updEl 0 (fun e => { e with ops := [smallOp kind place] })

theorem witness_OrderedAccessesIssueOrAct :
    let u := small.issued [(.g, .reg 1)]
    let w := small.issued [(.g, .reg 1), (.g, .reg 3)]
    let who := u.issuer 0
    let local_ := withG [(1, 0x100)]
    allHold [small.readyFor [(.g, .reg 1)] [(.g, .reg 4)], small.readyFor [(.g, .reg 1)] [(.g, .port .po)],
      errs (u.check who .special false 0x10000010001 8 8) 0x04, oks (u.check who .special false 0x10000010000 8 8),
      !(u.check who .special false 0x10000010000 8 8).2.opsFull 0,
      match u.check who .special false 0x10000010000 8 8 with
      | (.ok t, s1) => !s1.behind 0 0 t.place 8 && oks (s1.ldaNow (s1.issuer 0) t 0x10000010000 8 .dv) && oks (s1.ldvNow (s1.issuer 0) t 0x10000010000 .dv) &&
        decide ((s1.version t.place.key - (0 : Byte)).toNat < 128) &&
        errs (({ s1 with poison := [t.place.key / 8] } : State).ldvNow (s1.issuer 0) t 0x10000010000 .dv) 0x10000010000
      | _ => false,
      small.readyFor [(.g, .reg 1), (.g, .reg 3)] [], errs (w.check who .special true 0x1000 8 8) 0x08, oks (w.check who .special true 0x10000010000 8 8),
      small.readyFor [(.g, .reg 1), (.g, .reg 3)] [(.g, .reg 4)], small.readyFor [(.g, .reg 1), (.g, .reg 3)] [(.g, .port .po)],
      match w.check who .special false 0x10000010000 8 8 with
      | (.ok t, s1) => decide (128 ≤ (s1.version t.place.key - (1 : Byte)).toNat)
      | _ => false,
      w.isTracked 0x10000010000, w.isTracked 0x1000001FFF8, !w.isTracked 0x10000020000,
      oks (w.check who .special false 0x10000020000 8 8), local_.readyFor [(.g, .reg 1)] [(.g, .reg 0)]] = true := by decide +kernel

theorem witness_VrstSteps :
    let s := withG [(3, 16)]
    let u := s.issued [(.g, .reg 1), (.g, .reg 3)]
    allHold [s.readyFor [(.g, .reg 1), (.g, .reg 3)] [], (s.rg 3).toNat % 8 == 0, s.rg 3 != 0,
      (List.range 2).all (fun k => u.isTracked (0x10000010000 + 8 * k)), oks (u.vrstWords (u.issuer 0) 2 0x10000010000 [] none),
      !(u.vrstWords (u.issuer 0) 2 0x10000010000 [] none).2.opsFull 0, !u.isTracked (0x1000001FFF8 + 8),
      (withG [(3, 0)]).rg 3 == 0, (withG [(3, 12)]).rg 3 % 8 == 4,
      errs ((withG [(3, 16)]).vrstWords (u.issuer 0) 1 0x1000 [] none) (0x08, 0x1000, []),
      (withOp (.store (leBytes 8 5)) (.phys 0x10008)).behind 0 0 (.phys (8 * 0x2001)) 8, !small.behind 0 0 (.phys (8 * 0x2001)) 8, (withG [(1, 0x10000010004)]).rg 1 % 8 == 4] = true := by decide +kernel

theorem witness_AtomicsIssueOrAct :
    let rds : List (Cls × Opnd) := [(.g, .reg 1), (.g, .reg 3)]
    let u := small.issued rds
    let who := u.issuer 0
    allHold [(atomicTable (.aswp (.port .po) 1 (.reg 3) true true)).isSome, small.readyFor rds [(.g, .reg 4)], small.readyFor rds [(.g, .port .po)],
      errs (u.check who .special true 0x10000010004 8 8) 0x04, oks (u.check who .special true 0x10000010000 8 8),
      !(u.check who .special true 0x10000010000 8 8).2.opsFull 0,
      match u.check who .special true 0x10000010000 8 8 with
      | (.ok t, s1) => !s1.behind 0 0 t.place 8 && !s1.setBusy 0 0 &&
        oks ((s1.release 0 .dv).atomNow 0 t.place 0x10000010000 8 .swp 5 0) &&
        errs (({ s1 with poison := [t.place.key / 8] } : State).atomNow 0 t.place 0x10000010000 8 .swp 5 0) 0x10000010000 &&
        errs (({ s1 with poison := [t.place.key / 8] } : State).atomNow 0 t.place 0x10000010000 8 .cas 5 5) 0x10000010000
      | _ => false,
      small.readyFor (rds ++ [(.g, .reg 4)]) [(.g, .reg 4)], small.readyFor [(.g, .reg 1), (.g, .port .pi), (.g, .reg 4)] [(.g, .reg 4)]] = true := by decide +kernel

theorem witness_AtomicsAreOneActionAtTheirWord : allHold [small.memInv, (firstPoison small.poison (locPlace 0 0xBFFC) 4).isNone] = true := by decide +kernel

theorem witness_OutstandingOperationsComplete :
    let st := withOp (.store (leBytes 8 5)) (.phys 0x10000)
    let lc := withOp (.store (leBytes 8 5)) (.loc 1 0)
    let lv := withOp (.ldv (.g 4) 0 .dv) (.phys 0x10000)
    let sv := withOp (.stv 5 .dv) (.phys 0x10000)
    let two := st.updEl 0 (fun e => { e with ops := { smallOp (.store [1, 2, 3, 4, 5, 6, 7, 8]) (.phys 0x10000) with id := 8 } :: e.ops })
    allHold [(st.el 0).ops.find? (fun o => o.id == 9) == some (smallOp (.store (leBytes 8 5)) (.phys 0x10000)),
      (lc.el 0).ops.length == 1, (lv.el 0).ops.length == 1, st.firstOnWords 0 (smallOp (.store (leBytes 8 5)) (.phys 0x10000)),
      !two.firstOnWords 0 (smallOp (.store (leBytes 8 5)) (.phys 0x10000)),
      decide (128 ≤ (lv.version (Place.phys 0x10000).key - (1 : Byte)).toNat), !lv.ctx.stopped,
      lv.firstOnWords 0 (smallOp (.ldv (.g 4) 0 .dv) (.phys 0x10000)), decide ((lv.version (Place.phys 0x10000).key - (0 : Byte)).toNat < 128),
      oks ((lv.dropOp 0 9).ldvNow ((smallOp (.ldv (.g 4) 0 .dv) (.phys 0x10000)).who 0) ⟨.phys 0x10000, true, false⟩ 0x10000010000 .dv), !lv.canRun 0 0,
      sv.firstOnWords 0 (smallOp (.stv 5 .dv) (.phys 0x10000)), sv.firstOfSet 0 (smallOp (.stv 5 .dv) (.phys 0x10000))] = true := by decide +kernel

/-- An operation alone on its words, whose premises are `p`. -/
def soleOp (o : MemOp) (p : State → Bool) : Bool :=
  let s := small.updEl 0 (fun e => { e with ops := [o] })
  s.firstOnWords 0 o && s.firstOfSet 0 o && (s.el 0).ops.find? (fun p => p.id == 9) == some o && p s

theorem witness_CompletedOperations :
    let g := Place.phys 0x10000
    let ld := smallOp (.load (.g 4) .zx) g
    let tagged : MemOp := { ld with planes := [some (0x10000018000, ⟨.phys 0x18000, true, false⟩), none] }
    let wide : MemOp := { smallOp (.load (.v 4) .v128) g with n := 16 }
    let poisoned := fun (s : State) => ({ s with poison := [0x2000] } : State)
    allHold [soleOp ld (fun s => oks (s.loadNow (ld.who 0) ld.target ld.ea 8) && errs ((poisoned s).loadNow (ld.who 0) ld.target ld.ea 8) ld.ea),
      soleOp tagged (fun s => (s.choose tagged).1 == [.lo, .planes] && (({ s with choices := [1] } : State).choose tagged).1 == [.lo] &&
        oks (s.loadParts (ld.who 0) tagged [.lo, .planes] tagged.parts)),
      soleOp { tagged with parts := ⟨some (leBytes 8 7), none, none⟩ } (fun s => oks (s.loadPlanes (ld.who 0) tagged.planes)),
      soleOp { tagged with parts := ⟨none, none, some [some 24, none]⟩ } (fun s => oks (s.loadNow (ld.who 0) ld.target ld.ea 8)),
      soleOp wide (fun s => wide.rest == [.lo, .hi] && wide.first == [.lo] && (({ s with choices := [2] } : State).choose wide).1 == [.lo] &&
        oks (s.loadNow (ld.who 0) { ld.target with place := ld.place.plus 8 } (ld.ea + 8) 8) && errs ((poisoned s).loadParts (ld.who 0) wide [.lo, .hi]
          wide.parts) ld.ea),
      soleOp { tagged with kind := .store [1, 2, 3, 4, 5, 6, 7, 8, 24, 24] } (fun _ => true),
      soleOp { tagged with kind := .store [1, 2, 3, 4, 5, 6, 7, 8, 24, 24], parts := ⟨some [], none, none⟩ } (fun _ => true),
      soleOp { wide with kind := .store (leBytes 16 1) } (fun s =>
        (({ s with choices := [2] } : State).choose { wide with kind := .store (leBytes 16 1) }).1 == [.hi]),
      soleOp { wide with kind := .store (leBytes 16 1), parts := ⟨none, some [], none⟩ } (fun _ => true),
      soleOp (smallOp (.lda (.g 4) .dv) g) (fun s => oks ((s.dropOp 0 9).ldaNow (ld.who 0) ld.target ld.ea 8 .dv) &&
        errs ((poisoned (s.dropOp 0 9)).ldaNow (ld.who 0) ld.target ld.ea 8 .dv) ld.ea),
      soleOp (smallOp (.stl (leBytes 8 5) .dv) g) (fun _ => true),
      soleOp (smallOp (.atom .add (some (.g 4)) 1 0 true) g) (fun s => oks (((s.dropOp 0 9).release 0 .dv).atomNow 0 g ld.ea 8 .add 1 0) &&
        errs ((poisoned (s.dropOp 0 9)).atomNow 0 g ld.ea 8 .add 1 0) ld.ea),
      ({ smallOp (.vrst [0x2001]) g with n := 16 } : MemOp).translatedIn 0x10000010008 8,
      soleOp (smallOp (.vrst [0x2000, 0x2001]) g) (fun s => (s.chooseWords [0x2000, 0x2001]).1 == [0x2000, 0x2001] &&
        (({ s with choices := [2] } : State).chooseWords [0x2000, 0x2001]).1 == [0x2001])] = true := by decide +kernel

/-- A completed load finds its register pending, in each class. -/
theorem witness_FinishedLoads :
    let find := fun (k : RegKey) => (small.mark k 9).th.pending.find? (fun p => p.2.2 == 9)
    allHold [find (.g 4) == some (false, .g 4, 9), find (.f 4) == some (false, .f 4, 9), find (.v 4) == some (false, .v 4, 9)] = true := by decide +kernel

theorem witness_FencesIssueAndComplete :
    let f : FenceRec := ⟨9, true, true, true, .dv, [7], [8]⟩
    let s := small.updTh (fun t => { t with fences := [f, f, f] })
    allHold [s.readyFor [] [(.g, .reg 0)], decide (s.th.fences.length < Config.fencesOut), s.th.fences.find? (fun f => f.id == 9) == some f,
      decide (Config.fencesOut ≤ (s.updTh (fun t => { t with fences := [f, f, f, f] })).th.fences.length), [7].contains 7,
      ((withOp (.store (leBytes 8 5)) (.phys 0x10000)).el 0).ops.any (fun o => [9].contains o.id), (withOp (.store (leBytes 8 5)) (.phys 0x10000)).setBusy 0 0,
      (withOp (.load (.g 4) .zx) (.phys 0x10000)).el 0 |>.ops.any (fun p => p.set == 0 && p.covered false true),
      (withOp (.store (leBytes 8 5)) (.phys 0x10000)).el 0 |>.ops.all (fun p => !p.covered false true),
      (s.el 0).ops.isEmpty, !s.setBusy 0 0, (s.cmdsOf 0 0).isEmpty, small.readyFor [(.g, .reg 31)] [], !small.ctx.maint,
      ({ small with ctx := { small.ctx with maint := true } } : State).ctx.maint] = true := by decide +kernel

theorem witness_FloatArithmeticRetiresOrTraps :
    let rds : List (Cls × Opnd) := [(.f, .reg 1), (.f, .reg 2)]
    let low := (withF 1 0x3F800000 5 small).updTh (fun t => { t with sigctl := 0x114 })
    let run := fun (s : State) =>
      let dr := (s.issued rds).draws s.th.rm 1
      let x := dr.2.takeF 24 (.reg 1)
      let y := x.2.takeF 24 (.reg 2)
      dr.2.th.fails (fpMul fmtF32 s.th.rm (dr.1.headD 0) (viewF fmtF32 x.1) (viewF fmtF32 y.1)).2
    allHold [(floatTable2 (.fmul .f32 (.reg 3) (.reg 1) (.reg 2))).isSome, (floatTable1 (.fsqrt .f32 (.port .po) (.port .pi))).isSome,
      low.readyFor rds [(.f, .reg 3)], small.readyFor [(.f, .port .pi)] [(.f, .port .po)],
      small.readyFor (rds ++ [(.f, .reg 31)]) [(.f, .reg 31)], !run small, run low] = true := by decide +kernel

theorem witness_FloatMovesAndConversions : allHold [(floatMoves1 (.fneg .bf16 (.reg 1) (.reg 2))).isSome,
    (floatMoves2 (.fsgn .f16 (.reg 1) (.reg 2) (.reg 3))).isSome, small.readyFor [(.f, .reg 1), (.f, .reg 2)] [(.f, .reg 31)],
    small.readyFor [(.f, .reg 1)] [(.g, .reg 31)], small.readyFor [(.f, .reg 1), (.f, .port .pi)] [(.g, .reg 0)], small.readyFor [] [(.f, .port .po)],
    small.readyFor [(.v, .reg 31)] [(.g, .reg 1)], small.readyFor [(.g, .reg 1)] [(.v, .reg 31)], small.readyFor [(.g, .reg 1)] [(.f, .reg 31)],
    (cvtFmt .bf16).isSome, (cvtFmt .f64).isSome, (cvtFmt .n32).isNone, (cvtFmt .i64).isNone] = true := by decide +kernel

theorem witness_Vectors :
    let rds : List (Cls × Opnd) := [(.v, .reg 1), (.v, .reg 2)]
    let ones : VReg := ⟨0x3F8000003F8000003F8000003F800000, Vector.replicate 4 5⟩
    let low := (small.updTh (fun t => (t.wv 1 ones))).updTh (fun t => { t with sigctl := 0x314 })
    let run := fun (s : State) =>
      let dr := (s.vecIssued rds).draws s.th.rm 4
      let x := dr.2.takeV 24 (.reg 1)
      let y := x.2.takeV 24 (.reg 2)
      ((List.range 4).map (fun q => (⟨fpMul fmtF32 s.th.rm (dr.1.getD q 0) (laneOpv .f32 fmtF32 x.1 q) (laneOpv .f32 fmtF32 y.1 q), 0, 0, 63⟩ : LaneRes))).findIdx?
        (laneBad dr.2.th)
    let busy := { small with quads := Map.set 0 { Quad.start with wops := [⟨small.issuer 9, .add, 0, ⟨0, 53⟩, 0, 1, 0, 0, [], none, [], [], [], false, none⟩] } small.quads }
    allHold [(laneTable2 (.vand .n8 (.reg 3) (.reg 1) (.reg 2))).isSome, (laneArith (.vmul .f32 (.reg 3) (.reg 1) (.reg 2))).isSome,
      small.readyFor rds [(.v, .reg 31)], small.vecTurn, !busy.vecTurn, small.readyFor [(.v, .reg 1)] [(.v, .reg 0)],
      small.readyFor [(scalarCls .i8, .port .pi)] [(.v, .reg 0)], small.readyFor [(scalarCls .f32, .reg 0), (.v, .reg 1)] [(.v, .reg 1)],
      small.readyFor [(.v, .reg 1)] [(scalarCls .n16, .port .po)], small.readyFor (rds ++ [(.v, .reg 3)]) [(.v, .reg 3)],
      (laneFmt .f16).isSome, (laneFmt .n8).isNone, (run small).isNone, run low == some 0] = true := by decide +kernel

theorem witness_FloatAndVectorFrame : allHold [small.clearFor [(.f, .reg 31), (.f, .reg 0)] [(.f, .reg 31)], small.th.frame.isNone,
    small.th.rm != 5, !small.th.sigctl.getLsbD 8, !small.th.sigctl.getLsbD 9, small.clearFor [(.v, .reg 31), (.v, .reg 0)] [(.v, .reg 31)],
    (Map.get Quad.start small.quads (small.quadOf small.cur.1)).wops == [],
    fvTable (.fcvt .i64 .f32 (.mode .sr) (.reg 0) (.reg 31)) == some ⟨[(.f, .reg 31)], .g, .reg 0, some (.mode .sr), none, true, false⟩,
    small.clearFor [(.f, .reg 31)] [(.g, .reg 0)], small.th.cvtMode .dyn != 5, small.th.cvtMode (.mode .sr) == 5,
    fvTable (.vext .i8 (.reg 4) (.reg 31) 15) == some (.lanes [(.v, .reg 31)] .g (.reg 4) false), small.clearFor [(.v, .reg 31)] [(.g, .reg 4)],
    fvTable (.vdot .f32 (.reg 31) (.reg 0) (.reg 0)) == some ⟨[(.v, .reg 0), (.v, .reg 0)], .v, .reg 31, some .dyn, some 9, true, true⟩,
    fvTable (.fmovi (.reg 3) 0) == some (.move [] .f (.reg 3) false), small.clearFor [] [(.f, .reg 3)]] = true := by decide +kernel

/-- A shape record: a base, `kind` with the type in its low byte and the flags in the next, and `n` elements (R100). -/
def shapeBytes (addr kind n : Nat) : List Byte :=
  leBytes 8 addr ++ leBytes 4 n ++ leBytes 4 1 ++ leBytes 4 1 ++ leBytes 4 1 ++ leBytes 24 0 ++ leBytes 2 kind ++ leBytes 14 0

theorem witness_WopsQueueAndRun :
    let rds : List (Cls × Opnd) := [(.g, .reg 1)]
    let cmd : WCmd := ⟨small.issuer 9, .cpy, 0x10000010000, ⟨0, 53⟩, 0, 1, 0, 0, [], none, [], [], [], false, none⟩
    let q := { small with quads := Map.set 0 { Quad.start with wops := [cmd] } small.quads }
    let seen := fun (s : State) => (Map.get Quad.start s.noted.quads 0).wops
    let full := { small with quads := Map.set 0 { Quad.start with wops := List.replicate 4 cmd } small.quads }
    let block := fun (kd kx : Nat) (base : Nat) => { q with mem := Mem.writeN 0x10000 (shapeBytes 0x200 kd 1 ++ shapeBytes base kx 1) q.mem }
    let recs := fun (s : State) => match (s.readShapes cmd.who cmd.block 3).1 with
      | .ok hs => hs.take 2
      | .error _ => []
    let held := fun (s : State) =>
      let c := { cmd with recs := recs s }
      { s with quads := Map.set 0 { Quad.start with wops := [{ c with recSnap := s.wopRecords c, snap := s.wopSources c }] } s.quads }
    let done := fun (s : State) => match (Map.get Quad.start s.noted.quads 0).wops with
      | [c] => match c.broken, s.wopJob c with
        | false, (.ok j, s1) => some ((s1.wopUndo j c).wopElems j (j.d.count + 1) { c with job := some j }).2.1.isSome
        | _, _ => none
      | _ => none
    allHold [(wopTable (.wscl 4 1 (.port .pi))).isSome, small.readyFor (rds ++ [(.f, .port .pi)]) [(.g, .reg 4)], (small.rg 1).toNat % 64 == 0,
      (withG [(1, 0x10000010020)]).rg 1 % 64 == 32, decide (Config.wopPlaces ≤ (Map.get Quad.start full.quads 0).wops.length),
      decide ((Map.get Quad.start q.quads 0).wops.length < Config.wopPlaces), (Map.get Quad.start q.quads 0).wops == [cmd], (seen (held q)).length == 1, (seen (held q)).all (fun c => q.storesDone c.who && !c.broken),
      (seen (held (block 10 10 0x300))).all (fun c => c.snap.length == 1 && c.recSnap.length == 2),
      (seen { held (block 10 10 0x300) with mem := (block 10 10 0x308).mem }).all (·.broken),
      !small.structBehind 0x10000010000 192, (withOp (.store [1]) (.phys 0x10000)).structBehind 0x10000010000 192,
      !q.ctx.stopped, (({ q with ctx := { q.ctx with stopped := true } } : State).updTh (fun t => { t with
        fences := [⟨8, false, true, false, .dv, [], [9]⟩] })).fenced [9], errs ((block 0x11 10 0x300).wopJob cmd) 0x22, done (held (block 10 10 0x300)) == some true,
      done (held (block 10 0x10A 34)) == some false] = true := by decide +kernel

/-- The capability of tile 0 with every right, in the running context. -/
def smallCap : Word := small.mint 0x3F000

/-- `small` with the capability in `g6`. -/
def withCap : State := withG [(6, smallCap)]

/-- A command to the unit of tile 0 that carries the capability. -/
def smallMx : MxCmd := ⟨small.issuer 9, .mswp, smallCap, 0, 0, ⟨0, 24⟩, 0, 0, 1, 0, [], 0, none, none⟩

theorem cap_accepted (u : State) (e : Bool) (r : Nat) (h : u.resets = 0) (hc : u.ctx.ctxid = 3) (he : u.ctx.epoch = 0)
    (ht : u.ctx.tiles = [0]) (hr : r < 2 ^ 36) (ha : 0x3F000 &&& r ≠ 0) : u.capRefusal smallCap r e = none := by
  have hm : smallCap = u.mint 0x3F000 := State.mint_congr (by rw [h]; decide +kernel) _
  rw [hm]
  exact State.mint_accepted u _ r e hr (by rw [hc]; decide) (by rw [he]; decide) (by simpa using ha) (by rw [ht]; decide)

theorem cap_refused (u : State) (e : Bool) (r : Nat) (hc : u.ctx.ctxid = 3) : ∃ x, u.capRefusal 0 r e = some x := by
  unfold State.capRefusal
  split
  · exact ⟨_, rfl⟩
  · exact ⟨2, by rw [hc]; simp⟩

theorem cap_tile (u : State) (ht : u.ctx.tiles = [0]) : u.capTile smallCap = 0 := by
  rw [smallCap, State.mint_tile, ht]; decide

theorem witness_MatrixCommandsAreSent :
    let u := withCap.issued [(.g, .reg 6)]
    withCap.readyFor [(.g, .reg 6)] [(.g, .reg 5)] = true ∧ withCap.rg 6 = smallCap ∧ u.capRefusal smallCap 0x8000 true = none ∧
    (u.tile (u.capTile smallCap)).mx.lost = false ∧ u.unitLoad (u.capTile smallCap) < Config.matrixPlaces ∧
    (∃ x, u.capRefusal 0 0x8000 true = some x) ∧
    withCap.readyFor [(.g, .reg 6), (.g, .reg 3), (.f, .reg 2)] [(.g, .reg 5)] = true := by
  refine ⟨by decide +kernel, by with_unfolding_all rfl, cap_accepted _ _ _ (by decide +kernel) (by decide +kernel) (by decide +kernel) (by decide +kernel)
    (by decide) (by decide), ?_, ?_, cap_refused _ _ _ (by decide +kernel), by decide +kernel⟩
  · rw [cap_tile _ (by decide +kernel)]; decide +kernel
  · rw [cap_tile _ (by decide +kernel)]; decide +kernel

/-- A unit that lost an image, and a unit with 16 commands (R284, R262). -/
theorem witness_MatrixUnitsLostAndFull :
    ((withCap.updTile 0 (fun tl => { tl with mx := { tl.mx with lost := true } })).tile 0).mx.lost = true ∧
    Config.matrixPlaces ≤ (withCap.updTile 0 (fun tl => { tl with mx := { tl.mx with queue := List.replicate 16 smallMx } })).unitLoad 0 := by
  constructor <;> decide +kernel

/-- The block of an `mdrn`: read whole, with a malformed record, with a malformed control word, and behind a store (R267, R279). -/
theorem witness_MdrnBlocks :
    let block := fun (kind cw : Nat) => { small with mem := Mem.writeN 0x10000 (shapeBytes 0x200 kind 3 ++ leBytes 8 cw) small.mem }
    let bytes := fun (s : State) => match (s.readStruct (s.issuer 0) 0x10000010000 8 9).1 with
      | .ok bs => some ((shapeOf (bs.take 64)).error.isNone, decide (leNat (bs.drop 64) < 2 ^ 17))
      | .error _ => none
    let dims := fun (s : State) => (s.peekBlock (s.issuer 0) 0x10000010000).1.map (fun h => h.dims.getD 0 0)
    allHold [bytes (block 1 0x10000) == some (true, true), bytes (block 0x11 0) == some (false, true), bytes (block 1 0x20000) == some (true, false),
      dims (block 1 0x10000) == some 3, dims (block 0x11 0) == none, dims (block 1 0x20000) == none, (0x10000010008 : Nat) % 64 == 8,
      !small.blockWaits 0x10000010000, (withOp (.store [1]) (.phys 0x10040)).blockWaits 0x10000010000,
      (withCap.updTh (fun t => { t with fcsr := 5 })).th.rm == 5] = true := by decide +kernel

theorem witness_MatrixUnitsAcceptAndComplete :
    let s := sent (.matrix smallMx 0) withCap
    let q := sent (.query (small.issuer 9) smallCap 0) withCap
    let z := withCap.updTile 0 (fun tl => { tl with mx := { tl.mx with queue := [smallMx] } })
    s.flight 9 = some (.matrix smallMx 0) ∧ q.flight 9 = some (.query (small.issuer 9) smallCap 0) ∧ s.ctx.stopped = false ∧
    s.streamBefore 9 (.matrix smallMx 0) = false ∧ q.streamBefore 9 (.query (small.issuer 9) smallCap 0) = false ∧
    s.capRefusal smallCap 0x8000 false = none ∧ (∃ x, s.capRefusal 0 0x8000 false = some x) ∧ (q.dropFlight 9).capRefusal smallCap 0xF000 false = none ∧
    (s.tile 0).mx.queue.length < Config.matrixPlaces ∧ (z.tile 0).mx.queue = [smallMx] ∧ z.storesDone smallMx.who = true ∧
    (∃ v s1, z.mxPerform smallMx 0 = (.done v, s1)) := by
  refine ⟨by rfl, by rfl, by decide +kernel, by decide +kernel, by decide +kernel, cap_accepted _ _ _ (by decide +kernel) (by decide +kernel)
    (by decide +kernel) (by decide +kernel) (by decide) (by decide), cap_refused _ _ _ (by decide +kernel), cap_accepted _ _ _ (by decide +kernel) (by decide +kernel)
    (by decide +kernel) (by decide +kernel) (by decide) (by decide), by decide +kernel, by rfl, by decide +kernel, _, _, rfl⟩

theorem witness_McapMints : allHold [inHandler.th.inSup, !small.th.inSup,
    (inHandler.updTh (fun t => (t.wg 3 0x3E005).wg 4 0)).readyFor [(.g, .reg 3), (.g, .reg 4)] [(.g, .reg 6)],
    decide ((0xFFFFFFF : Word).toNat < 2 ^ 28), decide ((0xFF : Word).toNat < 2 ^ 8)] = true := by decide +kernel

/-- A drain into `q0` finishes while the queue takes words, and blocks when it is full (R269, R279). -/
theorem witness_MatrixUnitsBlock :
    let c := { smallMx with op := .mdrn, block := 0x10000010000 }
    let m := { small with mem := Mem.writeN 0x10000 (shapeBytes 34 0x101 1) small.mem }
    let full := m.updEl 0 (fun e => { e with queues := vset e.queues 0 ⟨List.replicate 8 0, 8, 0, [], []⟩ })
    let blocked := fun (s : State) => match s.mxPerform c 0 with
      | (.blocked _, _) => true
      | (.done _, _) => false
    allHold [!blocked m, blocked full, !small.recordWaits 0x10000010000, (withOp (.store [1]) (.phys 0x10000)).recordWaits 0x10000010000] = true := by
  decide +kernel

/-- `small` with a second tile in the partition. -/
def twoTiles (s : State) : State := { s with ctx := { s.ctx with tiles := [0, 1] } }

theorem witness_CopyEngineCommands :
    let rds : List (Cls × Opnd) := [(.g, .reg 1), (.g, .reg 2), (.g, .reg 3)]
    let cmd : CopyCmd := ⟨small.issuer 9, .cpy 0x200 0x100 8⟩
    let full := small.updTile 0 (fun tl => { tl with copies := List.replicate 32 cmd })
    let one := small.updTile 0 (fun tl => { tl with copies := [cmd] })
    let part := fun (g : Nat) => (⟨small.issuer 9, .coll g 0x10000010000 .addI64⟩ : CopyCmd)
    let coll := fun (g : Nat) => small.updTile 0 (fun tl => { tl with copies := [part g] })
    let twice := { coll 0 with ctx := { (coll 0).ctx with groups := [(0, { GroupEngine.start with collIn := [0] })] } }
    allHold [small.readyFor rds [(.g, .reg 5)], full.copyFull, !small.copyFull,
      (one.copyRunners 0).find? (fun c => c.who.id == 9) == some cmd, !cmd.isColl, one.storesDone cmd.who,
      inAperture 0x80000 8, !small.recordWaits 0x10000010000,
      (withOp (.store [1]) (.phys 0x10000)).recordWaits 0x10000010000, small.readyFor [(.g, .reg 1), (.g, .reg 2)] [(.g, .reg 4)],
      (withG [(2, 0x110)]).rg 2 % 32 == 16, (withG [(2, 0x120)]).rg 2 % 32 == 0,
      (coll 0).copyAt 9 == some (0, part 0), (coll 0).storesDone (small.issuer 9), (coll 0).copyRunners 0 == [part 0],
      twice.copyAt 9 == some (0, part 0), twice.copyRunners 0 == [],
      ((coll 0).members 0).contains 0, !((coll 1).members 1).contains 0, ((twice).engine 0).collIn.contains 0,
      !((coll 0).engine 0).collIn.contains 0] = true := by decide +kernel

theorem witness_MessagesAreBuiltAndBuffered :
    let rds : List (Cls × Opnd) := (.g, .reg 9) :: runUses 10 2
    let s := withG [(9, 0xA), (10, 0x100), (12, 0), (14, 0x10000000200)]
    let full := s.updTh (fun t => { t with sendBuf := List.replicate 16 (.one 0 ⟨0, [], .data⟩) })
    allHold [s.readyFor rds [], (s.issued rds).badDest 0x1000, !(s.issued rds).badDest (s.rg 9), full.th.sendFull 2, !s.th.sendFull 2,
      !s.relWaits none, !s.relWaits (some .dv), decide ((0x1D00 : Word).toNat < 2 ^ 14), (0x1D00 : Nat) / 256 % 32 == 29, (0x400 : Nat) / 256 % 32 == 4,
      decide (2 ^ 14 ≤ (0x4000 : Word).toNat), decide ((0x3FF : Nat) / 256 % 32 < 4), decide (29 < (0x1E00 : Nat) / 256 % 32),
      ((s.updTh (fun t => { t with run := .sup })).updEl 0 (fun e => { e with ops := [smallOp (.store [1]) (.loc 1 8)] })).relWaits (some .dv),
      (0x1004 : Nat) % 8 == 4, decide (0x10000 ≤ (0x10000 : Nat)), decide (Config.sendBufPlaces ≤ full.th.sendBuf.length), s.readyFor [(.g, .reg 9), (.g, .reg 10)] [],
      (s.rg 10).toNat % 8 == 0, oks ((s.issued [(.g, .reg 9), (.g, .reg 10)]).readStruct (s.issuer 0) 0x100 8 3), !(s.issued [(.g, .reg 9), (.g, .reg 10)]).structBehind 0x100 24,
      s.readyFor ((.g, .reg 12) :: (.g, .reg 14) :: runUses 1 4) [(.g, .reg 13)], (s.rg 14).toNat % 4 == 0, decide ((s.rg 12).toNat < s.nLe),
      decide (s.nLe ≤ (64 : Nat)), (0x10000000202 : Nat) % 4 == 2, decide (s.th.sendBuf.length < Config.sendBufPlaces),
      !s.th.unbuffered] = true := by decide +kernel

/-- A message of one word for channel 5. -/
def smallMsg : Msg := ⟨mkHeader 1 1 false none 0 5 false, [7], .data⟩

theorem witness_MessagesArriveAndActivationsRun :
    let s := sent (.msg 0 0 smallMsg) small
    let call := fun (t : Nat) => ({ smallMsg with header := mkHeader 1 0 false none 0 0 false, kind := .call t 0x10000000200 [0, 0, 0, 0] 0 1 } : Msg)
    let twoCalls := small.updEl 0 (fun e => { e with inb := [⟨1, call 9, false, false, false⟩, ⟨2, call 7, false, false, false⟩, ⟨3, call 7, false, false, false⟩] })
    let idle := small.updTh (fun t => { t with run := .free, act := none })
    let end_ := small.updTh (fun t => { t with ending := some 1 })
    let forks := small.updEl 0 (fun e => { e with stages := [(5, ⟨[], 0, none, some 4, 0, [], none⟩),
      (6, ⟨[⟨0, 0, 0⟩], 0, some ⟨true, 8, 0, 0xFFFFFFFF, 0x80000000, none, false, true, true⟩, none, 0, [], none⟩)] })
    let two := idle.updEl 0 (fun e => { e with allots := [smallAllot, { smallAllot with id := 2, firstSet := 2, nsets := 1 }] })
    let full := (two.updThOf 0 0 (fun t => { t with run := .user })).updThOf 0 1 (fun t => { t with run := .user })
    let late := (small.updEl 0 (fun e => { e with
      ops := [⟨9, 0, false, 0x10000000000, 0x100, 8, .loc 0 0x100, true, false, [], .store [1], false, Parts.none, true⟩]
      handlers := [(5, { smallHandler with stateful := true })], inb := [⟨1, smallMsg, false, false, false⟩] }))
    let gone := ({ late with nextId := 10 } : State).freeSet 0 0
    let launch : Msg := { smallMsg with header := mkHeader 1 0 false none 0 0 false, kind := .launch 7 [1, 2, 3, 4] 0 9 1 }
    allHold [two.allotOf 0 1 == some smallAllot, smallAllot.ttype == 7, decide (smallAllot.firstSet + smallAllot.nsets ≤ 4), (full.freeSetOf 0 smallAllot).isNone,
      (two.freeSetOf 0 smallAllot).isSome, (two.allotFor 0 launch).map (·.id) == some 1, (full.allotFor 0 launch).map (·.id) == some 2,
      (two.allotToRun 0 7).map (·.id) == some 1, (full.allotToRun 0 7).map (·.id) == some 2, (full.allotToRun 0 7).bind (full.freeSetOf 0) == some 2,
      ({ late with nextId := 10 } : State).storesLeft 0 0 10, gone.trails 0 5, (gone.candidate 0 false 5).isNone,
      ((gone.updEl 0 (fun e => { e with ops := [] })).candidate 0 false 5).isSome, (gone.thOf 0 0).run == .free,
      s.flight 9 == some (.msg 0 0 smallMsg), !s.ctx.stopped,
      !(s.ctx.flights.takeWhile (fun f => f.1 != 9)).any (fun f => samePair f.2 (.msg 0 0 smallMsg)),
      s.route 0 smallMsg == (none, false), !(s.el 0).inbFull (hdrPri smallMsg.header), s.ctx.present,
      (List.range 32).all (fun ch => (small.candidate 0 false ch).isNone), Map.find 5 (idle.el 0).handlers == some smallHandler,
      !(small.el 0).installing, (forks.el 0).installing, forks.forTwin 4 0 smallMsg, end_.th.sendBuf == [], !end_.backed 0,
      idle.ownerOf 0 5 == some smallAllot, !small.th.inSup, (end_.thOf 0 0).ending.isSome, !end_.ownWaits 0 0,
      !((end_.thOf 0 0).sendBuf.any (fun o => o.relScope.isSome) && end_.setBusy 0 0), !(end_.el 0).ops.any (fun o => o.set == 0 && o.mayTrap),
      twoCalls.candidate 0 false 0 == some (1, some ⟨2, call 7, false, false, false⟩),
      (small.thOf 0 0).ending.isNone, small.readyFor [] [(.g, .port .po)]] = true := by decide +kernel

theorem witness_ThreadsCountersAndWaits :
    let rds : List (Cls × Opnd) := (.g, .reg 9) :: (.g, .reg 10) :: runUses 1 4
    let s := withG [(9, 0), (10, 0x10000000200), (11, 0x8)]
    let spawn := sent (.spawnReq (small.issuer 9) 0 0x10000000200 [1, 2, 3, 4]) small
    let taken := spawn.updThOf 0 1 (fun t => { t with run := .user })
    let dec := fun (c : Nat) => { sent (.rdec (small.issuer 9) 0 8) small with mem := Mem.writeN (locPlace 0 8) (leBytes 4 c) small.mem }
    let rel := fun (c : Nat) => ((dec c).dropFlight 9).release 0 .dv
    let stuck := dec 1 |>.updEl 0 (fun e => { e with ringEn := false })
    let wait := small.updTh (fun t => { t with waiting := some (0, 34, 0) })
    let ended := small.updTh (fun t => { t with waiting := some (0, 34, 9), waited := some 2 })
    let long := small.updTh (fun t => { t with waiting := some (0, 34, 9) })
    allHold [ended.th.waiting.isSome, ended.th.waited == some 2, (long.thOf 0 0).waited.isNone, decide (long.tick - 0 < 9), long.qwaitCount 0 34 == 0,
      decide (0 < (long.putG (.port (.q 0)) 7).qwaitCount 0 34), ((long.putG (.port (.q 0)) 7).thOf 0 0).waiting == some (0, 34, 9),
      s.readyFor rds [(.g, .reg 2)], (s.rg 10).toNat % 4 == 0, decide ((s.rg 9).toNat < s.nLe), decide (s.nLe ≤ 64),
      spawn.flight 9 == some (.spawnReq (small.issuer 9) 0 0x10000000200 [1, 2, 3, 4]), !spawn.ctx.stopped,
      ((spawn.allotOfType 0 7).bind (spawn.freeSetOf 0)).isSome, ((taken.allotOfType 0 7).bind (taken.freeSetOf 0)).isNone,
      (sent (.spawnReply (small.issuer 9) 1) small).flight 9 == some (.spawnReply (small.issuer 9) 1),
      s.readyFor [(.g, .reg 11)] [(.g, .reg 2)], (s.rg 11).toNat % 8 == 0, s.leAt (s.physOf 0 / 4 * 4 + (0x4FFF8 - 0x10000) / 65536) == some 3,
      decide ((0x8000000000 - 0x8000000000) / 65536 < s.nLe), (dec 2).flight 9 == some (.rdec (small.issuer 9) 0 8),
      !(dec 2).busyBefore 0 0 9, (rel 2).counter (small.issuer 9) 0 8 == some (smallAllot, .loc 0 (smallAllot.base + 8)),
      !(s.issued [(.g, .reg 11)]).opsFull 0,
      (firstPoison (rel 2).poison (locPlace 0 8) 4).isNone, leNat ((rel 0).peek (locPlace 0 8) 4) == 0, leNat ((rel 1).peek (locPlace 0 8) 4) == 1,
      (((rel 1).poke (locPlace 0 8) (leBytes 4 0)).ringPush 0 8).isSome,
      ((((stuck.dropFlight 9).release 0 .dv).poke (locPlace 0 8) (leBytes 4 0)).ringPush 0 8).isNone,
      (small.alwWords 34).isSome, (small.alwWords 38).isNone, ((portOfNumber 34).bind (fun p => small.absentLink 0 [(p, 1)])).isNone,
      small.readyFor [(.g, .reg 5)] [(.g, .reg 2)], small.qwaitCount 0 34 == 0,
      decide (0 < (small.putG (.port (.q 0)) 7).qwaitCount 0 34), small.th.waiting.isNone, small.rg 4 == 0, small.rg 3 != 0,
      (wait.thOf 0 0).waiting == some (0, 34, 0), wait.qwaitCount 0 34 == 0, decide (0 ≤ wait.tick - 0),
      (small.thOf 0 0).blocked.all (fun nd => small.portReady 0 0 nd.1 nd.2.1 nd.2.2)] = true := by decide +kernel

theorem witness_HandlersMasksAndGroups :
    let s := (inHandler.updTh (fun t => (t.wg 3 5).wg 4 0x10000010000))
    let u := s.issued [(.g, .reg 3), (.g, .reg 4)]
    let entry := fun (z : Nat) => { u with mem := Mem.writeN 0x10000 (leBytes 8 0x10000000200 ++ leBytes 8 z ++ leBytes 16 0) u.mem }
    let read := fun (z : Nat) => (entry z).readStruct (u.issuer 0) 0x10000010000 8 4
    let bytes := fun (z : Nat) => match (read z).1 with
      | .ok bs => bs
      | .error _ => []
    let low := (inHandler.updTh (fun t => t.wg 4 0xF0000)).issued [(.g, .reg 3), (.g, .reg 4)]
    let closed := inHandler.updTh (fun t => (t.wg 3 5).wg 4 0x80000)
    let old := Map.find 7 (u.el 0).handlers
    let bar := fun (g : Nat) => sent (.bar (small.issuer 9) g false 3 0) small
    allHold [nextHas (exec (.hset 3 4) closed) (fun t => t.mailbox.log.getLast? == some (0x07, closed.th.pc, 5)),
      !small.th.inSup, s.th.inSup, s.readyFor [(.g, .reg 3), (.g, .reg 4)] [], (s.rg 4).toNat % 32 == 0, oks (read 0), !(entry 0).structBehind 0x10000010000 32,
      Map.find 5 (u.el 0).handlers == some smallHandler, smallHandler.owner == some 1, !smallHandler.stateful, !badEntry (bytes 0),
      !(handlerOf (bytes 0) (some 1)).1.stateful, badEntry (bytes (2 ^ 64 - 1)),
      small.readyFor [(.g, .reg 1), (.g, .reg 2)] [(.g, .reg 3)], small.readyFor [(.g, .reg 3)] [(.g, .reg 4)], decide ((small.rg 3).toNat ≤ 255),
      decide (255 < (256 : Word).toNat), (bar 0).flight 9 == some (.bar (small.issuer 9) 0 false 3 0), !(bar 0).ctx.stopped,
      !(bar 0).busyBefore 0 0 9, ((((bar 0).dropFlight 9).release 0 .dv).membersSeen 0).members 0 == [0],
      !(((((bar 1).dropFlight 9).release 0 .dv).membersSeen 1).members 1).contains 0, (GroupEngine.start.countOf 0).seen == [], (GroupEngine.start.countOf 0).rounds == 0,
      (withG [(4, 0x10000010010)]).rg 4 % 32 == 16, !oks (low.readStruct (low.issuer 0) 0xF0000 8 4), old.isNone, old.isNone && (handlerOf (bytes 0) none).1.hpc != 0,
      (handlerOf (bytes 0) none).1.rid != 255, (handlerOf (bytes 0) none).1.rid == 0, (handlerOf (List.replicate 32 (0 : Byte)) none).1.hpc == 0,
      !badEntry (List.replicate 32 (0 : Byte)), !badEntry (List.replicate 26 (0 : Byte) ++ [1, 0, 0, 0, 0, 0]),
      (handlerOf (List.replicate 26 (0 : Byte) ++ [1, 0, 0, 0, 0, 0]) none).1.stateful, ({ smallHandler with stateful := true } : Handler).stateful,
      small.readyFor [] [(.g, .reg 4)]] = true := by decide +kernel

/-- `small` with channel 5 a stage whose table is `krt`. -/
def staged (krt : List KrtEntry) (op : Option StageOp) : State := small.updEl 0 (fun e => { e with
  handlers := [(5, { smallHandler with stateful := true, hiw := 8, low := 1 }), (6, smallHandler)]
  stages := [(5, ⟨krt, 0, op, none, 0, [], none⟩)] })

theorem witness_StagesInstall :
    let s := withG [(3, 5), (4, 0x10000010000)]
    let more := fun (hpc : Word) (n : Nat) => (5, { smallHandler with hpc := hpc }) ::
      (List.range n).map (fun k => (10 + k, { smallHandler with stateful := true }))
    let table := fun (hpc : Word) (n : Nat) => s.updEl 0 (fun e => { e with handlers := more hpc n })
    let bytes := leBytes 8 0x10000000200 ++ leBytes 8 0x10000000300 ++ [0, 8, 1] ++ leBytes 13 0
    let put := fun (s : State) => { s with mem := Mem.writeN 0x10000 bytes s.mem }
    let u := (put s).issued [(.g, .reg 3), (.g, .reg 4)]
    allHold [s.readyFor [(.g, .reg 3), (.g, .reg 4)] [], (s.rg 4).toNat % 32 == 0, oks (u.readStruct (u.issuer 0) 0x10000010000 8 4), !u.structBehind 0x10000010000 32,
      match (u.readStruct (u.issuer 0) 0x10000010000 8 4).1 with
      | .ok bs => !badStage bs
      | _ => false,
      (0x10000010010 : Nat) % 32 == 16, errs (({ put s with poison := [0x2000] } : State).readStruct (u.issuer 0) 0x10000010000 8 4) (0x0F, 0x10000010000),
      (Map.find 7 ((table 0 0).el 0).handlers).isNone, leNat ((leBytes 32 0).take 8) == 0, badStage (leBytes 8 1 ++ leBytes 24 0),
      ((staged [⟨0, 0, 0⟩] (some ⟨true, 4, 0, 0, 0, none, false, false, false⟩)).stage 0 5).any (fun st => st.op.isSome),
      ((staged [⟨0, 0, 0⟩, ⟨9, 4, 0⟩] none).stage 0 5).any (fun st => st.hasTwin 0), ((staged [⟨0, 0, 0⟩] none).stage 0 5).any (fun st => !st.twinned 0),
      (Map.find 5 ((table 0 0).el 0).handlers).isSome, (Map.find 5 ((table 8 4).el 0).handlers).isSome,
      decide (4 ≤ (((table 8 4).el 0).handlers.filter (fun x => x.2.stateful)).length),
      decide ((((table 8 3).el 0).handlers.filter (fun x => x.2.stateful)).length < 4)] = true := by decide +kernel

theorem witness_StagesCloneAndMerge :
    let one : List KrtEntry := [⟨0, 0, 0⟩]
    let op : StageOp := ⟨true, 4, 0, 0xFFFFFFFF, 0x80000000, none, false, false, false⟩
    let two : List KrtEntry := [⟨0, 0, 0⟩, ⟨0x80000000, 4, 0⟩]
    let s := withG [(3, 5)]
    let mg : StageOp := ⟨false, 4, 0x80000000, 0xFFFFFFFF, 0, none, false, true, false⟩
    let twin := (staged two (some mg)).updEl 4 (fun e => { e with stages := [(5, ⟨[], 0, none, some 0, 0, [(true, 1), (false, 2)], none⟩)] })
    allHold [s.readyFor [(.g, .reg 3)] [(.g, .reg 4)], !small.isHome 0 5, (staged one none).isHome 0 5,
      (staged one none).stage 0 5 == some ⟨one, 0, none, none, 0, [], none⟩, (some op : Option StageOp).isSome, decide (one.length < 8),
      widest 0 one != none, widest 0 [⟨0, 0, 0⟩, ⟨1, 4, 0⟩] == none, ((staged one none).cloneStart 0 5 (some (0, 9))).isSome,
      (({ staged one none with ctx := { (staged one none).ctx with tiles := [] } } : State).cloneStart 0 5 none).isNone,
      s.readyFor [(.g, .reg 3), (.g, .reg 1)] [(.g, .reg 4)], two.any (fun k => k.own == 4), !one.any (fun k => k.own == 4),
      two[1]? == some ⟨0x80000000, 4, 0⟩, !small.copyFull, !small.th.inSup, inHandler.th.inSup,
      decide ((0x100 : Nat) + 8 ≤ (small.allotOf 0 1 |>.map (·.size)).getD 0), ({ smallAct with kind := .split } : Act).xst == 0, smallAct.kind == .message,
      ({ smallAct with xst := 1 } : Act).xst != 0, (0x104 : Nat) % 8 == 4,
      !(small.el 0).inbFull false, !op.queued, op.isClone, !mg.isClone, mg.shipped,
      !(small.el 0).inb.any (fun q => hdrChan q.msg.header == 5 && q.taken), (twin.stage 4 5).isSome, (twin.stage 0 5).isSome,
      (twin.el 4).inb == []] = true := by decide +kernel

/-- `small` with carousel 1 bound: four segments, of which 2 is valid and wanted by tile 0. -/
def riding : State := small.updCar 1 (fun c => { c with
  clen := 4, cbind := 0x8003, cgap := 1024, table := [(2, ⟨0x10000100000, 2, 0⟩)], copied := true, counts := [(2, [0])], idle := false })

theorem witness_CarouselInstructionsSubscribe :
    let s := withG [(1, 1), (2, 2)]
    let held := riding.updTile 0 (fun tl => { tl with bufs := vset tl.bufs 1 { WinBuf.start with resident := some (1, 2) } })
    allHold [s.readyFor [(.g, .reg 1), (.g, .reg 2)] [(.g, .reg 3)], riding.carFails 4 none == some 4, riding.carFails 0 (some 2) == some 0,
      riding.carFails 1 (some 4096) == some 4096, (riding.carFails 1 (some 4095)).isNone, (riding.carFails 1 none).isNone,
      !(riding.car 1).hasSeg 3, (riding.car 1).hasSeg 2, (riding.residentIn 0 1 2).isNone, held.residentIn 0 1 2 == some 1,
      riding.maskOf 0 1 2 == 0] = true := by decide +kernel

theorem witness_CarouselTablesSlotsAndWindows :
    let note := sent (.notify 1 2 0 true) riding
    let prom := sent (.cprom (small.issuer 9) 1 2) riding
    let fifo := fun (l : List Nat) => riding.updCar 1 (fun c => { c with fifo := l })
    let copy := small.updCar 1 (fun c => { c with copying := some (0, 4, []) })
    let idle := riding.updCar 1 (fun c => { c with counts := [] })
    let hear := fun (b : WinBuf) (m : BitVec 64) => ((riding.setMask 0 1 2 m).updTile 0 (fun tl => { tl with
      heard := [(1, 2, 2, 0)], bufs := Vector.replicate 3 b }))
    let busy : WinBuf := { WinBuf.start with capture := some ⟨1, 2, 2, 0, false, none⟩ }
    let open_ := riding.updCar 1 (fun c => { c with slot := some ⟨2, 2, 0, 0, none⟩ })
    let full := riding.updTile 0 (fun tl => { tl with bufs := vset tl.bufs 1 { busy with capture := some ⟨1, 2, 2, 0, true, none⟩ } })
    allHold [(small.car 1).clen == 0, decide ((4096 : BitVec 16).toNat ≤ 4096), decide (4096 < (4097 : BitVec 16).toNat), (riding.car 1).clen != 0,
      !(small.car 1).ncmt, (copy.car 1).copying != none, !riding.recovery, ({ riding with bringUp := 2, fwOk := false } : State).recovery, note.flight 9 == some (.notify 1 2 0 true), !note.ctx.stopped,
      prom.flight 9 == some (.cprom (small.issuer 9) 1 2), !(small.car 1).hasSeg 2, (riding.car 1).hasSeg 2,
      ((fifo [2]).car 1).fifo.findIdx? (· == 2) == some 0, ((fifo [0, 1, 3]).car 1).fifo.findIdx? (· == 2) == none,
      decide (((fifo [0, 1, 3]).car 1).fifo.length < Config.promoPlaces), decide (Config.promoPlaces ≤ ((fifo [0, 1, 3, 0]).car 1).fifo.length),
      riding.carReady 1, riding.planeFor 1, (riding.car 1).turn.1 == some (2, false), idle.carReady 1, idle.planeFor 1, (idle.car 1).turn.1.isNone,
      ((hear WinBuf.start 0).tile 0).heard == [(1, 2, 2, 0)], (hear busy 1).maskOf 0 1 2 == 1,
      (List.range 3).all (fun b => !(vget ((hear busy 1).tile 0).bufs b).free), (vget ((hear WinBuf.start 1).tile 0).bufs 0).free,
      (open_.car 1).slot == some ⟨2, 2, 0, 0, none⟩, !open_.tiles.any (fun t => t.2.heard.any (fun h => h.1 == 1)),
      (vget (full.tile 0).bufs 1).capture == some ⟨1, 2, 2, 0, true, none⟩] = true := by decide +kernel

theorem witness_RenderingInstructionsRunOnSlotZero :
    let s := withG [(8, 0x10000010000), (5, 0)]
    let rays : List (Cls × Opnd) := [(.v, .reg 0), (.v, .reg 1), (.g, .reg 8)]
    let on1 := { small with cur := (1, 0) }
    let deep := s.updTh (fun t => { t with stack := List.replicate 8 1, scap := 2, sbase := 0x100 })
    let spilt := s.updTh (fun t => { t with scnt := 1, scap := 2, sbase := 0x100 })
    let reads := fun (v : State) (rds : List (Cls × Opnd)) (n m al : Nat) =>
      let u := v.issued rds
      decide (0x10000010000 % al = 0) && oks (u.resolve (u.issuer 0) .special false 0x10000010000 n) && !u.structBehind 0x10000010000 m &&
      oks (u.readStruct (u.issuer 0) 0x10000010000 4 (m / 4))
    let bad := ({ s with poison := [0x2000] } : State).issued rays
    let atEnd := deep.updTh (fun t => { t with sbase := 0x1000 - 8 })
    let tri := { s with mem := Mem.writeN 0x10000 (leBytes 12 0 ++ (leBytes 4 0x3F800000 ++ leBytes 8 0) ++ (leBytes 4 0 ++ leBytes 4 0x3F800000 ++ leBytes 4 0)) s.mem }
    let ray := fun (q : BitVec 128) => (⟨q, Vector.replicate 4 24⟩ : VReg)
    let hit (s : State) : Bool :=
      let u := s.issued rays
      match (u.readStruct (u.issuer 0) 0x10000010000 4 9).1 with
      | .ok bs => (triTest (structF32 bs) (ray 0x00000000BF8000003E8000003E800000) (ray 0x7F8000003F8000000000000000000000)).isSome
      | .error _ => false
    allHold [slot0Instr (.spush (.reg 5)), !on1.onSlot0, small.onSlot0, !(on1.el 1).sets.toList.any (·.migrated),
      ((on1.updThOf 1 1 (fun t => { t with migrated := true })).el 1).sets.toList.any (·.migrated),
      s.readyFor rays [(.v, .reg 4), (.g, .reg 9)], reads s rays 128 96 64, s.readyFor rays [(.f, .reg 21), (.v, .reg 6)], reads s rays 36 36 4,
      (0x10000010020 : Nat) % 64 == 32,
      errs (bad.resolve (bad.issuer 0) .special false 0x1FFFF000000 36) 0x05, errs (bad.readStruct (bad.issuer 0) 0x10000010000 4 9) (0x0F, 0x10000010000),
      !hit s, hit tri, (s.updTh (fun t => { t with sigctl := 0x10C })).th.fails 0, !s.th.fails 24, s.readyFor [(.g, .reg 5)] [], decide (s.th.stack.length < 8), decide (8 ≤ deep.th.stack.length), deep.th.scnt != deep.th.scap,
      (deep.updTh (fun t => { t with scap := 0 })).th.scap == 0,
      match deep.spillCheck true 0x100 with
      | (.ok tg, s1) => !s1.behind 0 0 tg.place 8
      | _ => false,
      s.readyFor [] [(.g, .reg 6)], s.th.stack == [], s.th.scnt == 0, spilt.th.scnt != 0,
      match spilt.spillCheck false 0x100 with
      | (.ok tg, s1) => !s1.behind 0 0 tg.place 8 && oks (s1.loadNow (s1.issuer 0) tg 0x100 8)
      | _ => false,
      s.readyFor [(.g, .reg 8), (.v, .reg 0)] [(.v, .reg 29), (.v, .reg 30), (.v, .reg 31)], reads s [(.g, .reg 8), (.v, .reg 0)] 36 36 4,
      errs ((deep.updTh (fun t => { t with sbase := 0x104 })).spillCheck true 0x104) 0x04, errs (atEnd.spillCheck true 0x1000) 0x08,
      errs (spilt.spillCheck false 0xC000) 0x08,
      match spilt.spillCheck false 0x100 with
      | (.ok tg, s1) => errs (({ s1 with poison := [locPlace 0 0x100 / 8] } : State).loadNow (s1.issuer 0) tg 0x100 8) 0x100
      | _ => false,
      (structF32 (leBytes 4 0x7FC00000)).any (·.v.isNaN), (structF32 (leBytes 4 0x7F800000)).any (·.v.isInf),
      s.readyFor [(.v, .reg 29), (.v, .reg 30), (.v, .reg 31), (.v, .reg 1)] [(.g, .reg 9), (.v, .reg 7)],
      (laneF (s.rv 0) 0).v.isNaN == false && (laneF (s.rv 0) 0).v.isInf == false,
      (mergeOk (ray 1) (ray 0) (ray 1) (ray 0) (f32v 0) (f32v 0)) == some false, mergeOk (ray 1) (ray 0) (ray 2) (ray 0) (f32v 0) (f32v 0) == some true,
      mergeOk (ray (2 ^ 32 * 0x7F800000 + 1)) (ray 0) (ray 2) (ray 0) (f32v 0) (f32v 0) == none, s.readyFor [(.v, .reg 3)] [(.v, .reg 2)]] = true := by decide +kernel

/-- A sampler descriptor of one level of 4 by 4 texels at 2^40 + 0x20000, and four coordinates that lie in it. -/
theorem witness_SamplingReads :
    let s := { withG [(10, 0x10000010000)] with mem := Mem.writeN 0x10000 (leBytes 8 0x10000020000 ++ [4, 0, 4, 0, 1, 2, 0] ++ leBytes 17 0) small.mem }
    let rds : List (Cls × Opnd) := [(.g, .reg 10), (.v, .reg 20), (.v, .reg 21)]
    let u := s.issued rds
    allHold [s.onSlot0, s.readyFor rds [(.v, .reg 28), (.v, .reg 29), (.v, .reg 30), (.v, .reg 31)], s.readyFor (rds ++ [(.f, .reg 3)]) [(.v, .reg 28)],
      (s.rg 10).toNat % 32 == 0,
      !u.acquiring 0 0, (withG [(10, 0x10000010010)]).rg 10 % 32 == 16,
      (u.updEl 0 (fun e => { e with ops := [smallOp (.lda (.g 4) .dv) (.phys 0x18000)] })).acquiring 0 0,
      errs (u.sample 0x100 32) (0x07, 0x100),
      match u.sample 0x10000020000 32 with
      | (.ok bs, _) => (samplerOf bs).malformed
      | _ => false,
      match u.sample 0x10000010000 32 with
      | (.ok bs, s1) => !(samplerOf bs).malformed && oks (s1.samplePixels (fun q t =>
          t.bilinear (samplerOf bs) 0 (laneF (s.rv 20) q) (laneF (s.rv 21) q)) [0, 1, 2, 3])
      | _ => false] = true := by decide +kernel

theorem witness_ControlRegistersReadAndWrite :
    let act := small.updEl 0 (fun e => { e with ringStamps := [1] })
    let calm : State := { small with ctx := { small.ctx with calm := some 20000 } }
    let waits := calm.updTh (fun t => { t with pending := [(false, .g 4, 9)] })
    let slip := { small with slips := [(0, { Slip.start with en := 3 })] }
    allHold [small.readyFor [] [(.g, .reg 8)], csrSupervisor 0x21, !csrSupervisor 2, !small.th.inSup, inHandler.th.inSup,
      small.readyFor [(.g, .reg 4)] [(.g, .reg 3)], decide (6 ≤ (6 : Word).toNat % 8), decide ((5 : Word).toNat % 8 < 6),
      small.readyFor [(.g, .reg 3)] [], small.readyFor [(.g, .port .pi)] [], decide (6 ≤ ((6 : Word) ||| (small.takeG (.reg 3)).1).toNat % 8),
      !waits.readyFor [(.g, .reg 4)] [], waits.destTraps (.port .pn), !small.destTraps (.reg 3),
      decide (0 < (act.el 0).ringCnt), (small.el 0).ringCnt == 0, (small.el 0).ringRsv == 0,
      (((small.putCsr 5 0x10123).el 0).ringBase == 0x123), ((small.putCsr 5 0x10123).el 0).ringEn, ((act.putCsr 5 0x10123).el 0).ringBase == (act.el 0).ringBase,
      (((small.updEl 0 (fun e => { e with ringRsv := 1 })).putCsr 5 0x123).el 0).ringEn == (small.el 0).ringEn, small.ctx.calm.isNone, calm.ctx.calm.isSome, waits.th.pending != [], calm.th.pending == [],
      !calm.setBusy 0 0, small.readyFor [(.g, .port .pi)] [], !small.slipOn 0 1, slip.slipOn 0 1] = true := by decide +kernel

theorem witness_TrapsAndReturns :
    let u : Suspended := ⟨none, [], [], 0x10, none, 0x10000000000, none⟩
    let struck := inHandler.updTh (fun t => { t with susp := some { u with late := some ⟨8, 0x10000000000, 0x0F, 0x10000010000⟩ } })
    let loads := inHandler.updEl 0 (fun e => { e with ops := [{ smallOp (.load (.g 4) .zx) (.phys 0x10000) with inSup := true }] })
    let fatal := small.trapAt 0 0 0x07 0 none
    let held : HeldResult := ⟨[.f 3 ⟨0x34000000, 1⟩], 1, []⟩
    let push : HeldResult := ⟨[.port (.q 0) [7]], 0, []⟩
    let full := small.updEl 0 (fun e => { e with queues := vset e.queues 0 ⟨List.replicate 8 0, 8, 0, [], []⟩ })
    let needs := portNeeds push.pops (heldPushes push.writes)
    let calm : State := { small with ctx := { small.ctx with halting := [(0, 0)], calm := some 0 } }
    allHold [!small.th.inSup, small.th.pc &&& 0x0001FFFFFFFFFFFC == small.th.pc, !small.ctx.ownEntry, small.th.frame.isNone,
      (inHandler.thOf 0 0).inSup, inHandler.readyFor [(.g, .reg 1)] [(.g, .reg 2)], resumable 0x10, !resumable 0x07, decide (0x14 < 256),
      inHandler.th.inSup, inHandler.th.susp == some u, u.held.isNone, u.late.isNone, !inHandler.supWaits, loads.th.inSup, loads.supWaits,
      struck.th.susp.any (fun u => u.late.isSome), struck.th.inSup, !struck.supWaits, !small.supWaits, !fatal.supWaits,
      inHandler.th.tepc == u.pc &&& 0x0001FFFFFFFFFFFC, !calm.ctx.halted, !inHandler.ctx.halting.contains (0, 0), ((inHandler.trapAt 0 0 0x07 0 none).ctx.halting).contains (0, 0),
      ((inHandler.trapAt 0 0 0x07 0 none).trapAt 0 0 0x0C 0 none).mailbox.log.length == inHandler.mailbox.log.length + 1,
      (small.trapAt 0 0 0x09 0 (some held)).th.susp == some ⟨none, [], [], 0x09, some held, 0x10000000000, none⟩, needs.all (fun nd => small.portReady 0 0 nd.1 nd.2.1 nd.2.2),
      !needs.all (fun nd => full.portReady 0 0 nd.1 nd.2.1 nd.2.2), ({ inHandler with ctx := { inHandler.ctx with stopped := true } } : State).thOf 0 0 |>.inSup,
      !({ inHandler with ctx := { inHandler.ctx with stopped := true } } : State).ctx.halted, calm.ctx.halting != [], calm.ctx.calm == some 0, decide (0 ≤ calm.tick), u.frame.isNone, fatal.th.inSup, fatal.th.susp.isNone,
      ((small.updTh (fun t => { t with frame := some ⟨0x10000000000, [0x02000000], 2, 0, 0, 0, 1, 0⟩ })).trapAt 0 0 0x10 0 none).th.susp ==
        some ⟨some ⟨0x10000000000, [0x02000000], 2, 0, 0, 0, 1, 0⟩, [], [], 0x10, none, 0x10000000000, none⟩] = true := by decide +kernel

/-- `small` with window 0 bound and a launch record of task type 1 at its head: one element from element 8. -/
def launching (count : Nat) : State :=
  let task := leBytes 8 0x10000030400 ++ leBytes 8 0 ++ leBytes 4 0 ++ [0, 1, 0, 0, 0] ++ leBytes 7 0 ++ leBytes 32 0
  let rec0 := [1, 0, 0, 0] ++ leBytes 4 8 ++ leBytes 4 count ++ leBytes 52 0
  { small with
    mem := Mem.writeN 0x30040 task small.mem
    ctx := { small.ctx with ttab := 0x10000030000 }
    windows := [(0, { Window.start with bound := some 3, queue := [rec0] })] }

/-- `launching 1` with a launch that waits for element 8, whose allotment of every class-0 set is dead. -/
def waiting8 : State :=
  let s := (launching 1).updEl 8 (fun e => { e with allots := [{ smallAllot with id := 2, nsets := 3, chans := [] }] })
  match exec (.launchDispatch 0) s with
  | .next t => t
  | _ => s

theorem witness_LaunchesRunTheirCourse :
    let w := { Window.start with bound := some 3 }
    let rec0 : List Byte := List.replicate 64 0
    let run := { small with ctx := { small.ctx with launches := [⟨4, [0], 0x10000010000, 7, []⟩, ⟨5, [], 0, 7, [9]⟩] } }
    let free := small.updEl 0 (fun e => { e with sets := Vector.replicate 4 ThreadSet.start })
    let thief := twoTiles { free with tick := 256 }
    let req := sent (.stealReq 0 1) (twoTiles small)
    let ans := sent (.stealAns 0 1 []) (twoTiles small)
    let big : ClassShare := ⟨255, 0, 0, 0, 0⟩
    let full8 := waiting8
    allHold [small.mailbox.ready, w.bound.isSome, decide (w.queue.length < 16), decide (16 ≤ ({ w with queue := List.replicate 16 rec0 } : Window).queue.length),
      Window.start.bound.isNone, !small.recovery, small.ctx.present, !small.ctx.stopped, ((launching 1).window 0).bound == some small.ctx.ctxid,
      ((launching 1).window 0).queue != [], ((launching 1).window 0).head.isNone,
      (launching 0).launchError ((launching 0).headRec 0) ((launching 0).recTask ((launching 0).headRec 0)) == some 0x42,
      ((launching 1).recTask ((launching 1).headRec 0)).isSome,
      ((launching 1).launchError ((launching 1).headRec 0) ((launching 1).recTask ((launching 1).headRec 0))).isNone,
      small.allotOf 0 1 == some smallAllot, small.live 0 smallAllot, !free.live 0 smallAllot,
      run.ctx.launches.find? (fun l => l.id == 4) == some ⟨4, [0], 0x10000010000, 7, []⟩,
      run.ctx.launches.find? (fun l => l.id == 5) == some ⟨5, [], 0, 7, [9]⟩, !run.ctx.elems.any (fun e => e.2.ops.any (fun o => [9].contains o.id)),
      (withOp (.store [1]) (.phys 0x10000)).ctx.elems.any (fun e => e.2.ops.any (fun o => [9].contains o.id)), (small.el 0).owns 1 5,
      ((staged [⟨0, 0, 0⟩] none).stage 0 5).isSome, (Map.find 5 ((staged [⟨0, 0, 0⟩] none).el 0).handlers).isSome,
      thief.ctx.tiles.contains 0, thief.idle 0, !thief.stealing 0, thief.victim 0 == some 1, req.flight 9 == some (.stealReq 0 1),
      ans.flight 9 == some (.stealAns 0 1 []), sharesOk (Vector.replicate 6 noShare), !sharesOk (Vector.replicate 6 big),
      ({ small with tick := 512 } : State).boundaryDue, !({ small with tick := 600 } : State).boundaryDue, !small.boundaryDue,
      full8.ctx.present, full8.ctx.elems.length == 2, (full8.window 0).head.isSome, full8.windows.length == 1, (full8.window 0).bound == some full8.ctx.ctxid,
      full8.ctx.released == [], ({ full8 with ctx := { full8.ctx with released := [0] } } : State).ctx.released.contains 0, small.ctx.elems.length == 1,
      !free.live 0 smallAllot, small.live 0 smallAllot] = true := by decide +kernel

theorem witness_DeviceStepsAct :
    let lat := { small with latent := [2] }
    let slip := { small with slips := [(0, { Slip.start with en := 5, pcn := 4 })], tick := 4 }
    let busy := { small with mailbox := { small.mailbox with busy := true } }
    let hot : State := { small with tick := 10000, govs := [(0, { Governor.start with current := 2 ^ 64, stepped := some 9500 })] }
    let test : State := { small with bringUp := 4, mailbox := { small.mailbox with ready := false } }
    allHold [small.ctx.present, rowOf 0x10000000000 == .global, (small.thOf 0 0).run != .free, (small.thOf 0 0).ending.isNone, !(small.thOf 0 0).yielded,
      (small.thOf 0 0).frame.isNone, oks (small.fetchLine 0 (small.thOf 0 0).inSup (small.thOf 0 0).pc.toNat), !oks (small.fetchLine 0 false 0x100), small.canRun 0 0, !(small.updTh (fun t => { t with bubble := true })).canRun 0 0,
      (withOp (.store [1]) (.phys 0x10000)).ctx.elems.any (fun e => e.2.ops.any (fun o => !o.parked && o.translatedIn 0x10000000000 (2 ^ 30))),
      !small.ctx.elems.any (fun e => e.2.ops.any (fun o => !o.parked && o.translatedIn 0x10000000000 (2 ^ 30))),
      ({ small with bringUp := 2, fwOk := false } : State).recovery, lat.latent.contains (16 / 8), !small.latent.contains (16 / 8), small.mailbox.ready, decide (Config.gddrBytes - 8 + 8 ≤ Config.gddrBytes),
      decide (2 ^ 46 - 8 + 8 ≤ 2 ^ 46), busy.mailbox.busy, !small.recovery, slip.slipOn 0 2, (slip.slip 0).pcn != 0, slip.tick % (slip.slip 0).pcn == 0,
      (slip.thOf 0 (slip.tick / 4 % 4)).run == .free, small.tick % 10000 == 0, slip.tick % 10000 != 0,
      hot.intervalDue 0, !small.intervalDue 0, (hot.governor 0).stepped == some 9500, test.power, test.bringUp == 4, test.ctx.present, !test.ctx.halted,
      !({ test with ctx := Ctx.none } : State).ctx.present, !test.mailbox.ready, !goodLoad.maint,
      !({ State.reset with power := false } : State).power, ({ State.reset with power := false } : State).bringUp == 1] = true := by decide +kernel

/-- `small` without a context, ready to start one. -/
def bare : State := { State.reset with mailbox := { State.reset.mailbox with ready := true } }

theorem witness_ContextsStartStopAndResume :
    let after' := fun (i : Instr) (s : State) => match exec i s with
      | .next t => t
      | _ => s
    let old : Saved := ⟨{ Ctx.none with present := true, ctxid := 9, narrow := 12, tiles := goodLoad.narrow ++ goodLoad.wide }, [], [], [], [], [], [], [], []⟩
    let kept : State := { bare with saved := [old] }
    let calm : State := { small with ctx := { small.ctx with calm := some 20000 } }
    let rest : State := { calm with ctx := { calm.ctx with elems := [(0, Element.start 0 0 0)] } }
    let late : State := { calm with tick := 20001 }
    let halted : State := { small with ctx := { small.ctx with stopped := true } }
    let entry := fun (m : List Host.Cell) (pa e : Nat) => Mem.writeN pa (leBytes 8 e) m
    let mapped : State := { bare with mem := entry (entry (entry (entry (entry bare.mem 0x4020 0x8003) 0x8000 0xC003) 0xC000 0x95) 0xC008 0x10015) 0xC010 0x20015 }
    let bound := trustFields (0x10000000000, 0x10000, 0x10000020000)
    let low := trustFields (0x1000, 0x10000, 0x10000020000)
    let test : State := { bare with bringUp := 4, mailbox := { bare.mailbox with ready := false } }
    allHold [test.bringUp == 4, ({ goodLoad with maint := true } : LoadRequest).wf, test.saved == [], !test.ctx.present,
      (after' (.contextStart { goodLoad with maint := true }) { mapped with bringUp := 4, mailbox := { bare.mailbox with ready := false } }).ctx.present,
      rest.closeTick == rest, rest.planeDue == none, bare.mailbox.ready, goodLoad.wf, partitionOk goodLoad.narrow goodLoad.wide, !bare.ctx.present,
      goodLoad.windows.all (fun w => (bare.window w).bound == none), bare.saved == [], calm.ctx.calm == some 20000, decide (9999 < bare.tick + 10000),
      decide (bare.tick + 10000 ≤ 10000), small.ctx.present, !small.ctx.stopped, small.ctx.calm.isNone, rest.allQuiet, decide (rest.tick ≤ 20000),
      !calm.allQuiet, decide (20000 < late.tick), !({ calm with tick := 20000 } : State).allQuiet, ({ rest with tick := 20000 } : State).allQuiet, halted.ctx.stopped, !halted.ctx.halted, kept.vacate == some kept,
      (kept.saved.find? (fun v => v.ctx.ctxid == 9)).isSome, !old.ctx.halted,
      !(after' (.contextResume 9 goodLoad.narrow goodLoad.wide) { bare with saved := [{ old with ctx := { old.ctx with halted := true } }] }).ctx.present,
      (after' (.contextResume 9 goodLoad.narrow goodLoad.wide) kept).ctx.present, mapped.mailbox.ready,
      !mapped.ctx.present, goodLoad.windows.all (fun w => (mapped.window w).bound == none), mapped.saved == [], mapped.imageMapped (startCtx goodLoad) goodLoad.image,
      globalRange bound.1 bound.2.1 && globalRange bound.2.2 (bound.2.1 / 4), !(globalRange low.1 low.2.1 && globalRange low.2.2 (low.2.1 / 4)),
      halted.quiesced, old.ctx.narrow == goodLoad.narrow.length, (small.window 5).bound != some 3] = true := by decide +kernel

/-! ### Single steps: results that the spec works out, or that follow from its rules by hand -/

/-- The state after an instruction that completes. -/
def after (i : Instr) (s : State) : State :=
  match exec i s with
  | .next t => t
  | _ => s

/-- `addwi` of 0x7FFF_FFFF and 1 (Wording of rules, scope). -/
theorem test_addwi : allHold [(after (.addwi (.reg 2) (.reg 1) 1) (withG [(1, 0x7FFFFFFF)])).rg 2 == 0xFFFFFFFF80000000] = true := by decide +kernel

/-- Division corners of R190: by zero, and the most negative number by −1. -/
theorem test_div : allHold [(after (.div (.reg 2) (.reg 1) (.reg 4)) small).rg 2 == 0xFFFFFFFFFFFFFFFF,
    (after (.rem (.reg 2) (.reg 1) (.reg 4)) small).rg 2 == 0x10000010000,
    (after (.div (.reg 2) (.reg 1) (.reg 6)) (withG [(1, 0x8000000000000000), (6, 0xFFFFFFFFFFFFFFFF)])).rg 2 == 0x8000000000000000,
    (after (.rem (.reg 2) (.reg 1) (.reg 6)) (withG [(1, 0x8000000000000000), (6, 0xFFFFFFFFFFFFFFFF)])).rg 2 == 0] = true := by decide +kernel

/-- Shift amounts count by their low 6 bits, and a write to g0 is discarded (R189, R34). -/
theorem test_shift : allHold [(after (.sll (.reg 2) (.reg 3) (.reg 6)) (withG [(6, 65)])).rg 2 == 10,
    (after (.sra (.reg 2) (.reg 1) (.reg 6)) (withG [(1, 0x8000000000000000), (6, 63)])).rg 2 == 0xFFFFFFFFFFFFFFFF,
    (after (.sll (.reg 0) (.reg 3) (.reg 3)) small).rg 0 == 0] = true := by decide +kernel

/-- A taken branch skips five instructions, `jalr` links (R193, R194). -/
theorem test_branch : allHold [(after (.bltn (.reg 3) (.reg 1) 5) small).th.pc == 0x10000000018, (after (.bltn (.reg 1) (.reg 3) 5) small).th.pc == 0x10000000004,
    (after (.jalr (.reg 31) 1 (-4)) small).th.pc == 0x1000000FFFC, (after (.jalr (.reg 31) 1 (-4)) small).rg 31 == 0x10000000004] = true := by decide +kernel

/-- A byte stored and loaded with its sign (R157, R5). -/
theorem test_store_load : allHold [(after (.ldi8 (.reg 4) 2 1) (after (.st16 (.reg 1) 2 0) (withG [(1, 0xABCD80EE)]))).rg 4 == 0xFFFFFFFFFFFFFF80,
    (after (.st16 (.reg 1) 2 0) (withG [(1, 0xABCD80EE)])).peek (locPlace 0 0x100) 3 == [0xEE, 0x80, 0]] = true := by decide +kernel

/-- An atomic gives the old value and stores the sum (R315). -/
theorem test_aadd :
    let s := (withOp (.atom .add (some (.g 4)) 5 0 false) (.loc 1 8)).updEl 1 id
    let t := after (.remoteLocalAccess 0 9) { s with mem := Mem.writeN (locPlace 1 8) (leBytes 8 37) s.mem }
    allHold [leNat (t.peek (locPlace 1 8) 8) == 42, (t.el 0).ops.isEmpty] = true := by decide +kernel

/-- `ffma.f32` of 3, 1/3 and −1: 2^−25 with count 0 (R205). -/
theorem test_ffma :
    let t := after (.ffma false (.reg 1) (.reg 2) (.reg 3) (.reg 4)) (withF 2 0x40400000 24 (withF 3 0x3EAAAAAB 23 (withF 4 0xBF800000 24 small)))
    allHold [t.rf 1 == ⟨0x33000000, 0⟩, t.th.fcsr == 0] = true := by decide +kernel

/-- The cancellation that traps under `sigctl` 0x10C: `tcr` 1, `tca` and `tcb` 24 (R83, R84). -/
theorem test_doldrums :
    let s := (withF 1 0x3F800001 24 (withF 2 0x3F800000 24 small)).updTh (fun t => { t with sigctl := 0x10C })
    let t := after (.fsub .f32 (.reg 3) (.reg 1) (.reg 2)) s
    allHold [t.th.inSup, t.th.tcause.toNat % 256 == 9, (after (.tret 1) t).rf 3 == ⟨0x34000000, 1⟩,
      (after (.tret 1) t).th.pc == 0x10000000004] = true := by decide +kernel

/-- Classes of a quiet NaN, −∞ and a signalling NaN (R202). -/
theorem test_fclass : allHold ([(0x7FC00000, 0x05), (0xFF800000, 0x0C), (0x7F800001, 0x15)].map (fun p : Word × Word =>
    (after (.fclass .f32 (.reg 2) (.reg 5)) (withF 5 p.1 24 small)).rg 2 == p.2)) = true := by decide +kernel

/-- 0.1 to f32, 2^24 + 1 to f32, −0.7 and −1.5 to n32 (R207). -/
theorem test_fcvt :
    let a := after (.fcvt .f32 .f64 (.mode .rne) (.reg 1) (.reg 2)) (withF 2 0x3FB999999999999A 53 small)
    let b := after (.fcvt .f32 .n64 (.mode .rne) (.reg 1) (.reg 3)) (withG [(3, 0x1000001)])
    let c := after (.fcvt .n32 .f32 (.mode .rtz) (.reg 4) (.reg 2)) (withF 2 0xBF333333 24 small)
    let d := after (.fcvt .n32 .f32 (.mode .rne) (.reg 4) (.reg 2)) (withF 2 0xBFC00000 24 small)
    allHold [a.rf 1 == ⟨0x3DCCCCCD, 23⟩, a.th.fcsr == 8, b.rf 1 == ⟨0x4B800000, 23⟩, c.rg 4 == 0, c.th.fcsr == 8, d.rg 4 == 0,
      d.th.fcsr == 0x80] = true := by decide +kernel

/-- 1 + 2^−24 + 2^−26 under mode 5 with draws 0x5FFF and 0x6000 (R70, R71). -/
theorem test_stochastic : allHold [(fmtF32.round 5 0x5FFF false (.frac 0x4000005 0x4000000)).bits == 0x3F800000,
    (fmtF32.round 5 0x6000 false (.frac 0x4000005 0x4000000)).bits == 0x3F800001] = true := by decide +kernel

/-- Lane sums and products of integers (R240). -/
theorem test_vector :
    let v : VReg := ⟨0x00000004000000030000000200000001, Vector.replicate 4 24⟩
    let s := (small.updTh (·.wv 1 v)).updTh (·.wv 2 v)
    allHold [(after (.vred .i32 (.reg 3) (.reg 1)) s).rv 3 == ⟨10, Vector.replicate 4 24⟩,
      (after (.vmul .i32 (.reg 3) (.reg 1) (.reg 2)) s).rv 3 == ⟨0x00000010000000090000000400000001, Vector.replicate 4 24⟩] = true := by decide +kernel

/-- The rank-1 update of the vector chapter: eight results, token 8 (R244 to R249). -/
theorem test_wfma :
    let rec_ := fun (base : Nat) (dims : List Nat) (strides : List Nat) =>
      leBytes 8 base ++ dims.flatMap (leBytes 4) ++ strides.flatMap (leBytes 8) ++ [1] ++ leBytes 15 0
    let f32s := fun (xs : List Nat) => xs.flatMap (leBytes 4)
    let block := rec_ 0x200 [4, 2, 1, 1] [4, 8, 8] ++ rec_ 0x220 [1, 2, 1, 1] [1, 2, 2] ++ rec_ 0x230 [4, 1, 1, 1] [4, 4, 4]
    let data := f32s (List.replicate 8 0x3F800000) ++ f32s [0x3F800000, 0x40000000, 0, 0] ++ f32s [0x3F000000, 0, 0xBF800000, 0x40000000]
    let s := { withG [(7, 0x10000010000)] with mem := Mem.writeN (locPlace 0 0x200) data (Mem.writeN 0x10000 block small.mem) }
    let t := after (.wopExecute 0) (after (.wfma 5 7) s)
    allHold [t.rg 5 == 8, t.peek (locPlace 0 0x200) 32 == f32s [0x3FC00000, 0x3F800000, 0, 0x40400000, 0x40000000, 0x3F800000, 0xBF800000, 0x40A00000],
      t.th.pending == []] = true := by decide +kernel

/-- The row after a clone at 0x8000_0000 (R337). -/
theorem test_krd :
    let s := (staged [⟨0, 64, 0⟩, ⟨0x80000000, 68, 0⟩] none).updTh (·.wg 6 5)
    allHold [(after (.krd (.reg 3) 6 1) s).rg 3 == 0x8000004480000000] = true := by decide +kernel

/-- `qmrg` of the disjoint masks of the rendering chapter: lane 0 holds 0x1EF, and every depth is 0.5 (R293). -/
theorem test_qmrg :
    let quad := fun (m : BitVec 128) => (⟨0x3F800000000000000000000000000000 + m, Vector.replicate 4 24⟩ : VReg)
    let half : VReg := ⟨0x3F0000003F0000003F0000003F000000, Vector.replicate 4 24⟩
    let s := (withG [(5, 0x3A8000003F600000)]).updTh (fun t => (((t.wv 12 (quad 1)).wv 13 half).wv 14 (quad 14)).wv 15 half)
    let t := after (.qmrg 10 12 14 5) s
    allHold [laneBits .f32 (t.rv 10) 0 == 0x1EF, t.rv 11 == half] = true := by decide +kernel

/-- The ray that meets its triangle at t = 3 with barycentrics of 1/3 (R235). -/
theorem test_trit :
    let tri := leBytes 12 0 ++ leBytes 4 0x40400000 ++ leBytes 8 0 ++ leBytes 4 0 ++ leBytes 4 0x40400000 ++ leBytes 4 0
    let s := { withG [(15, 0x10000010000)] with mem := Mem.writeN 0x10000 tri small.mem }
    let s := s.updTh (fun t => (t.wv 0 ⟨0x00000000C04000003F8000003F800000, Vector.replicate 4 24⟩).wv 1
      ⟨0x7F8000003F8000000000000000000000, Vector.replicate 4 24⟩)
    let t := after (.trit 21 0 15 6) s
    allHold [(t.rf 21).bits == 0x40400000, laneBits .f32 (t.rv 6) 0 == 0x3EAAAAAB, laneBits .f32 (t.rv 6) 1 == 0x3EAAAAAB,
      laneBits .f32 (t.rv 6) 2 == 0x3EAAAAAB, laneBits .f32 (t.rv 6) 3 == 0] = true := by decide +kernel

/-- Snapshots of a queue and of the payload (R187), and the payload's words (R178). -/
theorem test_ports : allHold [(after (.alw (.reg 4) (.reg 6)) (withG [(6, 34)])).rg 4 == 0x800, (after (.alw (.reg 4) (.reg 6)) (withG [(6, 32)])).rg 4 == 2,
    (after (.add (.reg 4) (.port .pi) (.port .pi)) small).rg 4 == 33] = true := by decide +kernel

/-- `sys` raises 0x10 with its immediate, and a privileged write from a handler traps 0x12 (R353, R355). -/
theorem test_traps : allHold [(after (.sys 5) small).th.tcause.toNat == 0x110, (after (.sys 5) small).th.tval == 5,
    (after (.sys 5) small).th.pc == 0x10000000400, (after (.csrw (.reg 0) (.reg 5) 0x21) small).th.tcause.toNat % 256 == 0x12] = true := by decide +kernel

/-- A message reaches its queue with its header's sender and channel (R167, R174). -/
theorem test_send :
    let s := withG [(9, 10), (10, 77)]
    let t := after (.send 9 10 1 none) s
    allHold [t.th.sendBuf.length == 1, t.th.sndctr == 2,
      match t.th.sendBuf with
      | [.one 0 m] => m.payload == [77] && hdrChan m.header == 5
      | _ => false] = true := by decide +kernel

/-- The bf16 run of the matrix chapter on a wide tile's unit: the cell ends at +0 with count 0, and a drain under `sigctl` 0x50C reports 0x2B (R272, R280). -/
theorem test_mrbf :
    let block := leBytes 8 0x200 ++ leBytes 4 3 ++ leBytes 4 1 ++ leBytes 4 1 ++ leBytes 4 1 ++ leBytes 24 0 ++ [3] ++ leBytes 15 0 ++ leBytes 8 0
    let s := { small with mem := Mem.writeN (locPlace 0 0x200) [0x80, 0x45, 0x80, 0x3F, 0x80, 0x45] (Mem.writeN 0x10000 block small.mem) }
    let s := s.updUnit 3 (fun m => { m with active := ⟨3, [(0, 0x4580), (64, 0x3F80), (128, 0xC580)], []⟩ })
    let t := (s.mxPerform { smallMx with op := .mrbf, block := 0x10000010000, scale := ⟨0x3F800000, 24⟩ } 3).2
    let d := leBytes 8 0x400 ++ leBytes 4 1 ++ leBytes 4 1 ++ leBytes 4 1 ++ leBytes 4 1 ++ leBytes 24 0 ++ [1] ++ leBytes 15 0 ++ leBytes 8 0
    let u := { t with mem := Mem.writeN 0x10000 d t.mem }
    let e := (u.mxPerform { smallMx with op := .mdrn, block := 0x10000010000, scale := ⟨0x3F800000, 24⟩, sigctl := 0x50C } 3).1
    allHold [(Map.get AccCell.start (t.unit 3).cells 0).bits == 0, (Map.get AccCell.start (t.unit 3).cells 0).tc == 0,
      match e with
      | .done v => v.toNat % 256 == 0x2B
      | _ => false] = true := by decide +kernel

/-- A register write that spans two carousel blocks reaches both, and one that runs past the launch windows reaches none of them (R380). -/
theorem test_register_write :
    let t := after (.registerWrite 0x2003C (leBytes 12 (2 ^ 40))) small
    allHold [(t.car 1).ctab == 0x100, (t.car 0).ctab == 0, ((after (.registerWrite 0x11FC0 (List.replicate 128 1)) small).window 0).seen == 0] = true := by
  decide +kernel

/-- A queued w-op whose source or record changes is marked, for good (R250, R244). -/
theorem test_wop_changed :
    let mem := fun (y d : Nat) => Mem.writeN (locPlace 0 0x300) [BitVec.ofNat 8 y] (Mem.writeN 0x10000 (shapeBytes d 10 1 ++ shapeBytes 0x300 10 1) small.mem)
    let half := fun (d : Nat) => (shapeBytes d 10 1).map (fun b => [b])
    let cmd : WCmd := ⟨small.issuer 9, .cpy, 0x10000010000, ⟨0, 53⟩, 0, 1, 0, 0, [], none, [shapeOf (shapeBytes 0x200 10 1),
      shapeOf (shapeBytes 0x300 10 1)], [(0x10000010000, half 0x200), (0x10000010040, half 0x300)], [(0x300, [[5], [0]])], false, none⟩
    let queued := fun (y d : Nat) (c : WCmd) => { small with mem := mem y d, quads := Map.set 0 { Quad.start with wops := [c] } small.quads }
    let marks := fun (v : State) => ((Map.get Quad.start v.noted.quads 0).wops.map (·.broken), v.noted.ctx.unspec)
    allHold [marks (queued 5 0x200 cmd) == ([false], false), marks (queued 6 0x200 cmd) == ([true], true),
      marks (queued 5 0x208 cmd) == ([true], false), marks (queued 5 0x200 { cmd with broken := true }) == ([true], false)] = true := by decide +kernel

/-- A stale line of a source that its tile drops is no change of the source, and a store by another tile is (R250, R137, R138). -/
theorem test_wop_stale :
    let line := fun (b stored : Nat) => (⟨0x100000100, 0, 0x10000, 0, true, true, false,
      vset (Vector.replicate 4 Line.empty) 0 ⟨true, BitVec.ofNat 512 b, BitVec.ofNat 64 stored, 0⟩⟩ : Superblock)
    let cmd : WCmd := ⟨small.issuer 9, .cpy, 0, ⟨0, 53⟩, 0, 1, 0, 0, [], none, [], [], [(0x10000010000, [[7, 5]])], false, none⟩
    let s := { small with mem := Mem.writeN 0x10000 [5] small.mem }
    let stale := s.updTile 0 (fun tl => { tl with l1 := [line 7 0] })
    allHold [stale.liveAt cmd.who (0x10000010000, 1) == some (0x10000010000, [[7, 5]]), !stale.sourcesDiffer cmd, !s.sourcesDiffer cmd,
      (stale.updTile 1 (fun tl => { tl with l1 := [line 9 1] })).sourcesDiffer cmd, !(s.updTile 1 (fun tl => { tl with l1 := [line 9 0] })).sourcesDiffer cmd,
      ({ s with mem := Mem.writeN 0x10000 [6] s.mem } : State).sourcesDiffer cmd] = true := by decide +kernel

/-- Elements overlap by their location: element 1 of D in the own window and element 0 of X in the quad window, not one that coincides with its own
source there (R130, R249). -/
theorem test_wop_overlap_place :
    let shape := fun (a : Nat) => shapeOf (shapeBytes a 10 2)
    let job := fun (x : Nat) => (⟨shape 0x200, shape x, shapeOf [], none, none⟩ : WJob)
    let who := small.issuer 9
    allHold [(job 0x10202).overlaps who .cpy 1 small, !(job 0x10202).overlaps who .cpy 0 small, !(job 0x10200).overlaps who .cpy 0 small,
      !(job 0x10200).overlaps who .cpy 1 small, !(job 0x20202).overlaps who .cpy 1 small,
      small.copySources who 0x10FFE 4 == [locPlace 0 0xFFE, locPlace 0 0xFFF], small.copySources who 0x11000 1 == [], small.copySources who 0x8000000200 1 == [locPlace 0 0x200]] = true := by
  decide +kernel

/-- A record that changes once the engine has read it leaves what the program sees free, and `g0` is 0 still (R10, R250, R34). -/
theorem test_wop_lawless :
    let shapes := [shapeOf (shapeBytes 0x200 10 1), shapeOf (shapeBytes 0x300 10 1)]
    let cmd : WCmd := ⟨small.issuer 9, .cpy, 0x10000010000, ⟨0, 53⟩, 0, 1, 0, 0, [], none, shapes, [(0x10000010000, List.replicate 8 [0])], [], false,
      some ⟨shapes.getD 0 (shapeOf []), shapes.getD 1 (shapeOf []), shapeOf [], none, none⟩⟩
    let s := { small with
      mem := Mem.writeN 0x10000 (shapeBytes 0x208 10 1 ++ shapeBytes 0x300 10 1) small.mem
      quads := Map.set 0 { Quad.start with wops := [cmd] } small.quads }
    allHold [s.noted.ctx.unspec, s.memInv, !s.th.inSup, s.noted.free == s.free + 1, rget s.noted.th.g 0 == 0, s.noted.th.pc == s.th.pc, (Map.find 0 s.ctx.elems).isSome] = true := by
  decide +kernel

/-- The control registers of a marked context are free within their bits, the bank and the registers of the runtime's handler stay (R10, R391). -/
theorem test_unspecified_csrs (n k : Nat) (t : ThreadSet) (h : t.inSup = true) :
    (t.unspecify false n k).fcsr = t.fcsr ∧ (t.unspecify false n k).sg = t.sg ∧ (t.unspecify true n k).tval = freeWordAt n (k + 544 + 7) := by
  refine ⟨?_, ?_, ?_⟩ <;> simp only [ThreadSet.unspecify, ThreadSet.unspecifyCsrs, h] <;> simp

/-- A double trap while the partition stands stopped halts its context at once (R348). -/
theorem test_double_trap_stopped :
    let s := ({ inHandler with ctx := { inHandler.ctx with stopped := true } } : State).trapAt 0 0 0x0F 0 none
    allHold [s.ctx.halted, s.mailbox.log.getLast? == some (s.ctx.ctxid.setWidth 64, 0, 0)] = true := by decide +kernel

/-- The count of ticks goes on where the 64-bit timebase wraps, into a new period of 512 (R6, R124). -/
theorem test_timebase_wraps :
    let s := ({ small with tick := 2 ^ 64 - 1 } : State).advanceTime 2
    allHold [s.timebase == 0, s.tick == 2 ^ 64, s.agenda.take 1 == [.advance 1]] = true := by decide +kernel

/-- An exact subnormal 1/√X counts one below its own bits: 1/√4 in e2m1 is 0.5, of one bit (R246, R76). -/
theorem test_wrsq_subnormal : wrsqOf 6 0 fmtE2m1 ⟨fmtF32, 0x40800000, 24⟩ = (⟨1, 0, false, false⟩, 0) := by
  unfold wrsqOf Fmt.roundFree
  generalize Config.rsqUpper _ _ _ = u
  cases u <;> decide +kernel

/-- An image whose `.data` is not in global memory is not taken (R27). -/
theorem test_image_data : allHold [goodLoad.image.wf, !({ goodLoad.image with data := 0 } : Image).wf] = true := by decide +kernel

/-- The upper half of a 16-byte store lands a step before the lower one where the schedule says so (R304, R305). -/
theorem test_store_halves :
    let s := (small.updEl 0 (fun e => { e with ops := [{ smallOp (.store (leBytes 16 (2 ^ 64 * 7 + 5))) (.loc 1 8) with n := 16 }] })).updEl 1 id
    let t := after (.remoteLocalAccess 0 9) { s with choices := [2] }
    let u := after (.remoteLocalAccess 0 9) t
    allHold [leNat (t.peek (locPlace 1 8) 8) == 0, leNat (t.peek (locPlace 1 16) 8) == 7, (t.el 0).ops.length == 1,
      leNat (u.peek (locPlace 1 8) 8) == 5, (u.el 0).ops.isEmpty] = true := by decide +kernel

/-- A store that the L1 or the quad serves is still outstanding after its issue where the schedule says so (R305). -/
theorem test_served_store_waits :
    let s := withG [(1, 0xFF8)]
    let now := after (.st64 (.reg 3) 1 0) s
    let later := after (.st64 (.reg 3) 1 0) { s with choices := [1] }
    allHold [(now.el 0).ops.isEmpty, (later.el 0).ops.length == 1, leNat (now.peek (locPlace 0 0xFF8) 8) == 5,
      leNat (later.peek (locPlace 0 0xFF8) 8) == 0] = true := by decide +kernel

/-- e^x of a tiny operand is inexact on its side of 1 (R246, R68); an exact zero of four full texels keeps a full count (R76, R290). -/
theorem test_near_one_and_texels : allHold [expFrac ⟨1, 2 ^ 1074⟩ == (2 ^ 250 + 1, 2 ^ 250), expFrac ⟨-1, 2 ^ 1074⟩ == (2 ^ 250 - 1, 2 ^ 250), expFrac ⟨0, 1⟩ == (1, 1),
    (filterVal [⟨fmtF16, 0x3C00, 11⟩, ⟨fmtF16, 0xBC00, 11⟩, ⟨fmtF16, 0x3C00, 11⟩, ⟨fmtF16, 0xBC00, 11⟩] [16384, 16384, 16384, 16384]).2 == 24,
    (filterVal [⟨fmtF16, 0x3C00, 11⟩, ⟨fmtF16, 0xBC00, 10⟩, ⟨fmtF16, 0x3C00, 11⟩, ⟨fmtF16, 0xBC00, 11⟩] [16384, 16384, 16384, 16384]).2 == 0] = true := by
  decide +kernel

/-- What a window has accepted for a context is counted on when it is bound again, and from none after the context starts; its error stays
(R105, R108). -/
theorem test_window_count :
    let w := { Window.start with bound := some 3, acc := 5, err := true, code := 0x41 }
    let back := (w.bind 4).bind 3
    allHold [(w.bind 4).acc == 0, back.acc == 5, back.err, ((w.unbind.countAnew 3).bind 3).acc == 0] = true := by decide +kernel

/-- An activation that arrives again rejoins its round after an arrival of another one (R339). -/
theorem test_gbar_interleaved :
    let a := GroupEngine.start.arrive 0 false 3 0
    let b := a.2.arrive 0 false 8 0
    allHold [a.1 == 1, b.1 == 2, (b.2.arrive 0 false 3 0).1 == 1, (b.2.arrive 0 false 3 1).1 == 3] = true := by decide +kernel

/-- A waiting `qwait` keeps its place at the port that it will push (R180). -/
theorem test_qwait_place :
    let s := after (.qwait (.port (.q 2)) 34 (.reg 6)) (withG [(6, 9)])
    allHold [s.th.waiting.isSome, (vget (s.el 0).queues 2).writers == [.set 0 0]] = true := by decide +kernel

/-- A copy of a whole poisoned word clears it; half of one leaves it (R155). -/
theorem test_copy_cleans :
    let s := { small with poison := [locPlace 0 0x200 / 8] }
    let run := fun (n : Nat) => (s.copyRun (small.issuer 9) 0x200 0x300 n).2.poison
    allHold [run 8 == [], run 4 == [locPlace 0 0x200 / 8]] = true := by decide +kernel

/-- An uncorrectable error takes no place of the operand log away: a ninth write still pushes the first one out (R352). -/
theorem test_strike_oplog :
    let s := small.updTh (fun t => { t with oplog := (List.range 8).map (fun k => (false, .g (BitVec.ofNat 5 (k + 1)))) })
    allHold [((s.strikeReg 0 0 (false, .g 3) true).th.oplog).length == 8, !((s.strikeReg 0 0 (false, .g 3) true).th.oplog).contains (false, .g 3),
      (s.strikeReg 0 0 (false, .g 3) false).th.oplog == s.th.oplog] = true := by decide +kernel

/-- An allotment that no row keeps live retires before the next step, and a share that waited for its place is allotted (R376, R377, R113); without a
release there is no retry. -/
theorem test_release_retries :
    let s := waiting8
    let t := s.atOnce
    allHold [(s.window 0).head.isSome, (after (.launchShareRetry 0 0) s).window 0 == s.window 0, (t.window 0).head.isNone, (t.window 0).queue == [],
      ((t.el 8).allots.map (·.ttype)) == [1], t.ctx.launches.length == 1, (t.el 0).allots == [smallAllot], t.ctx.released == []] = true := by decide +kernel

/-- An advance stops at a multiple of 512, and shares written after it wait for the next one (R124). -/
theorem test_period_boundary :
    let s := small.advanceTime 600
    let late : State := { s with tick := 600, ctx := { s.ctx with nextShares := some (Vector.replicate 6 ⟨1, 1, 1, 1, 1⟩) } }
    allHold [s.tick == 512, s.agenda.take 1 == [.advance 88], (s.advanceTime 88).period == 1, (s.advanceTime 88).tick == 600,
      (after .budgetPeriodBoundary (late.advanceTime 0)).ctx.nextShares.isSome] = true := by decide +kernel

/-- The limit of a `qwait` strikes at its tick; an entry that comes later is too late, one of that tick ends the wait with the count of then (R188). -/
theorem test_qwait_limit :
    let s := (after (.qwait (.reg 4) 34 (.reg 3)) small).advanceTime 100
    let put := s.putG (.port (.q 0)) 7
    let on := put.advanceTime 95
    allHold [s.tick == 5, s.agenda.take 1 == [.advance 95], !s.canRun 0 0, (s.advanceTime 95).th.inSup, (s.advanceTime 95).th.tcause == 0x10C, put.canRun 0 0,
      on.tick == 100, on.th.waited == some 1, (after (.qwait (.reg 4) 34 (.reg 3)) (on.putG (.port (.q 0)) 8)).rg 4 == 1] = true := by decide +kernel

/-- A launch runs in a set of another allotment of its task type where its own has none, and stays its own allotment's (R167). -/
theorem test_launch_elsewhere :
    let m : Msg := ⟨mkHeader 0 0 true none 0 0 false, [], .launch 7 [1, 2, 3, 4] 0 9 1⟩
    let two := small.updEl 0 (fun e => { e with
      allots := [{ smallAllot with nsets := 1 }, { smallAllot with id := 2, firstSet := 1, nsets := 1, scratch := 0x2000 }], inb := [⟨5, m, false, false, false⟩] })
    let t := after (.activationDispatch 0) two
    allHold [(two.allotFor 0 m).map (·.id) == some 2, (t.thOf 0 1).run == .user, (t.thOf 0 1).act.any (fun c => c.allot == 1), (t.thOf 0 1).rg 7 == 0,
      (t.thOf 0 1).rg 1 == 1] = true := by decide +kernel

/-- A governor decides an interval once (R386). -/
theorem test_governor_once :
    let s : State := { small with tick := 10000 }
    let t := after (.governorInterval 0 90) s
    allHold [s.intervalDue 0, (t.governor 0).temp == 90, !t.intervalDue 0, (after (.governorInterval 0 80) t).govs == t.govs] = true := by decide +kernel

/-- Power good takes the bring-up to step 4, where only a context in maintenance mode starts; another takes it to its end once no test runs (R389). -/
theorem test_bring_up_tests :
    let s : State := { State.reset with bringUp := 4 }
    let busy : State := { s with ctx := { small.ctx with maint := true } }
    let t := after .powerGood s
    allHold [after .powerGood busy == busy, t.bringUp == 5, t.mailbox.ready, !s.serves goodLoad.maint, s.serves true, (after (.contextStart goodLoad) s) == s] = true := by
  decide +kernel

/-- Where every set is quiet in a tick up to T, the switch begins with the next tick (R359). -/
theorem test_cooperative_switch :
    let s : State := { (small.updTh (fun t => { t with yielded := true })) with ctx := { (small.updTh (fun t => { t with yielded := true })).ctx with calm := some 3 } }
    let t := after .cooperativeSwitch s
    allHold [t.tick == 1, t.ctx.stopped, after .forcedStop { s with tick := 3 } == { s with tick := 3 }, (after .forcedStop { s with tick := 4 }).ctx.stopped,
      after .cooperativeSwitch { s with tick := 4 } == { s with tick := 4 }] = true := by decide +kernel

/-- A command that names a link its element does not have fails with 0x23 (R262, R181): no program reads past the edge of the mesh. -/
theorem test_no_link :
    let rec_ := fun (base : Nat) (dims : List Nat) (strides : List Nat) (flags : Byte) =>
      leBytes 8 base ++ dims.flatMap (leBytes 4) ++ strides.flatMap (leBytes 8) ++ [1, flags] ++ leBytes 14 0
    let block := rec_ 0x200 [4, 2, 1, 1] [4, 8, 8] 0 ++ rec_ 0x220 [1, 2, 1, 1] [1, 2, 2] 0 ++ rec_ 40 [4, 1, 1, 1] [4, 4, 4] 1
    let s := { withG [(7, 0x10000010000)] with mem := Mem.writeN 0x10000 block small.mem }
    allHold [small.noLink 0 40, (after (.wopExecute 0) (after (.wfma 5 7) s)).rg 5 == tokErr 0x23] = true := by decide +kernel

end
end Sys2Proof.Tests
end

section
/-! The step with an agenda (O6): its head, what is done before it (`State.atOnce`, `State.noted`), and how far an advance of the timebase goes
(`State.advanceTime`, `State.advanceCalm`). -/
namespace Sys2Proof.Machine

/-! ### The head of the agenda (log entry 1) -/

section
variable {s : State} {rest : List Agenda} (hp : s.power = true)
include hp

theorem step_of_cycle {le : Nat} (h : s.agenda = .cycle le :: rest) :
    step s = ({ s.atOnce.noted with agenda := rest } : State).cycle le := by
  simp only [step, State.noted_agenda, State.atOnce_agenda, h, State.noted_power, State.atOnce_power, hp, if_true]

theorem step_of_advance {n : Nat} (h : s.agenda = .advance n :: rest) :
    step s = .next (({ s.atOnce.noted with agenda := rest } : State).advanceTime n) := by
  simp only [step, State.noted_agenda, State.atOnce_agenda, h, State.noted_power, State.atOnce_power, hp, if_true]

theorem step_of_event {i : Instr} (h : s.agenda = .event i :: rest) (he : encode i = none) (hw : i.wellFormed = true) :
    step s = exec i { s.atOnce.noted with agenda := rest } := by
  have hev : isEvent i = true := by rw [isEvent, he]; rfl
  simp [step, h, hp, hev, hw]

/-- An instruction word is passed over. -/
theorem step_of_word {i : Instr} {w : Code} (h : s.agenda = .event i :: rest) (he : encode i = some w) :
    step s = .next { s.atOnce.noted with agenda := rest } := by
  have hev : isEvent i = false := by rw [isEvent, he]; rfl
  simp [step, h, hp, hev]

end

/-! ### What is done before a step (R10, R113, R250, R376, R377) -/

/-- Where only allotting leaves its marks, the fields that may carry them are the only ones that differ. -/
theorem State.Allots.eq_with {s t : State} (h : s.Allots t) : t = { s with
    ctx := { s.ctx with elems := t.ctx.elems, launches := t.ctx.launches, flights := t.ctx.flights, released := t.ctx.released }
    tiles := t.tiles, mem := t.mem, poison := t.poison, latent := t.latent, nextId := t.nextId, windows := t.windows } := by
  obtain ⟨_, _, _, _, _, _, _, _, _, _, rfl⟩ := h
  rfl

theorem State.noted_eq_with (s : State) : s.noted = { s with
    quads := s.noted.quads, mem := s.noted.mem, tiles := s.noted.tiles
    ctx := { s.ctx with unspec := s.noted.ctx.unspec, elems := s.noted.ctx.elems }, free := s.noted.free } := by
  obtain ⟨_, _, _, _, _, _, h⟩ := s.noted_only
  rw [h]

@[simp] theorem State.unspecify_unspec (s : State) : s.unspecify.ctx.unspec = s.ctx.unspec := by
  obtain ⟨_, _, _, _, h⟩ := s.unspecify_only
  rw [h]

/-- Watching the queued w-ops takes no mark from their context. -/
theorem State.unspec_of_watchWops {s : State} (h : s.watchWops.ctx.unspec = false) : s.ctx.unspec = false := by
  unfold State.watchWops at h
  split at h
  · exact h
  · exact (Bool.or_eq_false_iff.mp h).1

/-- Where the context is unmarked after the watch, the quads alone changed. -/
theorem State.watchWops_unmarked {s : State} (h : s.watchWops.ctx.unspec = false) : s.watchWops = { s with quads := s.watchWops.quads } := by
  have hs := State.unspec_of_watchWops h
  obtain ⟨q, b, hw⟩ := s.watchWops_only
  rw [hw] at h ⊢
  obtain rfl : b = s.ctx.unspec := Eq.trans h hs.symm
  rfl

/-- Where the context stays unmarked, nothing becomes free: the queued w-ops are watched, and that is all. -/
theorem State.noted_unmarked {s : State} (h : s.noted.ctx.unspec = false) : s.noted = { s with quads := s.noted.quads } := by
  have hw : s.watchWops.ctx.unspec = false := by simpa [State.noted] using h
  have hn : s.noted = s.watchWops := State.unspecify_idle hw
  rw [hn]
  exact State.watchWops_unmarked hw

/-- With no w-op queued and the context unmarked, nothing is noted after what happens at once. -/
theorem State.noted_atOnce_idle {s : State} (hq : ∀ q ∈ s.quads, q.2.wops = []) (hu : s.ctx.unspec = false) : s.atOnce.noted = s.atOnce := by
  refine State.noted_idle ?_ (by rw [State.atOnce_unspec, hu])
  rw [State.atOnce_quads]
  exact List.all_eq_true.mpr fun q hm => by rw [hq q hm]; rfl

/-! ### The next tick with something due (R124, R188, R386) -/

/-- No multiple of `n` lies between a tick and the next one. -/
theorem nextMultiple_le {n t k : Nat} (h : t < n * k) : nextMultiple n t ≤ n * k := by
  have hn : 0 < n := Nat.pos_of_mul_pos_right (Nat.zero_lt_of_lt h)
  have hk : t / n + 1 ≤ k := Nat.div_lt_of_lt_mul h
  have ht := Nat.div_add_mod t n
  have hr := Nat.mod_lt t hn
  calc nextMultiple n t = n * (t / n + 1) := by unfold nextMultiple; rw [Nat.mul_add, Nat.mul_one]; omega
    _ ≤ n * k := Nat.mul_le_mul_left n hk

theorem State.nextDue_le_multiple_512 {s : State} {k : Nat} (h : s.tick < 512 * k) : s.nextDue ≤ 512 * k :=
  Nat.le_trans s.nextDue_le_period (nextMultiple_le h)

theorem State.nextDue_le_multiple_10000 {s : State} {k : Nat} (h : s.tick < 10000 * k) : s.nextDue ≤ 10000 * k := by
  have hm : nextMultiple 10000 s.tick ∈ s.dues := by simp [State.dues]
  exact Nat.le_trans (State.nextDue_le hm (lt_nextMultiple (by decide) _)) (nextMultiple_le h)

/-- It comes no later than the limit of a wait at a `qwait` (R188). -/
theorem State.nextDue_le_wait {s : State} {e : Nat × Element} {t : ThreadSet} {w : Nat × Nat × Nat} (he : e ∈ s.ctx.elems) (ht : t ∈ e.2.sets.toList)
    (hw : t.waiting = some w) (h : s.tick < w.1 + w.2.2) : s.nextDue ≤ w.1 + w.2.2 := by
  refine State.nextDue_le (List.mem_append_right _ (List.mem_flatMap.mpr ⟨e, he, ?_⟩)) h
  exact List.mem_filterMap.mpr ⟨t, ht, by rw [hw]; rfl⟩

/-- An advance that would pass a due tick goes to it and leaves the rest on the agenda. -/
theorem State.advanceTime_past {s : State} {n : Nat} (hn : 0 < n) (h : s.closeTick.nextDue < s.closeTick.tick + n) :
    s.advanceTime n = ({ s.closeTick with
      agenda := .advance (s.closeTick.tick + n - s.closeTick.nextDue) :: s.closeTick.agenda } : State).advanceCalm
        (s.closeTick.nextDue - s.closeTick.tick) := by
  unfold State.advanceTime
  rw [if_neg (Nat.ne_of_gt hn)]
  exact if_pos h

/-! ### The plane (R217, R221, R390) -/

/-- A fold of steps that keep a part of the state keeps that part. -/
theorem foldl_keeps {α β γ : Type} (π : β → γ) (f : β → α → β) (hf : ∀ b a, π (f b a) = π b) (xs : List α) (b : β) :
    π (xs.foldl f b) = π b := by
  induction xs generalizing b with
  | nil => rfl
  | cons x xs ih => rw [List.foldl_cons, ih, hf]

@[simp] theorem State.openSlot_tick (car seg : Nat) (promoted : Bool) (s : State) : (s.openSlot car seg promoted).tick = s.tick := by
  unfold State.openSlot
  dsimp only
  exact (foldl_keeps State.tick _ (fun _ _ => State.updTile_tick ..) _ _).trans rfl

@[simp] theorem State.takeTurn_tick (car : Nat) (s : State) : (s.takeTurn car).tick = s.tick := by
  unfold State.takeTurn
  split
  · rfl
  · dsimp only
    split
    · rw [State.openSlot_tick, State.updCar_tick]
    · rfl

/-- A turn is due only while no slot is open. -/
theorem State.slotEnd_of_turnDue {s : State} {d : Nat} (h : s.turnDue = some d) : s.slotEnd = none := by
  unfold State.turnDue at h
  split at h
  · next hs => exact if_pos hs
  · cases h

theorem State.planeDue_of_slotEnd {s : State} {d : Nat} (h : s.slotEnd = some d) : s.planeDue = some d := by
  rw [State.planeDue, h]

theorem State.planeDue_of_turnDue {s : State} {d : Nat} (h : s.turnDue = some d) : s.planeDue = some d := by
  rw [State.planeDue, State.slotEnd_of_turnDue h, h]

/-- What holds of the end of a slot and of a due turn holds of what the plane has due. -/
theorem State.planeDue_forall {s : State} {P : Nat → Prop} (ht : ∀ d, s.turnDue = some d → P d) (hs : ∀ d, s.slotEnd = some d → P d) :
    ∀ d, s.planeDue = some d → P d := by
  intro d h
  cases hslot : s.slotEnd with
  | some e => exact hs d (by rw [← h, State.planeDue_of_slotEnd hslot, hslot])
  | none => exact ht d (by rw [← h, State.planeDue, hslot])

/-- The plane lets an advance go whole that comes before what it has due. -/
theorem State.advancePlane_whole {s : State} {n : Nat} (ht : ∀ d, s.turnDue = some d → s.tick + n < d)
    (hs : ∀ d, s.slotEnd = some d → s.tick + n < d) : s.advancePlane n = { s with tick := s.tick + n } := by
  unfold State.advancePlane
  cases hslot : s.slotEnd with
  | some d => exact if_neg (Nat.not_le.mpr (hs d hslot))
  | none =>
    cases hturn : s.turnDue with
    | some d => exact if_neg (Nat.not_le.mpr (ht d hturn))
    | none => rfl

/-- The open slot ends on the way of an advance that reaches its end (R217). -/
theorem State.advancePlane_slot {s : State} {n d : Nat} (hs : s.slotEnd = some d) (hd : d ≤ s.tick + n) :
    s.advancePlane n = (s.stopAt d n).endSlot := by
  unfold State.advancePlane
  rw [hs]
  exact if_pos hd

/-- An advance that reaches a due turn ends at its tick (R390). -/
theorem State.advancePlane_turn_tick {s : State} {n d : Nat} (ht : s.turnDue = some d) (hd : d ≤ s.tick + n) :
    (s.advancePlane n).tick = d := by
  have hstop : (if s.tick + n = d then ({ s with tick := s.tick + n } : State) else s.stopAt d n).tick = d := by
    split
    · assumption
    · rfl
  unfold State.advancePlane
  simp only [State.slotEnd_of_turnDue ht, ht, if_pos hd]
  split
  · rw [State.takeTurn_tick, hstop]
  · exact hstop

/-! ### Calm points (R359, R360) -/

/-- The timebase goes as far as the plane lets it where no pending calm point stops it: an advance that does not pass T, or whose way to T meets
the plane's business first, and whose present tick is not to end with every set quiet. -/
theorem State.advanceCalm_eq_plane {s : State} {n : Nat} (h : ∀ t, s.ctx.calm = some t →
    (s.tick + n ≤ t ∨ ∃ d, s.planeDue = some d ∧ d ≤ t) ∧ (n = 0 ∨ s.allQuiet = false ∨ ∃ d, s.planeDue = some d ∧ d ≤ s.tick)) :
    s.advanceCalm n = s.advancePlane n := by
  unfold State.advanceCalm
  split
  · next t ht =>
    obtain ⟨hstop, hquiet⟩ := h t ht
    have hnoSwitch : (0 < n && decide (s.tick ≤ t) && s.allQuiet && s.planeDue.all (fun d => decide (s.tick < d))) = false := by
      rcases hquiet with rfl | hq | ⟨d, hd, hle⟩
      · simp
      · simp [hq]
      · simp [hd, Nat.not_lt.mpr hle]
    have hnoStop : (decide (t < s.tick + n) && s.planeDue.all (fun d => decide (t < d))) = false := by
      rcases hstop with hle | ⟨d, hd, hle⟩
      · simp [Nat.not_lt.mpr hle]
      · simp [hd, Nat.not_lt.mpr hle]
    rw [hnoSwitch, hnoStop]
    rfl
  · rfl

/-- So it does to what the plane has due, where that comes no later than the calm point. -/
theorem State.advanceCalm_to_planeDue {s : State} {n d : Nat} (hd : s.planeDue = some d) (h : ∀ t, s.ctx.calm = some t →
    (d ≤ t ∨ s.tick + n ≤ t) ∧ (n = 0 ∨ s.allQuiet = false ∨ d ≤ s.tick)) : s.advanceCalm n = s.advancePlane n := by
  refine State.advanceCalm_eq_plane fun t ht => ?_
  obtain ⟨hstop, hquiet⟩ := h t ht
  exact ⟨hstop.symm.imp_right fun hle => ⟨d, hd, hle⟩, hquiet.imp_right fun hq => hq.imp_right fun hle => ⟨d, hd, hle⟩⟩

theorem State.planeDue_all_of_forall {s : State} {c : Nat} (ht : ∀ d, s.turnDue = some d → c < d) (hs : ∀ d, s.slotEnd = some d → c < d) :
    s.planeDue.all (fun d => decide (c < d)) = true := by
  rw [Option.all_eq_true]
  exact fun d hd => decide_eq_true (State.planeDue_forall ht hs d hd)

/-- An advance past the calm point stops the partition there, where some set is not quiet and the plane has nothing due up to it (R360). -/
theorem State.advanceCalm_stop {s : State} {n c : Nat} (hc : s.ctx.calm = some c) (htc : s.tick ≤ c) (hn : c < s.tick + n)
    (hq : s.allQuiet = false) (hd : s.planeDue.all (fun d => decide (c < d)) = true) : s.advanceCalm n = (s.stopAt c n).stopAll := by
  unfold State.advanceCalm
  simp [hc, hq, hn, hd, Nat.max_eq_left htc]

/-! ### The obligation -/

/-- Settles O6: the case of each head of the agenda, the frame of what is done before it, and the cases of an advance by what it meets first. -/
theorem stepRunsTheHeadOfTheAgenda : Obligations.StepRunsTheHeadOfTheAgenda := by
  unfold Obligations.StepRunsTheHeadOfTheAgenda
  intro s0 rest hp r s
  have hag : s.agenda = s0.agenda := by rw [State.noted_agenda, State.atOnce_agenda]
  rw [hag]
  refine ⟨fun le h => step_of_cycle hp h, fun n h => step_of_advance hp h, fun i h he hw => step_of_event hp h he hw,
    fun i w h he => step_of_word hp h he, s.timebase_toNat, s0.atOnce_allots.eq_with, State.atOnce_still, r.noted_eq_with, State.noted_unmarked,
    State.noted_atOnce_idle, fun v n hn => ⟨State.advanceTime_within hn, State.advanceTime_past hn⟩, fun v => ⟨v.tick_lt_nextDue,
      fun k => State.nextDue_le_multiple_512, fun k => State.nextDue_le_multiple_10000, fun e he t ht w => State.nextDue_le_wait he ht,
      State.closeTick_still⟩, ?whole, ?slot, ?turn, ?quiet, ?stop⟩
  case whole =>
    intro v n ht hs hc
    rw [State.advanceCalm_eq_plane fun t h => (hc t h).imp .inl (Or.imp_right .inl), State.advancePlane_whole ht hs]
  case slot =>
    intro v n d hs hd hc
    rw [State.advanceCalm_to_planeDue (State.planeDue_of_slotEnd hs) hc, State.advancePlane_slot hs hd]
    rfl
  case turn =>
    intro v n d ht hd hc
    rw [State.advanceCalm_to_planeDue (State.planeDue_of_turnDue ht) hc, State.advancePlane_turn_tick ht hd]
  case quiet =>
    intro v n c hc htc hn hq ht hs
    rw [State.advanceCalm_quiet hc hq htc (State.planeDue_all_of_forall ht hs) hn, State.stopAt, Nat.add_sub_add_left]
  case stop =>
    intro v n c hc htc hn hq ht hs
    rw [State.advanceCalm_stop hc htc hn hq (State.planeDue_all_of_forall ht hs)]
    rfl

end Sys2Proof.Machine
end

section
/-! The step and what stops it (O8): every row of the dispatch answers a next state, so a cycle does, and what is left to stop a step is the
check of the module's power. The outcome of an operation that several rows share is stated once. -/
namespace Sys2Proof.Machine

/-- Both branches of a choice answer a next state. -/
theorem next_ite {c : Prop} [Decidable c] {a b : Host.Outcome State Fault Refusal} (ha : ∃ t, a = .next t) (hb : ∃ t, b = .next t) :
    ∃ t, (if c then a else b) = .next t := by
  split
  · exact ha
  · exact hb

/-! ### Integer operations and branches -/

theorem intOp_next (f : Word → Word → Word) (d a b : Opnd) (s : State) : ∃ t, intOp f d a b s = .next t :=
  withIssue_next s fun _ => ⟨_, rfl⟩

theorem intOp1_next (f : Word → Word) (d a : Opnd) (s : State) : ∃ t, intOp1 f d a s = .next t :=
  withIssue_next s fun _ => ⟨_, rfl⟩

theorem intOp3_next (f : Word → Word → Word → Word) (d : RegNo) (a b : Opnd) (s : State) : ∃ t, intOp3 f d a b s = .next t :=
  withIssue_next s fun _ => ⟨_, rfl⟩

theorem branchOp_next (cond : Word → Word → Bool) (a b : Opnd) (off : BitVec 12) (s : State) : ∃ t, branchOp cond a b off s = .next t :=
  withIssue_next s fun _ => ⟨_, rfl⟩

theorem countBranch_next (cond : Nat → Nat → Bool) (a : RegNo) (lit : BitVec 6) (off : BitVec 12) (s : State) :
    ∃ t, countBranch cond a lit off s = .next t :=
  withIssue_next s fun _ => ⟨_, rfl⟩

/-! ### Memory, w-ops and copies -/

theorem loadOp_next (form : LoadForm) (tagged : Bool) (n : Nat) (d : Opnd) (a : RegNo) (off : BitVec 12) (s : State) :
    ∃ t, loadOp form tagged n d a off s = .next t := by
  refine withIssue_next s fun u => ?_
  dsimp only
  repeat' split
  all_goals exact ⟨_, rfl⟩

theorem storeOp_next (form : LoadForm) (tagged : Bool) (n : Nat) (d : Opnd) (a : RegNo) (off : BitVec 12) (s : State) :
    ∃ t, storeOp form tagged n d a off s = .next t := by
  refine withIssue_next s fun u => ?_
  dsimp only
  repeat' split
  all_goals exact ⟨_, rfl⟩

theorem atomOp_next (op : AtomOp) (d : Opnd) (a : RegNo) (b : Opnd) (rds : List (Cls × Opnd)) (cmp : State → Word) (w64 ar : Bool)
    (s : State) : ∃ t, atomOp op d a b rds cmp w64 ar s = .next t := by
  refine withIssue_next s fun u => ?_
  dsimp only
  repeat' split
  all_goals exact ⟨_, rfl⟩

theorem wopIssue_next (op : WSub) (d a : RegNo) (b : List Opnd) (s : State) : ∃ t, wopIssue op d a b s = .next t :=
  withIssue_next s fun _ => next_ite ⟨_, rfl⟩ (next_ite ⟨_, rfl⟩ (next_ite ⟨_, rfl⟩ ⟨_, rfl⟩))

theorem copyByMessage_next (kind : Word → Word → Word → Word → CopyKind) (d : Opnd) (a b : RegNo) (c : Opnd) (s : State) :
    ∃ t, copyByMessage kind d a b c s = .next t :=
  withIssue_next s fun _ => next_ite ⟨_, rfl⟩ ⟨_, rfl⟩

theorem indexedCopy_next (kind : Word → Word → Word → CopyKind) (d a b c : RegNo) (s : State) :
    ∃ t, indexedCopy kind d a b c s = .next t :=
  withIssue_next s fun _ => next_ite ⟨_, rfl⟩ ⟨_, rfl⟩

/-! ### Floating point -/

/-- A result is written, or held back by the trap of its check. -/
theorem fpRetire_next (rds : List (Cls × Opnd)) (d : Opnd) (ts : Nat × Nat × Nat) (r : FpRes × Nat) (s0 s1 : State) :
    ∃ t, fpRetire rds d ts r s0 s1 = .next t :=
  next_ite ⟨_, rfl⟩ ⟨_, rfl⟩

theorem fpOp1_next (f : Fmt) (k : Nat → Nat → Opv → FpRes × Nat) (d a : Opnd) (s : State) : ∃ t, fpOp1 f k d a s = .next t :=
  withIssue_next s fun _ => fpRetire_next ..

theorem fpOp2_next (f : Fmt) (k : Nat → Nat → Opv → Opv → FpRes × Nat) (d a b : Opnd) (s : State) : ∃ t, fpOp2 f k d a b s = .next t :=
  withIssue_next s fun _ => fpRetire_next ..

theorem fpMove1_next (f : Fmt) (k : Nat → Nat) (d a : Opnd) (s : State) : ∃ t, fpMove1 f k d a s = .next t :=
  withIssue_next s fun _ => ⟨_, rfl⟩

theorem fpMove2_next (f : Fmt) (k : Opv → Opv → Nat × Nat) (d a b : Opnd) (s : State) : ∃ t, fpMove2 f k d a b s = .next t :=
  withIssue_next s fun _ => ⟨_, rfl⟩

theorem execFcvt_next (dst src : CvtType) (rm : RmField) (d a : Opnd) (s : State) : ∃ t, execFcvt dst src rm d a s = .next t := by
  unfold execFcvt
  split
  · exact withIssue_next s fun _ => fpRetire_next ..
  · exact withIssue_next s fun _ => fpRetire_next ..
  · exact withIssue_next s fun _ => ⟨_, rfl⟩
  · exact ⟨_, rfl⟩

theorem vRetire_next (ty : LaneType) (rds : List (Cls × Opnd)) (d : Opnd) (rs : List LaneRes) (s0 s1 : State) :
    ∃ t, vRetire ty rds d rs s0 s1 = .next t := by
  unfold vRetire
  dsimp only
  split <;> exact ⟨_, rfl⟩

theorem vArith_next (ty : LaneType) (kf : Fmt → Nat → Nat → Opv → Opv → FpRes × Nat) (ki : Int → Int → Int) (d a b : Opnd) (s : State) :
    ∃ t, vArith ty kf ki d a b s = .next t := by
  refine withVec_next s fun u => ?_
  split
  · exact vRetire_next ..
  · exact ⟨_, rfl⟩

theorem vMove1_next (ty : LaneType) (k : VReg → Nat → Nat × Nat) (d a : Opnd) (s : State) : ∃ t, vMove1 ty k d a s = .next t :=
  withVec_next s fun _ => ⟨_, rfl⟩

theorem vMove2_next (ty : LaneType) (k : VReg → VReg → Nat → Nat × Nat) (fl : VReg → VReg → FpFlags) (d a b : Opnd) (s : State) :
    ∃ t, vMove2 ty k fl d a b s = .next t :=
  withVec_next s fun _ => ⟨_, rfl⟩

theorem vBits_next (ty : LaneType) (k : Nat → Nat → Nat) (d a b : Opnd) (s : State) : ∃ t, vBits ty k d a b s = .next t :=
  vMove2_next ..

theorem vfmaOp_next (ty : LaneType) (f : Fmt) (d a b c : Opnd) (s : State) : ∃ t, vfmaOp ty f d a b c s = .next t :=
  withVec_next s fun _ => vRetire_next ..

theorem execVcmp_next (ty : LaneType) (d a b : Opnd) (s : State) : ∃ t, execVcmp ty d a b s = .next t := by
  unfold execVcmp
  split <;> exact vMove2_next ..

/-! ### The matrix unit -/

theorem mxSend_next (op : MxOp) (d : RegNo) (cap block first : Word) (scale : FReg) (sreg : Option RegNo) (own : Bool) (draws : Nat)
    (s : State) : ∃ t, mxSend op d cap block first scale sreg own draws s = .next t :=
  next_ite ⟨_, rfl⟩ ⟨_, rfl⟩

/-- What a capability gates answers a next state if it does once let through. -/
theorem capGate_next {d : RegNo} {cap : Word} {rights : Nat} {k : State → Host.Outcome State Fault Refusal} (s : State)
    (h : ∀ u, ∃ t, k u = .next t) : ∃ t, capGate d cap rights k s = .next t := by
  unfold capGate
  split
  · exact ⟨_, rfl⟩
  · exact next_ite ⟨_, rfl⟩ (h s)

theorem mxRun_next (op : MxOp) (d a b c : RegNo) (s : State) : ∃ t, mxRun op d a b c s = .next t :=
  withIssue_next s fun u => capGate_next u fun _ => mxSend_next ..

/-! ### Graphics -/

theorem laneDiffs_next (hi lo : Nat → Nat) (d a : RegNo) (s : State) : ∃ t, laneDiffs hi lo d a s = .next t :=
  withIssue_next s fun _ => ⟨_, rfl⟩

theorem samplerOp_next (d a b : RegNo) (more : List (Cls × Opnd))
    (px : Sampler → Nat → State → Except (Nat × Nat) (List (Nat × Nat)) × State) (s : State) :
    ∃ t, samplerOp d a b more px s = .next t := by
  refine withIssue_next s fun u => ?_
  dsimp only
  repeat' split
  all_goals exact ⟨_, rfl⟩

/-! ### The system -/

theorem State.supReturn_next (m : Nat) (s : State) : ∃ t, s.supReturn m = .next t := by
  unfold State.supReturn
  dsimp only
  repeat' split
  all_goals exact ⟨_, rfl⟩

/-- A register of the system: a write that it refuses traps, and the rest issues. -/
theorem csrOp_next (i : Instr) (f : Word → Word → Word) (wr : Bool) (d : Opnd) (src : List Opnd) (csr : BitVec 12) (s : State) :
    ∃ t, csrOp i f wr d src csr s = .next t := by
  have whole (k : State → State) : ∃ t, withIssue (src.map fun a => (Cls.g, a)) [(.g, d)] (fun u => .next (k u)) s = .next t :=
    withIssue_next s fun _ => ⟨_, rfl⟩
  refine next_ite ⟨_, rfl⟩ (next_ite ?_ (whole _))
  cases hg : gate (src.map fun a => (Cls.g, a)) [] s with
  | stop o => exact next_ite (gate_stop_next hg) (whole _)
  | go u => exact next_ite ⟨_, rfl⟩ (whole _)

theorem execStg_next (a b : RegNo) (s : State) : ∃ t, execStg a b s = .next t := by
  refine withIssue_next s fun u => next_ite ⟨_, rfl⟩ (next_ite ⟨_, rfl⟩ ?_)
  dsimp only
  split
  · exact ⟨_, rfl⟩
  · split
    · exact ⟨_, rfl⟩
    · refine next_ite ⟨_, rfl⟩ (next_ite (next_ite ⟨_, rfl⟩ ⟨_, rfl⟩) ?_)
      exact next_ite ⟨_, rfl⟩ (next_ite ⟨_, rfl⟩ (next_ite ⟨_, rfl⟩ ⟨_, rfl⟩))

/-- A wait on a port of an absent link traps before it issues (R181, R188). -/
theorem execQwait_next (d : Opnd) (p : BitVec 6) (b : Opnd) (s : State) : ∃ t, execQwait d p b s = .next t := by
  unfold execQwait
  dsimp only
  split
  · exact ⟨_, rfl⟩
  · refine withIssue_next s fun u => ?_
    split
    · exact ⟨_, rfl⟩
    · exact next_ite ⟨_, rfl⟩ ⟨_, rfl⟩

/-! ### The dispatch -/

/-- Every row of the dispatch answers a next state (R55, R56): what fails in it is a trap, a stall or a token, never a fault of the machine. -/
theorem exec_next (i : Instr) (s : State) : ∃ t, exec i s = .next t := by
  unfold exec
  cases i with
  -- Integer operations and branches.
  | add | sub | and | or | xor | nor | sll | srl | sra | rol | slt | sltn | min | max | minn | maxn | mul | mulh | mulhn | div | divn | rem | remn
  | bext | addw | subw | mulw | lea0 | lea1 | lea2 | lea3 => exact intOp_next ..
  | clz | ctz | popc | bswap | addi | andi | ori | xori | slli | srli | srai | slti | sltni | addwi => exact intOp1_next ..
  | bins | sel => exact intOp3_next ..
  | beq | bne | blt | bge | bltn | bgen => exact branchOp_next ..
  | bsiglt | bsigge => exact countBranch_next ..
  -- Loads, stores and atomics.
  | ldn8 | ldi8 | ldn16 | ldi16 | ldn32 | ldi32 | ld64 | fld32 | fld64 | fldt32 | fldt64 | vld | vldt => exact loadOp_next ..
  | st8 | st16 | st32 | st64 | fst32 | fst64 | fstt32 | fstt64 | vst | vstt => exact storeOp_next ..
  | aadd | aand | aor | axor | amin | amax | aminn | amaxn | aswp | acas => exact atomOp_next ..
  -- Scalar and lane floating point.
  | fsqrt | frnd => exact fpOp1_next ..
  | fadd | fsub | fmul | fdiv => exact fpOp2_next ..
  | fabs | fneg | fmov => exact fpMove1_next ..
  | fmin | fmax | fsgn => exact fpMove2_next ..
  | ffma => exact withIssue_next s fun _ => fpRetire_next ..
  | fcvt => exact execFcvt_next ..
  | vadd | vsub | vmul => exact vArith_next ..
  | vmin | vmax | vperm => exact vMove2_next ..
  | vand | vor | vxor | vshl | vshr => exact vBits_next ..
  | vabs | vneg => exact vMove1_next ..
  | vfmaF32 | vfmaBf16 => exact vfmaOp_next ..
  | vcmp => exact execVcmp_next ..
  | vbc | vins | vext | vsel => exact withVec_next s fun _ => ⟨_, rfl⟩
  | vred | vdot | vcvt =>
    refine withVec_next s fun u => ?_
    dsimp only
    split
    · exact vRetire_next ..
    · exact ⟨_, rfl⟩
  -- Commands of the units: w-ops, copies and the matrix unit.
  | wadd | wsub | wmul | wfma | wmin | wmax | wcvt | wred | wexp | wrsq | wact | wscl | wcpy | wtrn => exact wopIssue_next ..
  | cpym | rbr => exact copyByMessage_next ..
  | gath | scat => exact indexedCopy_next ..
  | mrfp4 | mri8 | mri48 | mrbf | mrhf | mre43 | mre52 | mre45 => exact mxRun_next ..
  | mld | mswp | mzro => exact withIssue_next s fun u => capGate_next u fun _ => mxSend_next ..
  | mqry => exact withIssue_next s fun u => capGate_next u fun _ => ⟨_, rfl⟩
  | mdrn => exact withIssue_next s fun u => capGate_next u fun v => next_ite ⟨_, rfl⟩ (mxSend_next ..)
  -- Graphics on slot 0.
  | dfx | dfy => exact withSlot0_next s fun _ => laneDiffs_next ..
  | smp | smpl | txl => exact withSlot0_next s fun _ => samplerOp_next ..
  | boxt | edg => exact withSlot0_next s fun u => withIssue_next u fun v => withStruct_next v fun _ _ => ⟨_, rfl⟩
  | cov | qmrg => exact withSlot0_next s fun u => withIssue_next u fun _ => ⟨_, rfl⟩
  | trit =>
    refine withSlot0_next s fun u => withIssue_next u fun v => withStruct_next v fun bs w => ?_
    dsimp only
    repeat' split
    all_goals exact ⟨_, rfl⟩
  | spush | spop =>
    refine withSlot0_next s fun u => withIssue_next u fun v => ?_
    dsimp only
    repeat' split
    all_goals exact ⟨_, rfl⟩
  -- Registers of the system.
  | csrr | csrw | csrs | csrc => exact csrOp_next ..
  -- What issues and then has an effect of its own.
  | mid | hmask | gid | krd | mark | fclass | fcmp | fmovi | ftc | fstc | fwait | jal | ldhi | pcadd =>
    exact withIssue_next s fun _ => ⟨_, rfl⟩
  | jalr | callat | lda | stl | ldv | stv | vrst | fenc | send | sendm | gsend | alw | spawn | rdec | csub | cskip | cprom | cstat | gbar
  | clone | merge | xst | cpy | coll =>
    refine withIssue_next s fun u => ?_
    dsimp only
    repeat' split
    all_goals exact ⟨_, rfl⟩
  | stg => exact execStg_next ..
  -- What checks before it issues.
  | doneI | tret => exact next_ite (State.supReturn_next ..) ⟨_, rfl⟩
  | mcap => exact next_ite ⟨_, rfl⟩ (withIssue_next s fun u => next_ite ⟨_, rfl⟩ (next_ite ⟨_, rfl⟩ ⟨_, rfl⟩))
  | hset =>
    refine next_ite ⟨_, rfl⟩ (withIssue_next s fun u => ?_)
    dsimp only
    repeat' split
    all_goals exact ⟨_, rfl⟩
  | qwait => exact execQwait_next ..
  -- What issues nothing, most of it a step of another agent.
  | sys | budgetPeriodBoundary | cloneInstall | qwaitExpiry | wopQuantumEnd | clenWrite | ncmtWrite | arbiterTurn | slotAnnouncement | frameRead
  | pcSample | lossRecord | mbcmdWrite | governorInterval | overcurrent | registerWrite | modulePowerOff | sramRailWindow | powerGood =>
    exact ⟨_, rfl⟩
  | rpt | fence | yld | launchWindowWrite | lstatRead | launchDispatch | launchShareRetry | messageArrival | activationDispatch | spawnAtTarget
  | spawnReply | rdecAtOwner | tileIdle | stealRequest | stealAnswer | budgetShareWrite | splitQueue | mergeExportQueue | mergeImportQueue
  | pageWalk | shootdown | ldvWake | scrub | portUnblock | doneComplete | copyCommandComplete | remoteLocalAccess | wopExecute | collContribution
  | gbarArrival | matrixCommandAccept | matrixCommandComplete | mqryAnswer | tableCopyComplete | maskNotification | cpromAtArbiter
  | captureComplete | fencComplete | contextStart | calmPointBroadcast | cooperativeSwitch | forcedStop | contextResume | contextHalt
  | allotmentRetire | launchCompletion | hostMemAccess | cxlCacheRequest | spdmRequest | softError | memoryOperationComplete | fetchLineFill
  | calmPointChange | mailboxCommandComplete =>
    dsimp only
    delta execRpt execFence execYld execLaunchWindowWrite execLstatRead execLaunchDispatch execLaunchShareRetry execMessageArrival
      execActivationDispatch execSpawnAtTarget execSpawnReply execRdecAtOwner execTileIdle execStealRequest execStealAnswer execBudgetShareWrite
      execSplitQueue execMergeExportQueue execMergeImportQueue execPageWalk execShootdown execLdvWake execScrub execPortUnblock execDoneComplete
      execCopyCommandComplete execRemoteLocalAccess execWopExecute execCollContribution execGbarArrival execMatrixCommandAccept
      execMatrixCommandComplete execMqryAnswer execTableCopyComplete execMaskNotification execCpromAtArbiter execCaptureComplete execFencComplete
      execContextStart execCalmPointBroadcast execCooperativeSwitch execForcedStop execContextResume execContextHalt execAllotmentRetire
      execLaunchCompletion execHostMemAccess execCxlCacheRequest execSpdmRequest execSoftError execMemoryOperationComplete execFetchLineFill
      execCalmPointChange execMailboxCommandComplete
    dsimp -failIfUnchanged only
    repeat' split
    all_goals exact ⟨_, rfl⟩

/-! ### A cycle -/

theorem State.issue_next (s : State) : ∃ t, s.issue = .next t := by
  unfold State.issue
  split
  · exact ⟨_, rfl⟩
  · split
    · exact ⟨_, rfl⟩
    · exact exec_next ..

/-- A candidate's turn never stops the machine. -/
theorem State.attempt_ne_ends (le k : Nat) (s : State) (o : Host.Outcome State Fault Refusal) : s.attempt le k ≠ .ends o := by
  unfold State.attempt
  split
  · simp
  · obtain ⟨t, ht⟩ := State.issue_next { s with cur := (le, k) }
    dsimp only
    rw [ht]
    dsimp only
    split <;> simp

theorem firstIssue_ok (cs : List (Nat × Nat × Nat)) (s : State) : ∃ r, firstIssue cs s = .ok r := by
  induction cs generalizing s with
  | nil => exact ⟨_, rfl⟩
  | cons c cs ih =>
    unfold firstIssue
    split
    · exact ⟨_, rfl⟩
    · exact ih _
    · next h => exact absurd h (State.attempt_ne_ends _ _ _ _)

theorem State.arbitrate_next (le : Nat) (c1 c0 : List (Nat × Nat × Nat)) (s : State) : ∃ t, s.arbitrate le c1 c0 = .next t := by
  obtain ⟨⟨r1, s1⟩, h1⟩ := firstIssue_ok (after (s.el le).rotor c1) s
  obtain ⟨⟨r0, s0⟩, h0⟩ := firstIssue_ok (after (s.el le).last0 c0) s1
  unfold State.arbitrate
  simp only [h1, h0]
  cases r1 with
  | none => cases r0 <;> exact ⟨_, rfl⟩
  | some w1 =>
    cases r0 with
    | none => exact ⟨_, rfl⟩
    | some w0 => exact next_ite ⟨_, rfl⟩ ⟨_, rfl⟩

theorem State.cycle_next (le : Nat) (s : State) : ∃ t, s.cycle le = .next t := by
  obtain ⟨t, ht⟩ := s.arbitrate_next le (s.candidates le true) (s.candidates le false)
  unfold State.cycle
  simp only [ht]
  exact ⟨_, rfl⟩

/-! ### The step (R18; log entry 48) -/

/-- With the power on and nothing on the agenda the element of `cur` takes its cycle (log entry 1). -/
theorem step_of_idle {s : State} (hp : s.power = true) (h : s.agenda = []) : step s = s.atOnce.noted.cycle s.atOnce.noted.cur.1 := by
  simp only [step, State.noted_agenda, State.atOnce_agenda, h, State.noted_power, State.atOnce_power, hp, if_true]

/-- A step of another agent, well formed or not, answers a next state where the check of the power lets it by. -/
theorem step_next_of_event {s : State} {i : Instr} {rest : List Agenda} (h : s.agenda = .event i :: rest)
    (hp : s.power = true ∨ i = .powerGood) : ∃ t, step s = .next t := by
  have hgo : (!s.power && i != .powerGood) = false := by rcases hp with hp | rfl <;> simp [*]
  simp only [step, State.noted_agenda, State.atOnce_agenda, h, State.noted_power, State.atOnce_power, hgo, Bool.false_eq_true, if_false]
  exact next_ite (exec_next ..) ⟨_, rfl⟩

/-- With the power on, or coming, a step answers a next state. -/
theorem step_next_of_power_or_powerGood {s : State} (h : s.power = true ∨ ∃ rest, s.agenda = .event .powerGood :: rest) :
    ∃ t, step s = .next t := by
  obtain hp | ⟨rest, hg⟩ := h
  · cases hag : s.agenda with
    | nil => exact step_of_idle hp hag ▸ State.cycle_next ..
    | cons a rest =>
      cases a with
      | cycle le => exact step_of_cycle hp hag ▸ State.cycle_next ..
      | advance n => exact ⟨_, step_of_advance hp hag⟩
      | event i => exact step_next_of_event hag (.inl hp)
  · exact step_next_of_event hg (.inr rfl)

/-- With it off, every step but power good answers the fault (log entry 48). -/
theorem step_poweredOff {s : State} (hp : s.power = false) (hg : ∀ rest, s.agenda ≠ .event .powerGood :: rest) :
    step s = .fault .poweredOff := by
  unfold step
  simp only [State.noted_agenda, State.atOnce_agenda, State.noted_power, State.atOnce_power, hp]
  cases hag : s.agenda with
  | nil => rfl
  | cons a rest =>
    cases a with
    | cycle le => rfl
    | advance n => rfl
    | event i =>
      have hi : (i != .powerGood) = true := by
        rw [bne_iff_ne]
        rintro rfl
        exact hg rest hag
      simp [hi]

/-- Settles O8: with the power off a step is the fault or power good, and with it on the dispatch always answers a next state. -/
theorem stepStopsOnlyWithoutPower : Obligations.StepStopsOnlyWithoutPower := by
  unfold Obligations.StepStopsOnlyWithoutPower
  intro s
  by_cases hoff : s.power = false ∧ ∀ rest, s.agenda ≠ .event .powerGood :: rest
  · have hf := step_poweredOff hoff.1 hoff.2
    exact ⟨iff_of_true ⟨_, hf⟩ hoff, by simp [hf]⟩
  · have hon : s.power = true ∨ ∃ rest, s.agenda = .event .powerGood :: rest := by
      cases hp : s.power with
      | true => exact .inl rfl
      | false => exact .inr (Classical.byContradiction fun hg => hoff ⟨hp, fun rest h => hg ⟨rest, h⟩⟩)
    obtain ⟨t, ht⟩ := step_next_of_power_or_powerGood hon
    exact ⟨iff_of_false (by simp [ht]) hoff, by simp [ht]⟩

end Sys2Proof.Machine
end

section
/-! What a set that issues runs: the answer of the dispatch (O7), and one equation of `State.issue` for each way the fetch and the decoding can
end (O4). -/
namespace Sys2Proof.Machine

/-- Settles O7: every row of the dispatch answers a next state. -/
theorem execAlwaysAnswersANextState : Obligations.ExecAlwaysAnswersANextState := exec_next

theorem State.issue_of_fetchError {s s1 : State} {e : Nat × Nat} (h : s.nextWord = (.error e, s1)) :
    s.issue = s1.trap e.1 (BitVec.ofNat 64 e.2) := by
  simp only [State.issue, h]

theorem State.issue_of_illegal {s s1 : State} {w : Code} {e : Illegal} (h : s.nextWord = (.ok w, s1)) (hd : decode w = .error e) :
    s.issue = s1.trap 0x01 (w.setWidth 64) := by
  simp only [State.issue, h, hd]

theorem State.issue_of_decode {s s1 : State} {w : Code} {i : Instr} (h : s.nextWord = (.ok w, s1)) (hd : decode w = .ok i) :
    s.issue = exec i s1 := by
  simp only [State.issue, h, hd]

/-- Settles O4: one equation of `State.issue` for each way the fetch and the decoding can end. -/
theorem issueRunsTheDecodedInstruction : Obligations.IssueRunsTheDecodedInstruction :=
  fun _ _ => ⟨fun _ => State.issue_of_fetchError, fun _ _ => State.issue_of_illegal, fun _ _ => State.issue_of_decode⟩

end Sys2Proof.Machine
end

section
/-! One rule for a pop and one for a push of each kind of port (R35, R178, R179, R180), and O17 from them. -/
namespace Sys2Proof.Machine

/-- A change of an element that keeps its thread sets keeps the issuing one. -/
theorem State.th_updEl_of_sets (s : State) (le : Nat) {f : Element → Element} (h : ∀ e, (f e).sets = e.sets) : (s.updEl le f).th = s.th := by
  unfold State.th State.thOf
  rw [State.updEl_cur]
  by_cases hle : s.cur.1 = le
  · rw [hle, State.el_updEl_same, h]
  · rw [State.el_updEl_other _ _ hle]

theorem State.popWord_q_fst {s : State} {n : BitVec 2} {w : Word} {ws : List Word}
    (h : (vget (s.el s.cur.1).queues n.toNat).words = w :: ws) : (s.popWord (.q n)).1 = w := by
  simp [State.popWord, State.popFifo, State.inFifo, Fifo.pop, h]

theorem State.popWord_q_words {s : State} {n : BitVec 2} {w : Word} {ws : List Word}
    (h : (vget (s.el s.cur.1).queues n.toNat).words = w :: ws) :
    (vget ((s.popWord (.q n)).2.el s.cur.1).queues n.toNat).words = ws := by
  simp [State.popWord, State.popFifo, State.inFifo, State.updIn, Fifo.pop, h]

theorem State.popWord_q_th (s : State) (n : BitVec 2) : (s.popWord (.q n)).2.th = s.th :=
  State.th_updEl_of_sets _ _ fun _ => rfl

theorem State.pushWord_q_words (s : State) (n : BitVec 2) (x : Word) :
    (vget ((s.pushWord (.q n) x).el s.cur.1).queues n.toNat).words = (vget (s.el s.cur.1).queues n.toNat).words ++ [x] := by
  simp [State.pushWord, State.pushFifo, State.updOut, Fifo.push]

theorem State.pushWord_q_th (s : State) (n : BitVec 2) (x : Word) : (s.pushWord (.q n) x).th = s.th :=
  State.th_updEl_of_sets _ _ fun _ => rfl

/-- `pi` gives the next payload word of a handler (R178). -/
theorem State.popWord_pi {s : State} {a : Act} (ha : s.th.act = some a) (hs : s.th.inSup = false) (hr : a.read < a.payload.length) :
    s.popWord .pi = (a.payload.getD a.read 0, s.updTh fun t => { t with act := some { a with read := a.read + 1 } }) := by
  have hr' : ¬ a.payload.length ≤ a.read := Nat.not_le.2 hr
  unfold State.th at ha hs
  simp [State.popWord, State.popPayload, State.updTh, ha, hs, hr']

/-- Past the end of the payload, and in the supervisor, `pi` gives zero (R178, R347). -/
theorem State.popWord_pi_zero {s : State} (h : s.th.inSup = true ∨ ∃ a, s.th.act = some a ∧ a.payload.length ≤ a.read) :
    s.popWord .pi = (0, s) := by
  unfold State.th at h
  simp only [State.popWord, State.popPayload]
  obtain hs | ⟨a, ha, hr⟩ := h
  · simp only [hs, Bool.true_or, if_true]
    split <;> rfl
  · simp [ha, hr]

theorem State.pushWord_po_pend (s : State) (x : Word) : (s.pushWord .po x).th.pend = s.th.pend ++ [x] := by
  simp [State.pushWord]

/-- Settles O17: one rule for a pop and one for a push of each kind of port. -/
theorem portsPopAndPush : Obligations.PortsPopAndPush := by
  unfold Obligations.PortsPopAndPush
  intro s n x
  simp only [State.takeG_port, State.putG_port]
  refine ⟨fun w ws h => ⟨State.popWord_q_fst h, State.popWord_q_words h, s.popWord_mem _, s.popWord_q_th n⟩,
    ⟨s.pushWord_q_words n x, s.pushWord_mem _ x, s.pushWord_q_th n x⟩, fun a ha hs hr => ?_, State.popWord_pi_zero, s.pushWord_po_pend x⟩
  rw [State.popWord_pi ha hs hr]
  exact ⟨rfl, by rw [State.th_updTh]⟩

end Sys2Proof.Machine
end

section
/-! The fields of a word and what they name: a word is a packed one when its fields are the packed ones, and each field reader of Decode.lean
succeeds on the codes of what it reads, and on nothing else. -/
namespace Sys2Proof

/-! ### Parts of a word -/

/-- A run of bits is two runs on end when its parts are these. -/
theorem extractLsb'_eq_append_iff {l m n s : Nat} {w : BitVec l} {x : BitVec m} {y : BitVec n} :
    w.extractLsb' s (m + n) = x ++ y ↔ w.extractLsb' (s + n) m = x ∧ w.extractLsb' s n = y := by
  rw [← BitVec.extractLsb'_append_extractLsb'_eq_extractLsb' (x := w) (start₁ := s) (start₂ := s + n) rfl]
  constructor
  · intro h
    have hx := congrArg (BitVec.extractLsb' n m) h
    have hy := congrArg (BitVec.extractLsb' 0 n) h
    simp only [BitVec.extractLsb'_append_eq_left, BitVec.extractLsb'_append_eq_right] at hx hy
    exact ⟨hx, hy⟩
  · rintro ⟨rfl, rfl⟩; rfl

theorem append_eq_iff {m n : Nat} {w : BitVec (m + n)} {x : BitVec m} {y : BitVec n} :
    x ++ y = w ↔ w.extractLsb' n m = x ∧ w.extractLsb' 0 n = y := by
  rw [← BitVec.extractLsb'_eq_self (x := w), eq_comm, extractLsb'_eq_append_iff]
  simp

theorem extractLsb'_extractLsb'_add {l s n t m : Nat} {x : BitVec l} (h : t + m ≤ n) :
    (x.extractLsb' s n).extractLsb' t m = x.extractLsb' (s + t) m := by
  ext i hi
  have : t + i < n := by omega
  simp [this, Nat.add_assoc]

theorem extractLsb'_eq_zero_iff {l m n s : Nat} {w : BitVec l} :
    w.extractLsb' s (m + n) = 0#(m + n) ↔ w.extractLsb' (s + n) m = 0#m ∧ w.extractLsb' s n = 0#n := by
  rw [← extractLsb'_eq_append_iff, BitVec.zero_append_zero]

theorem extractLsb'_eq_ofBool_iff {l s : Nat} {w : BitVec l} {b : Bool} : w.extractLsb' s 1 = BitVec.ofBool b ↔ w.getLsbD s = b := by
  have hb : w.extractLsb' s 1 = BitVec.ofBool (w.getLsbD s) := by
    apply BitVec.eq_of_getLsbD_eq
    intro i hi
    obtain rfl : i = 0 := by omega
    simp
  rw [hb, BitVec.ofBool_eq_iff_eq]

/-! ### Words by their format (R32) -/

theorem packA_eq_iff {op : BitVec 8} {d a b fn : BitVec 6} {w : Code} :
    packA op d a b fn = w ↔ fOp w = op ∧ fD w = d ∧ fA w = a ∧ fB w = b ∧ fC w = fn :=
  (append_eq_iff (m := 8 + 6 + 6 + 6)).trans (by simp only [extractLsb'_eq_append_iff, and_assoc]; rfl)

theorem packI_eq_iff {op : BitVec 8} {d a : BitVec 6} {i : BitVec 12} {w : Code} :
    packI op d a i = w ↔ fOp w = op ∧ fD w = d ∧ fA w = a ∧ fImm12 w = i :=
  (append_eq_iff (m := 8 + 6 + 6)).trans (by simp only [extractLsb'_eq_append_iff, and_assoc]; rfl)

theorem packU_eq_iff {op : BitVec 8} {d : BitVec 6} {i : BitVec 18} {w : Code} :
    packU op d i = w ↔ fOp w = op ∧ fD w = d ∧ fImm18 w = i :=
  (append_eq_iff (m := 8 + 6)).trans (by simp only [extractLsb'_eq_append_iff, and_assoc]; rfl)

theorem packP_eq_iff {op : BitVec 8} {c : BitVec 6} {n : BitVec 4} {kd ka kb : BitVec 2} {w : Code} :
    packP op c n kd ka kb = w ↔
      fOp w = op ∧ fD w = c ∧ w.extractLsb' 14 4 = n ∧ w.extractLsb' 12 2 = kd ∧ w.extractLsb' 10 2 = ka ∧ w.extractLsb' 8 2 = kb ∧
        w.extractLsb' 0 8 = 0#8 :=
  (append_eq_iff (m := 8 + 6 + 4 + 2 + 2 + 2)).trans (by simp only [extractLsb'_eq_append_iff, and_assoc]; rfl)

/-! ### Fields by their parts (R32, R33, R41, R42) -/

section
variable {w : Code}

theorem fImm12_eq_zero : fImm12 w = 0#12 ↔ fB w = 0#6 ∧ fC w = 0#6 := extractLsb'_eq_zero_iff (s := 0) (m := 6) (n := 6)

theorem fImm18_eq_zero : fImm18 w = 0#18 ↔ fA w = 0#6 ∧ fB w = 0#6 ∧ fC w = 0#6 :=
  (extractLsb'_eq_zero_iff (s := 0) (m := 6) (n := 12)).trans (and_congr_right' fImm12_eq_zero)

theorem bits_0_23_eq_zero : w.extractLsb' 0 24 = 0#24 ↔ fD w = 0#6 ∧ fA w = 0#6 ∧ fB w = 0#6 ∧ fC w = 0#6 :=
  (extractLsb'_eq_zero_iff (s := 0) (m := 6) (n := 18)).trans (and_congr_right' fImm18_eq_zero)

theorem bits_6_17_eq_zero : w.extractLsb' 6 12 = 0#12 ↔ fA w = 0#6 ∧ fB w = 0#6 := extractLsb'_eq_zero_iff (s := 6) (m := 6) (n := 6)

theorem bits_6_23_eq_zero : w.extractLsb' 6 18 = 0#18 ↔ fD w = 0#6 ∧ fA w = 0#6 ∧ fB w = 0#6 :=
  (extractLsb'_eq_zero_iff (s := 6) (m := 6) (n := 12)).trans (and_congr_right' bits_6_17_eq_zero)

theorem bits_3_11_eq_zero : w.extractLsb' 3 9 = 0#9 ↔ fB w = 0#6 ∧ w.extractLsb' 3 3 = 0#3 := extractLsb'_eq_zero_iff (s := 3) (m := 6) (n := 3)

theorem bits_5_23_eq_zero : w.extractLsb' 5 19 = 0#19 ↔ (fD w = 0#6 ∧ fA w = 0#6 ∧ fB w = 0#6) ∧ w.extractLsb' 5 1 = 0#1 :=
  (extractLsb'_eq_zero_iff (s := 5) (m := 18) (n := 1)).trans (and_congr_left' bits_6_23_eq_zero)

theorem bits_2_23_eq_zero : w.extractLsb' 2 22 = 0#22 ↔ (fD w = 0#6 ∧ fA w = 0#6 ∧ fB w = 0#6) ∧ w.extractLsb' 2 4 = 0#4 :=
  (extractLsb'_eq_zero_iff (s := 2) (m := 18) (n := 4)).trans (and_congr_left' bits_6_23_eq_zero)

theorem fC_eq_append_3_3 {x y : BitVec 3} : fC w = (x ++ y : BitVec (3 + 3)) ↔ w.extractLsb' 3 3 = x ∧ w.extractLsb' 0 3 = y :=
  extractLsb'_eq_append_iff (s := 0) (m := 3) (n := 3)

theorem fC_eq_append_2_4 {x : BitVec 2} {y : BitVec 4} : fC w = (x ++ y : BitVec (2 + 4)) ↔ w.extractLsb' 4 2 = x ∧ w.extractLsb' 0 4 = y :=
  extractLsb'_eq_append_iff (s := 0) (m := 2) (n := 4)

theorem fB_eq_append_2_4 {x : BitVec 2} {y : BitVec 4} : fB w = (x ++ y : BitVec (2 + 4)) ↔ w.extractLsb' 10 2 = x ∧ w.extractLsb' 6 4 = y :=
  extractLsb'_eq_append_iff (s := 6) (m := 2) (n := 4)

theorem fC_eq_append_1_2_3 {x : BitVec 1} {y : BitVec 2} {z : BitVec 3} : fC w = (x ++ y ++ z : BitVec (1 + 2 + 3)) ↔
    (w.extractLsb' 5 1 = x ∧ w.extractLsb' 3 2 = y) ∧ w.extractLsb' 0 3 = z :=
  (extractLsb'_eq_append_iff (s := 0) (m := 3) (n := 3)).trans (and_congr_left' (extractLsb'_eq_append_iff (s := 3) (m := 1) (n := 2)))

theorem fC_eq_append_1_3_2 {b : Bool} {y : BitVec 3} {z : BitVec 2} : fC w = (BitVec.ofBool b ++ y ++ z : BitVec (1 + 3 + 2)) ↔
    (w.getLsbD 5 = b ∧ w.extractLsb' 2 3 = y) ∧ w.extractLsb' 0 2 = z :=
  (extractLsb'_eq_append_iff (s := 0) (m := 4) (n := 2)).trans (and_congr_left'
    ((extractLsb'_eq_append_iff (s := 2) (m := 1) (n := 3)).trans (and_congr_left' extractLsb'_eq_ofBool_iff)))

theorem fC_eq_append_1_1_1_3 {a b c : Bool} {y : BitVec 3} :
    fC w = (BitVec.ofBool a ++ BitVec.ofBool b ++ BitVec.ofBool c ++ y : BitVec (1 + 1 + 1 + 3)) ↔
      ((w.getLsbD 5 = a ∧ w.getLsbD 4 = b) ∧ w.getLsbD 3 = c) ∧ w.extractLsb' 0 3 = y :=
  (extractLsb'_eq_append_iff (s := 0) (m := 3) (n := 3)).trans (and_congr_left' <|
    (extractLsb'_eq_append_iff (s := 3) (m := 2) (n := 1)).trans (and_congr
    ((extractLsb'_eq_append_iff (s := 4) (m := 1) (n := 1)).trans (and_congr extractLsb'_eq_ofBool_iff extractLsb'_eq_ofBool_iff))
      extractLsb'_eq_ofBool_iff))

theorem fC_eq_atomFn {op : BitVec 4} {w64 ar : Bool} :
    fC w = atomFn op w64 ar ↔ (w.getLsbD 5 = ar ∧ w.getLsbD 4 = w64) ∧ w.extractLsb' 0 4 = op :=
  (extractLsb'_eq_append_iff (s := 0) (m := 2) (n := 4)).trans (and_congr_left' <|
    (extractLsb'_eq_append_iff (s := 4) (m := 1) (n := 1)).trans (and_congr extractLsb'_eq_ofBool_iff extractLsb'_eq_ofBool_iff))

theorem fC_eq_regCode {n : RegNo} : fC w = regCode n ↔ w.extractLsb' 5 1 = 0#1 ∧ w.extractLsb' 0 5 = n := by
  rw [show regCode n = (0#1 ++ n : BitVec (1 + 5)) by revert n; decide]
  exact extractLsb'_eq_append_iff (s := 0) (m := 1) (n := 5)

theorem fC_eq_setWidth {m : BitVec 2} : fC w = m.setWidth 6 ↔ w.extractLsb' 2 4 = 0#4 ∧ w.extractLsb' 0 2 = m := by
  rw [show m.setWidth 6 = (0#4 ++ m : BitVec (4 + 2)) by revert m; decide]
  exact extractLsb'_eq_append_iff (s := 0) (m := 4) (n := 2)

theorem bits_of_fOp {op : BitVec 8} (hop : fOp w = op) (s n : Nat) (hs : s + n ≤ 8) : w.extractLsb' (24 + s) n = op.extractLsb' s n := by
  rw [← hop, fOp, extractLsb'_extractLsb'_add hs]

theorem fOp_eq_fpOp {t : FType} : fOp w = fpOp t ↔ w.extractLsb' 26 6 = 0b010000#6 ∧ w.extractLsb' 24 2 = t.code :=
  extractLsb'_eq_append_iff (s := 24) (m := 6) (n := 2)

theorem fOp_eq_vecOp {t : LaneType} : fOp w = vecOp t ↔ w.extractLsb' 28 4 = 0b0101#4 ∧ w.extractLsb' 24 4 = t.code :=
  extractLsb'_eq_append_iff (s := 24) (m := 4) (n := 4)

end

/-! ### What a field names (R33, R34, R41 to R47, R66) -/

/-- An answer by the option it holds, whose equality core Lean decides. -/
theorem eq_ok_iff_toOption {ε α : Type} {x : Except ε α} {a : α} : x = .ok a ↔ x.toOption = some a := by
  cases x with
  | error e => simp only [Except.toOption, reduceCtorEq]
  | ok b => simp only [Except.toOption, Except.ok.injEq, Option.some.injEq]

theorem opndOf_eq_ok {x : BitVec 6} {o : Opnd} : opndOf x = .ok o ↔ x = o.code := by
  rw [eq_ok_iff_toOption]
  cases o with
  | reg n =>
    revert x n
    decide
  | port p =>
    cases p with
    | q n =>
      revert x n
      decide
    | _ =>
      revert x
      decide

theorem regOf_eq_ok {x : BitVec 6} {n : RegNo} : regOf x = .ok n ↔ x = regCode n := by
  have h : regOf x = .ok n ↔ opndOf x = .ok (.reg n) := by
    unfold regOf
    split <;> simp [*]
  rw [h, opndOf_eq_ok, Opnd.code]

theorem zeroOf_eq_ok {n : Nat} {x : BitVec n} {u : Unit} : zeroOf x = .ok u ↔ x = 0#n := by
  unfold zeroOf
  split <;> simp_all

theorem zeroOf_ok {n : Nat} {x : BitVec n} (h : x = 0#n) : zeroOf x = .ok () := zeroOf_eq_ok.2 h

theorem litOf_two_eq_ok {x : BitVec 6} {y : BitVec 2} : litOf 2 x = .ok y ↔ x = y.setWidth 6 := by
  rw [eq_ok_iff_toOption]
  revert x y
  decide

theorem litOf_three_eq_ok {x : BitVec 6} {y : BitVec 3} : litOf 3 x = .ok y ↔ x = y.setWidth 6 := by
  rw [eq_ok_iff_toOption]
  revert x y
  decide

theorem scopeOf_eq_ok {x : BitVec 3} {c : Scope} : scopeOf x = .ok c ↔ x = c.code := by
  rw [eq_ok_iff_toOption]
  revert x
  cases c <;> decide

theorem widthOf_eq_ok {x : BitVec 3} {c : Width} : widthOf x = .ok c ↔ x = c.code := by
  rw [eq_ok_iff_toOption]
  revert x
  cases c <;> decide

theorem laneTypeOf_eq_ok {x : BitVec 4} {c : LaneType} : laneTypeOf x = .ok c ↔ x = c.code := by
  rw [eq_ok_iff_toOption]
  revert x
  cases c <;> decide

theorem condOf_eq_ok {x : BitVec 3} {c : FCond} : condOf x = .ok c ↔ x = c.code := by
  rw [eq_ok_iff_toOption]
  revert x
  cases c <;> decide

theorem collOpOf_eq_ok {x : BitVec 6} {c : CollOp} : collOpOf x = .ok c ↔ x = c.code := by
  rw [eq_ok_iff_toOption]
  revert x
  cases c <;> decide

theorem rmOf_eq_ok {x : BitVec 6} {c : RmField} : rmOf x = .ok c ↔ x = c.code := by
  rw [eq_ok_iff_toOption]
  revert x
  rcases c with m | _
  · cases m <;> decide
  · decide

theorem modsOf_eq_ok {x : BitVec 6} {c : Option Scope} : modsOf x = .ok c ↔ x = modsCode c := by
  rw [eq_ok_iff_toOption]
  revert x
  rcases c with _ | c
  · decide
  · cases c <;> decide

theorem ftypeOf_eq {x : BitVec 2} {t : FType} : ftypeOf x = t ↔ x = t.code := by
  revert x
  cases t <;> decide

theorem cvtTypeOf_eq {x : BitVec 3} {t : CvtType} : cvtTypeOf x = t ↔ x = t.code := by
  revert x
  cases t <;> decide

theorem fenceOrderOf_eq {x : BitVec 2} {t : FenceOrder} : fenceOrderOf x = t ↔ x = t.code := by
  revert x
  cases t <;> decide

end Sys2Proof
end

section
/-! The formats of the decoder (R32): what each gives, by the fields of its word. -/
namespace Sys2Proof

theorem bind_eq_ok {ε α β : Type} {x : Except ε α} {f : α → Except ε β} {b : β} :
    (x >>= f) = .ok b ↔ ∃ a, x = .ok a ∧ f a = .ok b := by
  cases x <;> simp [bind, Except.bind]

theorem pure_eq_ok {ε α : Type} {a b : α} : (pure a : Except ε α) = .ok b ↔ a = b := by
  simp [pure, Except.pure]

section
variable {w : Code} {i : Instr}

theorem dab_eq_ok {k : Opnd → Opnd → Opnd → Instr} :
    dab k w = .ok i ↔ ∃ d, fD w = d.code ∧ ∃ a, fA w = a.code ∧ ∃ b, fB w = b.code ∧ k d a b = i := by
  simp only [dab, bind_eq_ok, pure_eq_ok, opndOf_eq_ok]

theorem daz_eq_ok {k : Opnd → Opnd → Instr} :
    daz k w = .ok i ↔ fB w = 0#6 ∧ ∃ d, fD w = d.code ∧ ∃ a, fA w = a.code ∧ k d a = i := by
  simp only [daz, bind_eq_ok, pure_eq_ok, opndOf_eq_ok, zeroOf_eq_ok, exists_const]

theorem rab_eq_ok {k : RegNo → Opnd → Opnd → Instr} :
    rab k w = .ok i ↔ ∃ d, fD w = regCode d ∧ ∃ a, fA w = a.code ∧ ∃ b, fB w = b.code ∧ k d a b = i := by
  simp only [rab, bind_eq_ok, pure_eq_ok, opndOf_eq_ok, regOf_eq_ok]

theorem dabc_eq_ok {k : Opnd → Opnd → Opnd → Opnd → Instr} : dabc k w = .ok i ↔
    ∃ d, fD w = d.code ∧ ∃ a, fA w = a.code ∧ ∃ b, fB w = b.code ∧ ∃ c, fC w = c.code ∧ k d a b c = i := by
  simp only [dabc, bind_eq_ok, pure_eq_ok, opndOf_eq_ok]

theorem rrrr_eq_ok {k : RegNo → RegNo → RegNo → RegNo → Instr} : rrrr k w = .ok i ↔
    ∃ d, fD w = regCode d ∧ ∃ a, fA w = regCode a ∧ ∃ b, fB w = regCode b ∧ ∃ c, fC w = regCode c ∧ k d a b c = i := by
  simp only [rrrr, bind_eq_ok, pure_eq_ok, regOf_eq_ok]

theorem rrrz_eq_ok {k : RegNo → RegNo → RegNo → Instr} : rrrz k w = .ok i ↔
    fC w = 0#6 ∧ ∃ d, fD w = regCode d ∧ ∃ a, fA w = regCode a ∧ ∃ b, fB w = regCode b ∧ k d a b = i := by
  simp only [rrrz, bind_eq_ok, pure_eq_ok, regOf_eq_ok, zeroOf_eq_ok, exists_const]

theorem rrzz_eq_ok {k : RegNo → RegNo → Instr} : rrzz k w = .ok i ↔
    (fB w = 0#6 ∧ fC w = 0#6) ∧ ∃ d, fD w = regCode d ∧ ∃ a, fA w = regCode a ∧ k d a = i := by
  simp only [rrzz, bind_eq_ok, pure_eq_ok, regOf_eq_ok, zeroOf_eq_ok, exists_const, fImm12_eq_zero]

theorem rrrx_eq_ok {k : RegNo → RegNo → RegNo → RegNo → Instr} : rrrx k w = .ok i ↔
    ∃ d, fD w = regCode d ∧ ∃ a, fA w = regCode a ∧ ∃ b, fB w = regCode b ∧ ∃ c, fC w = regCode c ∧ k d a b c = i := by
  simp only [rrrx, bind_eq_ok, pure_eq_ok, regOf_eq_ok, zeroOf_eq_ok, fC_eq_regCode]
  grind

theorem dai_eq_ok {k : Opnd → Opnd → BitVec 12 → Instr} :
    dai k w = .ok i ↔ ∃ d, fD w = d.code ∧ ∃ a, fA w = a.code ∧ k d a (fImm12 w) = i := by
  simp only [dai, bind_eq_ok, pure_eq_ok, opndOf_eq_ok]

theorem dash_eq_ok {k : Opnd → Opnd → BitVec 6 → Instr} :
    dash k w = .ok i ↔ fB w = 0#6 ∧ ∃ d, fD w = d.code ∧ ∃ a, fA w = a.code ∧ k d a (fC w) = i := by
  simp only [dash, bind_eq_ok, pure_eq_ok, opndOf_eq_ok, zeroOf_eq_ok, exists_const]

theorem abo_eq_ok {k : Opnd → Opnd → BitVec 12 → Instr} :
    abo k w = .ok i ↔ ∃ a, fD w = a.code ∧ ∃ b, fA w = b.code ∧ k a b (fImm12 w) = i :=
  dai_eq_ok

theorem mem_eq_ok {k : Opnd → RegNo → BitVec 12 → Instr} :
    mem k w = .ok i ↔ ∃ d, fD w = d.code ∧ ∃ a, fA w = regCode a ∧ k d a (fImm12 w) = i := by
  simp only [mem, bind_eq_ok, pure_eq_ok, opndOf_eq_ok, regOf_eq_ok]

theorem atom_eq_ok {k : Opnd → RegNo → Opnd → Bool → Bool → Instr} : atom k w = .ok i ↔
    ∃ d, fD w = d.code ∧ ∃ a, fA w = regCode a ∧ ∃ b, fB w = b.code ∧ k d a b (w.getLsbD 4) (w.getLsbD 5) = i := by
  simp only [atom, bind_eq_ok, pure_eq_ok, opndOf_eq_ok, regOf_eq_ok]

end
end Sys2Proof
end

section
/-! Decoding against encoding (O1, O2): the fields of a word give an instruction exactly when that is its word (`parse_eq_ok`). -/
namespace Sys2Proof

section
variable {w : Code} {i : Instr}

/-! ### From the fields to the word -/

theorem encode_of_decInt (hop : fOp w = 1#8) : decInt w = .ok i → encode i = some w := by
  unfold decInt
  split
  case h_38 => nofun
  all_goals
    next hC =>
    replace hC := (BitVec.toNat_eq_nat.1 hC).2
    simp only [dab_eq_ok, daz_eq_ok, rab_eq_ok, forall_exists_index, and_imp]
    intros
    subst i
    simp [encode, packA_eq_iff, *]

theorem encode_of_decAtomic (hop : fOp w = 0x3C#8) : decAtomic w = .ok i → encode i = some w := by
  unfold decAtomic
  split
  case h_11 => nofun
  all_goals
    next hC =>
    replace hC := (BitVec.toNat_eq_nat.1 hC).2
    simp only [atom_eq_ok, bind_eq_ok, pure_eq_ok, opndOf_eq_ok, regOf_eq_ok, forall_exists_index, and_imp]
    intros
    subst i
    simp [encode, packA_eq_iff, fC_eq_atomFn, *]

theorem encode_of_decFp (hop : w.extractLsb' 26 6 = 0b010000#6) : decFp w = .ok i → encode i = some w := by
  replace hop : fOp w = fpOp (ftypeOf (w.extractLsb' 24 2)) := fOp_eq_fpOp.2 ⟨hop, ftypeOf_eq.1 rfl⟩
  unfold decFp
  split
  case h_14 => nofun
  all_goals
    next hC =>
    replace hC := (BitVec.toNat_eq_nat.1 hC).2
    simp only [dab_eq_ok, daz_eq_ok, forall_exists_index, and_imp]
    intros
    subst i
    simp [encode, packA_eq_iff, *]

theorem encode_of_decVec (hop : w.extractLsb' 28 4 = 0b0101#4) (h : decVec w = .ok i) : encode i = some w := by
  obtain ⟨t, ht, h⟩ := bind_eq_ok.1 h
  replace hop : fOp w = vecOp t := fOp_eq_vecOp.2 ⟨hop, laneTypeOf_eq_ok.1 ht⟩
  revert h
  split
  case h_21 => nofun
  all_goals
    next hC =>
    replace hC := (BitVec.toNat_eq_nat.1 hC).2
    simp only [dab_eq_ok, daz_eq_ok, rab_eq_ok, bind_eq_ok, pure_eq_ok, opndOf_eq_ok, regOf_eq_ok, forall_exists_index, and_imp]
    intros
    subst i
    simp [encode, packA_eq_iff, *]

theorem encode_of_decWop (hop : fOp w = 0x60#8) : decWop w = .ok i → encode i = some w := by
  unfold decWop
  simp only [bind_eq_ok, regOf_eq_ok, forall_exists_index, and_imp]
  intro d hD a hA
  split
  case h_15 => nofun
  all_goals
    next hC =>
    replace hC := (BitVec.toNat_eq_nat.1 hC).2
    simp only [bind_eq_ok, pure_eq_ok, opndOf_eq_ok, zeroOf_eq_ok, forall_exists_index, and_imp]
    intros
    subst i
    simp [encode, packA_eq_iff, *]

/-- What the fields of a word give has that word: in every row of the opcode map the fields read are the codes of the operands. -/
theorem encode_of_parse : parse w = .ok i → encode i = some w := by
  unfold parse
  split <;> rename_i hop
  -- No row, and the rows with a decoder of their own; every other row reads its operands itself.
  case h_144 => nofun
  all_goals replace hop := (BitVec.toNat_eq_nat.1 hop).2
  case h_1 => exact encode_of_decInt hop
  case h_54 => exact encode_of_decAtomic hop
  case h_58 | h_59 | h_60 | h_61 => exact encode_of_decFp (bits_of_fOp hop 2 6 (by decide))
  case h_69 | h_70 | h_71 | h_72 | h_73 | h_74 | h_75 | h_76 | h_77 => exact encode_of_decVec (bits_of_fOp hop 4 4 (by decide))
  case h_81 => exact encode_of_decWop hop
  all_goals
    simp only [dab_eq_ok, daz_eq_ok, rab_eq_ok, dabc_eq_ok, rrrr_eq_ok, rrrz_eq_ok, rrzz_eq_ok, rrrx_eq_ok, dai_eq_ok, dash_eq_ok, abo_eq_ok,
      mem_eq_ok, bind_eq_ok, pure_eq_ok, opndOf_eq_ok, regOf_eq_ok, zeroOf_eq_ok, scopeOf_eq_ok, widthOf_eq_ok, condOf_eq_ok, rmOf_eq_ok,
      modsOf_eq_ok, laneTypeOf_eq_ok, collOpOf_eq_ok, litOf_two_eq_ok, litOf_three_eq_ok, fImm12_eq_zero, fImm18_eq_zero, bits_0_23_eq_zero,
      bits_6_17_eq_zero, bits_3_11_eq_zero, bits_5_23_eq_zero, bits_2_23_eq_zero, forall_exists_index, and_imp]
    intros
    subst i
    simp [encode, packA_eq_iff, packI_eq_iff, packU_eq_iff, packP_eq_iff, fC_eq_append_3_3, fC_eq_append_2_4, fB_eq_append_2_4,
      fC_eq_append_1_2_3, fC_eq_append_1_3_2, fC_eq_append_1_1_1_3, fC_eq_setWidth, ← ftypeOf_eq, ← cvtTypeOf_eq, ← fenceOrderOf_eq, *]

/-! ### From the word to the fields -/

theorem parse_int (hop : fOp w = 1#8) : parse w = decInt w := by unfold parse; rw [hop]; rfl

theorem parse_atomic (hop : fOp w = 0x3C#8) : parse w = decAtomic w := by unfold parse; rw [hop]; rfl

theorem parse_fp {t : FType} (hop : fOp w = fpOp t) : parse w = decFp w := by unfold parse; rw [hop]; cases t <;> rfl

theorem parse_vec {t : LaneType} (hop : fOp w = vecOp t) : parse w = decVec w := by unfold parse; rw [hop]; cases t <;> rfl

theorem parse_wop (hop : fOp w = 0x60#8) : parse w = decWop w := by unfold parse; rw [hop]; rfl

/-- The word of an instruction gives it back: read by the row of its opcode, the codes of its operands are the operands. -/
theorem parse_of_encode (h : encode i = some w) : parse w = .ok i := by
  cases i with
  -- Opcode 0x01, by fn (R37).
  | add | sub | and | or | xor | nor | sll | srl | sra | rol | slt | sltn | min | max | minn | maxn | mul | mulh | mulhn | div | divn | rem | remn
  | bext | addw | subw | mulw | lea0 | lea1 | lea2 | lea3 =>
    obtain ⟨hop, hD, hA, hB, hC⟩ := packA_eq_iff.1 (Option.some.inj h)
    rw [parse_int hop, decInt, hC]
    exact dab_eq_ok.2 ⟨_, hD, _, hA, _, hB, rfl⟩
  | bins | sel =>
    obtain ⟨hop, hD, hA, hB, hC⟩ := packA_eq_iff.1 (Option.some.inj h)
    rw [parse_int hop, decInt, hC]
    exact rab_eq_ok.2 ⟨_, hD, _, hA, _, hB, rfl⟩
  | clz | ctz | popc | bswap =>
    obtain ⟨hop, hD, hA, hB, hC⟩ := packA_eq_iff.1 (Option.some.inj h)
    rw [parse_int hop, decInt, hC]
    exact daz_eq_ok.2 ⟨hB, _, hD, _, hA, rfl⟩
  -- Formats I and U with data operands.
  | addi | andi | ori | xori | slti | sltni | addwi | csrw | csrs | csrc =>
    obtain ⟨hop, hD, hA, rfl⟩ := packI_eq_iff.1 (Option.some.inj h)
    unfold parse; rw [hop]
    exact dai_eq_ok.2 ⟨_, hD, _, hA, rfl⟩
  | slli | srli | srai =>
    obtain ⟨hop, hD, hA, hB, rfl⟩ := packA_eq_iff.1 (Option.some.inj h)
    unfold parse; rw [hop]
    exact dash_eq_ok.2 ⟨hB, _, hD, _, hA, rfl⟩
  | ldhi | pcadd | jal =>
    obtain ⟨hop, hD, rfl⟩ := packU_eq_iff.1 (Option.some.inj h)
    unfold parse; rw [hop, opndOf_eq_ok.2 hD]; rfl
  | beq | bne | blt | bge | bltn | bgen =>
    obtain ⟨hop, hA, hB, rfl⟩ := packI_eq_iff.1 (Option.some.inj h)
    unfold parse; rw [hop]
    exact abo_eq_ok.2 ⟨_, hA, _, hB, rfl⟩
  -- Control.
  | jalr =>
    obtain ⟨hop, hD, hA, rfl⟩ := packI_eq_iff.1 (Option.some.inj h)
    unfold parse; rw [hop, opndOf_eq_ok.2 hD, regOf_eq_ok.2 hA]; rfl
  | rpt =>
    obtain ⟨hop, rfl, rfl, rfl, rfl, rfl, hz⟩ := packP_eq_iff.1 (Option.some.inj h)
    unfold parse; rw [hop, zeroOf_ok hz]; rfl
  | callat =>
    obtain ⟨hop, hD, hA, hB, hC⟩ := packA_eq_iff.1 (Option.some.inj h)
    unfold parse; rw [hop, opndOf_eq_ok.2 hD, opndOf_eq_ok.2 hA, regOf_eq_ok.2 hB, regOf_eq_ok.2 hC]; rfl
  | bsiglt | bsigge =>
    obtain ⟨hop, hA, rfl, rfl⟩ := packI_eq_iff.1 (Option.some.inj h)
    unfold parse; rw [hop, regOf_eq_ok.2 hA]; rfl
  | ldn8 | ldi8 | ldn16 | ldi16 | ldn32 | ldi32 | ld64 | st8 | st16 | st32 | st64 | fld32 | fld64 | fst32 | fst64 | fldt32 | fldt64 | fstt32 | fstt64
  | vld | vst | vldt | vstt =>
    obtain ⟨hop, hD, hA, rfl⟩ := packI_eq_iff.1 (Option.some.inj h)
    unfold parse; rw [hop]
    exact mem_eq_ok.2 ⟨_, hD, _, hA, rfl⟩
  | lda | stl =>
    obtain ⟨hop, hD, hA, hB, hC⟩ := packA_eq_iff.1 (Option.some.inj h)
    obtain ⟨hS, hW⟩ := fC_eq_append_3_3.1 hC
    unfold parse; rw [hop, zeroOf_ok hB, opndOf_eq_ok.2 hD, regOf_eq_ok.2 hA, scopeOf_eq_ok.2 hS, widthOf_eq_ok.2 hW]; rfl
  | ldv =>
    obtain ⟨hop, hD, hA, hB, hC⟩ := packA_eq_iff.1 (Option.some.inj h)
    obtain ⟨hz, hS⟩ := fC_eq_append_3_3.1 hC
    unfold parse; rw [hop, zeroOf_ok hz, opndOf_eq_ok.2 hD, regOf_eq_ok.2 hA, opndOf_eq_ok.2 hB, scopeOf_eq_ok.2 hS]; rfl
  | stv =>
    obtain ⟨hop, hD, hA, hB, hC⟩ := packA_eq_iff.1 (Option.some.inj h)
    obtain ⟨hz, hS⟩ := fC_eq_append_3_3.1 hC
    unfold parse; rw [hop, zeroOf_ok (bits_3_11_eq_zero.2 ⟨hB, hz⟩), opndOf_eq_ok.2 hD, regOf_eq_ok.2 hA, scopeOf_eq_ok.2 hS]; rfl
  | vrst =>
    obtain ⟨hop, hD, hA, hB, hC⟩ := packA_eq_iff.1 (Option.some.inj h)
    unfold parse; rw [hop, zeroOf_ok hD, zeroOf_ok hC, regOf_eq_ok.2 hA, opndOf_eq_ok.2 hB]; rfl
  -- Atomics and fences (R41).
  | aadd | aand | aor | axor | amin | amax | aminn | amaxn | aswp =>
    obtain ⟨hop, hD, hA, hB, hC⟩ := packA_eq_iff.1 (Option.some.inj h)
    obtain ⟨⟨rfl, rfl⟩, hop4⟩ := fC_eq_atomFn.1 hC
    rw [parse_atomic hop, decAtomic, hop4]
    exact atom_eq_ok.2 ⟨_, hD, _, hA, _, hB, rfl⟩
  | acas =>
    obtain ⟨hop, hD, hA, hB, hC⟩ := packA_eq_iff.1 (Option.some.inj h)
    obtain ⟨⟨rfl, rfl⟩, hop4⟩ := fC_eq_atomFn.1 hC
    rw [parse_atomic hop, decAtomic, hop4, regOf_eq_ok.2 hD, regOf_eq_ok.2 hA, opndOf_eq_ok.2 hB]; rfl
  | fenc =>
    obtain ⟨hop, hD, hA, hB, hC⟩ := packA_eq_iff.1 (Option.some.inj h)
    obtain ⟨⟨⟨rfl, rfl⟩, rfl⟩, hS⟩ := fC_eq_append_1_1_1_3.1 hC
    unfold parse; rw [hop, zeroOf_ok (bits_6_17_eq_zero.2 ⟨hA, hB⟩), regOf_eq_ok.2 hD, scopeOf_eq_ok.2 hS]; rfl
  | fwait =>
    obtain ⟨hop, hD, hA, hB, hC⟩ := packA_eq_iff.1 (Option.some.inj h)
    unfold parse; rw [hop, zeroOf_ok hD, zeroOf_ok (fImm12_eq_zero.2 ⟨hB, hC⟩), regOf_eq_ok.2 hA]; rfl
  | fence =>
    obtain ⟨hop, hD, hA, hB, hC⟩ := packA_eq_iff.1 (Option.some.inj h)
    obtain ⟨⟨hz, hO⟩, hS⟩ := fC_eq_append_1_2_3.1 hC
    unfold parse; rw [hop, zeroOf_ok (bits_5_23_eq_zero.2 ⟨⟨hD, hA, hB⟩, hz⟩), fenceOrderOf_eq.2 hO, scopeOf_eq_ok.2 hS]; rfl
  -- Scalar floating point (R42).
  | fadd | fsub | fmul | fdiv | fmin | fmax | fsgn =>
    obtain ⟨hop, hD, hA, hB, hC⟩ := packA_eq_iff.1 (Option.some.inj h)
    rw [parse_fp hop, decFp, ftypeOf_eq.2 (fOp_eq_fpOp.1 hop).2, hC]
    exact dab_eq_ok.2 ⟨_, hD, _, hA, _, hB, rfl⟩
  | fsqrt | fabs | fneg | fclass | frnd | fmov =>
    obtain ⟨hop, hD, hA, hB, hC⟩ := packA_eq_iff.1 (Option.some.inj h)
    rw [parse_fp hop, decFp, ftypeOf_eq.2 (fOp_eq_fpOp.1 hop).2, hC]
    exact daz_eq_ok.2 ⟨hB, _, hD, _, hA, rfl⟩
  | ffma dbl =>
    obtain ⟨hop, hD, hA, hB, hC⟩ := packA_eq_iff.1 (Option.some.inj h)
    unfold parse; rw [hop]
    cases dbl <;> exact dabc_eq_ok.2 ⟨_, hD, _, hA, _, hB, _, hC, rfl⟩
  | fcmp =>
    obtain ⟨hop, hD, hA, hB, hC⟩ := packA_eq_iff.1 (Option.some.inj h)
    obtain ⟨⟨hz, hT⟩, hK⟩ := fC_eq_append_1_2_3.1 hC
    unfold parse
    rw [hop, zeroOf_ok hz, ftypeOf_eq.2 hT, condOf_eq_ok.2 hK, opndOf_eq_ok.2 hD, opndOf_eq_ok.2 hA, opndOf_eq_ok.2 hB]; rfl
  | fcvt =>
    obtain ⟨hop, hD, hA, hB, hC⟩ := packA_eq_iff.1 (Option.some.inj h)
    obtain ⟨hS, hT⟩ := fC_eq_append_3_3.1 hC
    unfold parse; rw [hop, cvtTypeOf_eq.2 hS, cvtTypeOf_eq.2 hT, rmOf_eq_ok.2 hB, opndOf_eq_ok.2 hD, opndOf_eq_ok.2 hA]; rfl
  | fmovi =>
    obtain ⟨hop, hD, hA, rfl⟩ := packI_eq_iff.1 (Option.some.inj h)
    unfold parse; rw [hop, zeroOf_ok hA, opndOf_eq_ok.2 hD]; rfl
  | ftc =>
    obtain ⟨hop, hD, hA, hB, hC⟩ := packA_eq_iff.1 (Option.some.inj h)
    obtain ⟨⟨rfl, hz⟩, rfl⟩ := fC_eq_append_1_3_2.1 hC
    unfold parse; rw [hop, zeroOf_ok hB, zeroOf_ok hz, opndOf_eq_ok.2 hD, regOf_eq_ok.2 hA]; rfl
  | fstc =>
    obtain ⟨hop, hD, hA, hB, hC⟩ := packA_eq_iff.1 (Option.some.inj h)
    obtain ⟨⟨rfl, hz⟩, rfl⟩ := fC_eq_append_1_3_2.1 hC
    unfold parse; rw [hop, zeroOf_ok hB, zeroOf_ok hz, regOf_eq_ok.2 hD, opndOf_eq_ok.2 hA]; rfl
  -- Vectors (R43).
  | vadd | vsub | vmul | vmin | vmax | vand | vor | vxor | vshl | vshr | vperm | vdot | vcmp =>
    obtain ⟨hop, hD, hA, hB, hC⟩ := packA_eq_iff.1 (Option.some.inj h)
    rw [parse_vec hop, decVec, laneTypeOf_eq_ok.2 (fOp_eq_vecOp.1 hop).2, hC]
    exact dab_eq_ok.2 ⟨_, hD, _, hA, _, hB, rfl⟩
  | vabs | vneg | vbc | vred =>
    obtain ⟨hop, hD, hA, hB, hC⟩ := packA_eq_iff.1 (Option.some.inj h)
    rw [parse_vec hop, decVec, laneTypeOf_eq_ok.2 (fOp_eq_vecOp.1 hop).2, hC]
    exact daz_eq_ok.2 ⟨hB, _, hD, _, hA, rfl⟩
  | vins =>
    obtain ⟨hop, hD, hA, rfl, hC⟩ := packA_eq_iff.1 (Option.some.inj h)
    rw [parse_vec hop, decVec, laneTypeOf_eq_ok.2 (fOp_eq_vecOp.1 hop).2, hC, regOf_eq_ok.2 hD, opndOf_eq_ok.2 hA]; rfl
  | vext =>
    obtain ⟨hop, hD, hA, rfl, hC⟩ := packA_eq_iff.1 (Option.some.inj h)
    rw [parse_vec hop, decVec, laneTypeOf_eq_ok.2 (fOp_eq_vecOp.1 hop).2, hC, opndOf_eq_ok.2 hD, opndOf_eq_ok.2 hA]; rfl
  | vsel =>
    obtain ⟨hop, hD, hA, hB, hC⟩ := packA_eq_iff.1 (Option.some.inj h)
    rw [parse_vec hop, decVec, laneTypeOf_eq_ok.2 (fOp_eq_vecOp.1 hop).2, hC]
    exact rab_eq_ok.2 ⟨_, hD, _, hA, _, hB, rfl⟩
  | vfmaF32 | vfmaBf16 =>
    obtain ⟨hop, hD, hA, hB, hC⟩ := packA_eq_iff.1 (Option.some.inj h)
    unfold parse; rw [hop]
    exact dabc_eq_ok.2 ⟨_, hD, _, hA, _, hB, _, hC, rfl⟩
  | vcvt =>
    obtain ⟨hop, hD, hA, hB, hC⟩ := packA_eq_iff.1 (Option.some.inj h)
    obtain ⟨hzC, hT⟩ := fC_eq_append_2_4.1 hC
    obtain ⟨hzB, hS⟩ := fB_eq_append_2_4.1 hB
    unfold parse
    rw [hop, zeroOf_ok hzC, zeroOf_ok hzB, laneTypeOf_eq_ok.2 hT, laneTypeOf_eq_ok.2 hS, opndOf_eq_ok.2 hD, opndOf_eq_ok.2 hA]; rfl
  -- Opcode 0x60, by c (R44).
  | wadd | wsub | wmul | wfma | wmin | wmax | wcvt | wred | wexp | wrsq | wcpy | wtrn =>
    obtain ⟨hop, hD, hA, hB, hC⟩ := packA_eq_iff.1 (Option.some.inj h)
    rw [parse_wop hop, decWop, regOf_eq_ok.2 hD, regOf_eq_ok.2 hA, hC, zeroOf_ok hB]; rfl
  | wact | wscl =>
    obtain ⟨hop, hD, hA, hB, hC⟩ := packA_eq_iff.1 (Option.some.inj h)
    rw [parse_wop hop, decWop, regOf_eq_ok.2 hD, regOf_eq_ok.2 hA, hC, opndOf_eq_ok.2 hB]; rfl
  -- Registers alone.
  | mld | mrfp4 | mri8 | mri48 | mrbf | mrhf | mre43 | mre52 | mre45 | mdrn | gath | scat =>
    obtain ⟨hop, hD, hA, hB, hC⟩ := packA_eq_iff.1 (Option.some.inj h)
    unfold parse; rw [hop]
    exact rrrr_eq_ok.2 ⟨_, hD, _, hA, _, hB, _, hC, rfl⟩
  | boxt | trit | cov | qmrg | smpl =>
    obtain ⟨hop, hD, hA, hB, hC⟩ := packA_eq_iff.1 (Option.some.inj h)
    unfold parse; rw [hop]
    exact rrrx_eq_ok.2 ⟨_, hD, _, hA, _, hB, _, hC, rfl⟩
  | cprom | edg | smp | txl =>
    obtain ⟨hop, hD, hA, hB, hC⟩ := packA_eq_iff.1 (Option.some.inj h)
    unfold parse; rw [hop]
    exact rrrz_eq_ok.2 ⟨hC, _, hD, _, hA, _, hB, rfl⟩
  | mswp | mzro | mqry | rdec | gbar | clone | dfx | dfy =>
    obtain ⟨hop, hD, hA, hB, hC⟩ := packA_eq_iff.1 (Option.some.inj h)
    unfold parse; rw [hop]
    exact rrzz_eq_ok.2 ⟨⟨hB, hC⟩, _, hD, _, hA, rfl⟩
  | hset | stg =>
    obtain ⟨hop, hD, hA, hB, hC⟩ := packA_eq_iff.1 (Option.some.inj h)
    unfold parse; rw [hop, zeroOf_ok hD, zeroOf_ok hC, regOf_eq_ok.2 hA, regOf_eq_ok.2 hB]; rfl
  -- Engines, copies and messages.
  | mcap =>
    obtain ⟨hop, hD, hA, hB, hC⟩ := packA_eq_iff.1 (Option.some.inj h)
    unfold parse; rw [hop, zeroOf_ok hC]
    exact rab_eq_ok.2 ⟨_, hD, _, hA, _, hB, rfl⟩
  | cpy =>
    obtain ⟨hop, hD, hA, hB, hC⟩ := packA_eq_iff.1 (Option.some.inj h)
    unfold parse; rw [hop, regOf_eq_ok.2 hD, regOf_eq_ok.2 hA, regOf_eq_ok.2 hB, opndOf_eq_ok.2 hC]; rfl
  | cpym | rbr =>
    obtain ⟨hop, hD, hA, hB, hC⟩ := packA_eq_iff.1 (Option.some.inj h)
    unfold parse; rw [hop, opndOf_eq_ok.2 hD, regOf_eq_ok.2 hA, regOf_eq_ok.2 hB, opndOf_eq_ok.2 hC]; rfl
  | coll =>
    obtain ⟨hop, hD, hA, hB, hC⟩ := packA_eq_iff.1 (Option.some.inj h)
    unfold parse; rw [hop, regOf_eq_ok.2 hD, regOf_eq_ok.2 hA, regOf_eq_ok.2 hB, collOpOf_eq_ok.2 hC]; rfl
  | send | sendm | gsend =>
    obtain ⟨hop, hD, hA, rfl, hC⟩ := packA_eq_iff.1 (Option.some.inj h)
    unfold parse; rw [hop, regOf_eq_ok.2 hD, regOf_eq_ok.2 hA, modsOf_eq_ok.2 hC]; rfl
  | doneI | yld =>
    obtain ⟨hop, hfields⟩ := packA_eq_iff.1 (Option.some.inj h)
    unfold parse; rw [hop, zeroOf_ok (bits_0_23_eq_zero.2 hfields)]; rfl
  | mid | spop =>
    obtain ⟨hop, hD, hfields⟩ := packA_eq_iff.1 (Option.some.inj h)
    unfold parse; rw [hop, zeroOf_ok (fImm18_eq_zero.2 hfields), opndOf_eq_ok.2 hD]; rfl
  | spawn =>
    obtain ⟨hop, hD, hA, hB, hC⟩ := packA_eq_iff.1 (Option.some.inj h)
    unfold parse; rw [hop, regOf_eq_ok.2 hD, opndOf_eq_ok.2 hA, regOf_eq_ok.2 hB, regOf_eq_ok.2 hC]; rfl
  | alw =>
    obtain ⟨hop, hD, hA, hB, hC⟩ := packA_eq_iff.1 (Option.some.inj h)
    unfold parse; rw [hop, zeroOf_ok hC]
    exact daz_eq_ok.2 ⟨hB, _, hD, _, hA, rfl⟩
  | qwait =>
    obtain ⟨hop, hD, rfl, hB, hC⟩ := packA_eq_iff.1 (Option.some.inj h)
    unfold parse; rw [hop, zeroOf_ok hC, opndOf_eq_ok.2 hD, opndOf_eq_ok.2 hB]; rfl
  | hmask =>
    obtain ⟨hop, hD, hA, hB, hC⟩ := packA_eq_iff.1 (Option.some.inj h)
    unfold parse; rw [hop, zeroOf_ok hC]
    exact dab_eq_ok.2 ⟨_, hD, _, hA, _, hB, rfl⟩
  -- Groups, stages and carousels.
  | gid =>
    obtain ⟨hop, hD, hA, hB, hC⟩ := packA_eq_iff.1 (Option.some.inj h)
    unfold parse; rw [hop, zeroOf_ok (fImm12_eq_zero.2 ⟨hB, hC⟩), opndOf_eq_ok.2 hD, litOf_two_eq_ok.2 hA]; rfl
  | merge | xst =>
    obtain ⟨hop, hD, hA, hB, hC⟩ := packA_eq_iff.1 (Option.some.inj h)
    unfold parse; rw [hop, zeroOf_ok hC, regOf_eq_ok.2 hD, regOf_eq_ok.2 hA, opndOf_eq_ok.2 hB]; rfl
  | krd =>
    obtain ⟨hop, hD, hA, hB, hC⟩ := packA_eq_iff.1 (Option.some.inj h)
    unfold parse; rw [hop, zeroOf_ok hC, opndOf_eq_ok.2 hD, regOf_eq_ok.2 hA, litOf_three_eq_ok.2 hB]; rfl
  | csub | cskip =>
    obtain ⟨hop, hD, hA, hB, hC⟩ := packA_eq_iff.1 (Option.some.inj h)
    unfold parse; rw [hop, zeroOf_ok hC, opndOf_eq_ok.2 hD, regOf_eq_ok.2 hA, regOf_eq_ok.2 hB]; rfl
  | cstat =>
    obtain ⟨hop, hD, hA, hB, hC⟩ := packA_eq_iff.1 (Option.some.inj h)
    unfold parse; rw [hop, zeroOf_ok hC, opndOf_eq_ok.2 hD, regOf_eq_ok.2 hA, litOf_two_eq_ok.2 hB]; rfl
  | spush =>
    obtain ⟨hop, hD, hA, hB, hC⟩ := packA_eq_iff.1 (Option.some.inj h)
    unfold parse; rw [hop, zeroOf_ok hD, zeroOf_ok (fImm12_eq_zero.2 ⟨hB, hC⟩), opndOf_eq_ok.2 hA]; rfl
  -- The system.
  | sys =>
    obtain ⟨hop, hD, hA, rfl⟩ := packI_eq_iff.1 (Option.some.inj h)
    unfold parse; rw [hop, zeroOf_ok hD, zeroOf_ok hA]; rfl
  | tret =>
    obtain ⟨hop, hD, hA, hB, hC⟩ := packA_eq_iff.1 (Option.some.inj h)
    obtain ⟨hz, rfl⟩ := fC_eq_setWidth.1 hC
    unfold parse; rw [hop, zeroOf_ok (bits_2_23_eq_zero.2 ⟨⟨hD, hA, hB⟩, hz⟩)]; rfl
  | mark =>
    obtain ⟨hop, hD, hA, rfl⟩ := packI_eq_iff.1 (Option.some.inj h)
    unfold parse; rw [hop, zeroOf_ok hD, opndOf_eq_ok.2 hA]; rfl
  | csrr =>
    obtain ⟨hop, hD, hA, rfl⟩ := packI_eq_iff.1 (Option.some.inj h)
    unfold parse; rw [hop, zeroOf_ok hA, opndOf_eq_ok.2 hD]; rfl
  -- The steps of the other agents have no word.
  | _ => cases h

/-! ### Both ways -/

theorem parse_eq_ok : parse w = .ok i ↔ encode i = some w := ⟨encode_of_parse, parse_of_encode⟩

/-- A word decodes to the well-formed instruction that has it, and to nothing else (R55). -/
theorem decode_eq_ok : decode w = .ok i ↔ i.wellFormed = true ∧ encode i = some w := by
  rw [← parse_eq_ok, decode]
  cases parse w with
  | error e => simp
  | ok j =>
    by_cases hj : j.wellFormed = true
    · simp only [hj, if_true, Except.ok.injEq]
      exact ⟨fun h => ⟨h ▸ hj, h⟩, And.right⟩
    · simp only [hj, if_false, reduceCtorEq, false_iff, Except.ok.injEq]
      rintro ⟨hi, rfl⟩
      exact hj hi

end

/-- Settles O1: the well-formed instruction that has a word is what the word decodes to. -/
theorem encodedInstructionsDecodeToThemselves : Obligations.EncodedInstructionsDecodeToThemselves :=
  fun _ _ hi hw => decode_eq_ok.2 ⟨hi, hw⟩

/-- Settles O2: what a word decodes to is well formed and has that word. -/
theorem decodedWordsEncodeBack : Obligations.DecodedWordsEncodeBack :=
  fun _ _ h => decode_eq_ok.1 h

end Sys2Proof
end

section
/-! An instruction whose conditions of issue hold acts in the issued state (R145, R179 to R181, R352): mending the registers read changes no port.
From this, O36. -/
namespace Sys2Proof.Machine

/-! ### What mending leaves alone (R154, R352) -/

@[simp] theorem State.countFixes_ctx (q n : Nat) (s : State) : (s.countFixes q n).ctx = s.ctx := by
  unfold State.countFixes
  split <;> rfl

@[simp] theorem State.el_countFixes (q n : Nat) (s : State) (m : Nat) : (s.countFixes q n).el m = s.el m := by
  simp [State.el]

@[simp] theorem State.mended_ctx_tiles (rds : List (Cls × Opnd)) (s : State) : (s.mended rds).ctx.tiles = s.ctx.tiles := by
  simp [State.mended, State.updTh]

@[simp] theorem State.mended_ctx_moved (rds : List (Cls × Opnd)) (s : State) : (s.mended rds).ctx.moved = s.ctx.moved := by
  simp [State.mended, State.updTh]

/-- A change of a thread set keeps its element's queues and links. -/
theorem State.el_updThOf_ports (le k : Nat) (f : ThreadSet → ThreadSet) (s : State) (m : Nat) :
    ((s.updThOf le k f).el m).queues = (s.el m).queues ∧ ((s.updThOf le k f).el m).links = (s.el m).links := by
  unfold State.updThOf
  by_cases hm : m = le
  · subst hm; simp
  · simp [State.el_updEl_other _ _ hm]

@[simp] theorem State.mended_queues (rds : List (Cls × Opnd)) (s : State) (m : Nat) : ((s.mended rds).el m).queues = (s.el m).queues := by
  simp [State.mended, State.updTh, State.el_updThOf_ports]

@[simp] theorem State.mended_links (rds : List (Cls × Opnd)) (s : State) (m : Nat) : ((s.mended rds).el m).links = (s.el m).links := by
  simp [State.mended, State.updTh, State.el_updThOf_ports]

/-! ### The ports after mending (R180, R181) -/

@[simp] theorem State.mended_physOf (rds : List (Cls × Opnd)) (s : State) (le : Nat) : (s.mended rds).physOf le = s.physOf le := by
  simp [State.physOf]

@[simp] theorem State.mended_neighbour (rds : List (Cls × Opnd)) (s : State) (le dir : Nat) :
    (s.mended rds).neighbour le dir = s.neighbour le dir := by
  simp only [State.neighbour, State.leAt, State.mended_physOf, State.mended_ctx_moved, State.mended_ctx_tiles]

@[simp] theorem State.mended_absentLink (rds : List (Cls × Opnd)) (s : State) (le : Nat) (ps : List (Port × Nat)) :
    (s.mended rds).absentLink le ps = s.absentLink le ps := by
  simp only [State.absentLink, State.hasLink, State.mended_physOf]

@[simp] theorem State.mended_popReady (rds : List (Cls × Opnd)) (s : State) (w : Waiter) (le : Nat) (p : Port) (pops : Nat) :
    (s.mended rds).popReady w le p pops = s.popReady w le p pops := by
  simp only [State.popReady, State.inFifo, State.mended_queues, State.mended_links]

@[simp] theorem State.mended_outFifo (rds : List (Cls × Opnd)) (s : State) (le : Nat) (p : Port) :
    (s.mended rds).outFifo le p = s.outFifo le p := by
  simp only [State.outFifo, State.mended_queues, State.mended_links, State.mended_neighbour]

@[simp] theorem State.mended_outRoom (rds : List (Cls × Opnd)) (s : State) (le : Nat) (p : Port) :
    (s.mended rds).outRoom le p = s.outRoom le p := by
  simp only [State.outRoom, State.mended_queues, State.mended_links, State.mended_neighbour]

@[simp] theorem State.mended_pushReady (rds : List (Cls × Opnd)) (s : State) (w : Waiter) (le : Nat) (p : Port) (pops pushes : Nat) :
    (s.mended rds).pushReady w le p pops pushes = s.pushReady w le p pops pushes := by
  simp only [State.pushReady, State.mended_outFifo, State.mended_outRoom]

@[simp] theorem State.mended_portReady (rds : List (Cls × Opnd)) (s : State) (le k : Nat) (p : Port) (pops pushes : Nat) :
    (s.mended rds).portReady le k p pops pushes = s.portReady le k p pops pushes := by
  simp only [State.portReady, State.mended_popReady, State.mended_pushReady]

/-! ### Issue -/

/-- No register read is ruined exactly where each is sound or in the operand log (R352). -/
theorem ThreadSet.ruined_eq_none {t : ThreadSet} {rds : List (Cls × Opnd)} :
    t.ruined rds = none ↔ (t.readsOf rds).all (fun r => !t.badRegs.contains r || t.oplog.contains r) = true := by
  simp only [ThreadSet.ruined, List.find?_eq_none, List.all_eq_true]
  refine forall_congr' fun r => imp_congr_right fun _ => ?_
  cases t.badRegs.contains r <;> cases t.oplog.contains r <;> decide

/-- The checks at issue let go what is ready. -/
theorem gate_of_readyFor {s : State} {rds wrs : List (Cls × Opnd)} (h : s.readyFor rds wrs = true) : gate rds wrs s = .go (s.issued rds) := by
  simp only [State.readyFor, Bool.and_eq_true, Option.isNone_iff_eq_none] at h
  obtain ⟨⟨⟨⟨hlink, hpend⟩, hsound⟩, hwaits⟩, hports⟩ := h
  have hroom : ¬ (0 < wordsAt .po (portUses wrs) && 8 < s.th.pend.length + wordsAt .po (portUses wrs)) = true := by
    simp only [Bool.or_eq_true, Bool.and_eq_true, beq_iff_eq, decide_eq_true_eq] at hpend ⊢
    omega
  have hfree : ¬ (regUses (rds ++ wrs)).any (fun r => s.th.waits r) = true := by
    simpa using hwaits
  simp only [gate, ThreadSet.ruined_eq_none.2 hsound, State.mended_absentLink, hlink, State.mended_portReady, if_neg hroom, if_neg hfree,
    if_pos hports, State.issued]

theorem withIssue_of_readyFor {s : State} {rds wrs : List (Cls × Opnd)} {k : State → Host.Outcome State Fault Refusal}
    (h : s.readyFor rds wrs = true) : withIssue rds wrs k s = k (s.issued rds) :=
  withIssue_of_go (gate_of_readyFor h)

/-! ### Checked scalar results (R82, R84) -/

section
variable {rds : List (Cls × Opnd)} {d : Opnd} {ts : Nat × Nat × Nat} {r : FpRes × Nat} {s0 s1 : State}

theorem fpRetire_of_passes (h : s0.th.fails r.2 = false) : fpRetire rds d ts r s0 s1 = .next (s1.retireF r d) :=
  if_neg (Bool.eq_false_iff.1 h)

/-- The trap is taken in the state before any pop. -/
theorem fpRetire_of_fails (h : s0.th.fails r.2 = true) : fpRetire rds d ts r s0 s1 =
    s0.doldrums (doldrumsVal ts.2.2 ts.2.1 ts.1 r.2 1 0 (Opnd.field d)) ⟨[outF d ⟨BitVec.ofNat 64 r.1.bits, r.2⟩], r.1.fl, portUses rds⟩ :=
  if_pos h

end

theorem exec_of_floatTable2 {i : Instr} {f : Fmt} {k : Nat → Nat → Opv → Opv → FpRes × Nat} {d a b : Opnd}
    (h : floatTable2 i = some (f, k, d, a, b)) (s : State) : exec i s = fpOp2 f k d a b s := by
  unfold floatTable2 at h
  split at h <;> cases h <;> rfl

theorem exec_of_floatTable1 {i : Instr} {f : Fmt} {k : Nat → Nat → Opv → FpRes × Nat} {d a : Opnd}
    (h : floatTable1 i = some (f, k, d, a)) (s : State) : exec i s = fpOp1 f k d a s := by
  unfold floatTable1 at h
  split at h <;> cases h <;> rfl

theorem exec_ffma (dbl : Bool) (d a b c : Opnd) (s : State) : exec (.ffma dbl d a b c) s = execFfma dbl d a b c s := rfl

/-- Settles O36: what is ready acts in the issued state, and its result passes the check or is held by the trap. -/
theorem floatArithmeticRetiresOrTraps : Obligations.FloatArithmeticRetiresOrTraps := by
  refine ⟨fun i f k d a b s hi hr => ?_, fun i f k d a s hi hr => ?_, fun dbl d a b c s hr => ?_⟩
  · rw [exec_of_floatTable2 hi, fpOp2, withIssue_of_readyFor hr]
    exact ⟨fpRetire_of_passes, fpRetire_of_fails⟩
  · rw [exec_of_floatTable1 hi, fpOp1, withIssue_of_readyFor hr]
    exact ⟨fpRetire_of_passes, fpRetire_of_fails⟩
  · rw [exec_ffma, execFfma, withIssue_of_readyFor hr]
    exact ⟨fpRetire_of_passes, fpRetire_of_fails⟩

end Sys2Proof.Machine
end

section
/-! What the L1 caches and their homes leave alone (R135 to R138, R143, R312): the context and who issues. A structure is read through them, and so
is a read of a `gbar` token acquired, without a change of any register (R156, R340). -/
namespace Sys2Proof.Machine

/-- The parts of the state that no cache operation touches: the context, with every element and its thread sets, and who issues. -/
def State.seat (s : State) : Ctx × (Nat × Nat) := (s.ctx, s.cur)

theorem State.ctx_of_seat {s t : State} (h : t.seat = s.seat) : t.ctx = s.ctx := congrArg Prod.fst h
theorem State.cur_of_seat {s t : State} (h : t.seat = s.seat) : t.cur = s.cur := congrArg Prod.snd h

theorem State.el_of_seat {s t : State} (h : t.seat = s.seat) (le : Nat) : t.el le = s.el le := by
  simp only [State.el, State.ctx_of_seat h]

theorem State.th_of_seat {s t : State} (h : t.seat = s.seat) : t.th = s.th := by
  simp only [State.th, State.thOf, State.el_of_seat h, State.cur_of_seat h]

theorem State.rg_of_seat {s t : State} (h : t.seat = s.seat) (n : RegNo) : t.rg n = s.rg n := by
  simp only [State.rg, State.th_of_seat h]

/-! ### Lines and superblocks -/

@[simp] theorem State.updTile_seat (t : Nat) (f : Tile → Tile) (s : State) : (s.updTile t f).seat = s.seat := rfl
@[simp] theorem State.poke_seat (a : Nat) (bs : List Byte) (s : State) : (s.poke a bs).seat = s.seat := rfl
@[simp] theorem State.putLine_seat (t : Nat) (b : Superblock) (i : Nat) (l : Line) (s : State) : (s.putLine t b i l).seat = s.seat := rfl
@[simp] theorem State.touch_seat (t : Nat) (b : Superblock) (s : State) : (s.touch t b).seat = s.seat := rfl

@[simp] theorem State.correctLine_seat (pa : Nat) (s : State) : (s.correctLine pa).seat = s.seat := by
  obtain ⟨l, c, h⟩ := s.correctLine_only pa
  rw [h]; rfl

@[simp] theorem State.walkSeen_seat (root va : Nat) (s : State) : (s.walkSeen root va).seat = s.seat := by
  obtain ⟨l, c, h⟩ := s.walkSeen_only root va
  rw [h]; rfl

@[simp] theorem writeWord_seat (pa : Nat) (l : Line) (w : Nat) (s : State) : (writeWord pa l w s).seat = s.seat := by
  have hbytes : ∀ ks : List Nat, (ks.foldl (fun s k => s.poke (pa + k) [l.byte k]) s).seat = s.seat :=
    fun ks => foldl_keeps State.seat (fun s k => s.poke (pa + k) [l.byte k]) (fun _ _ => rfl) ks s
  unfold writeWord
  dsimp only
  split <;> split
  · rfl
  · exact hbytes _
  · rfl
  · exact hbytes _

@[simp] theorem writeBack_seat (pa : Nat) (l : Line) (s : State) : (writeBack pa l s).seat = s.seat := by
  unfold writeBack
  split
  · exact foldl_keeps State.seat _ (fun u w => writeWord_seat pa l w u) _ s
  · rfl

@[simp] theorem State.purge_seat (t : Nat) (b : Superblock) (i : Nat) (s : State) : (s.purge t b i).seat = s.seat := by
  simp [State.purge]

@[simp] theorem State.clearCopies_seat (skip : Option Nat) (pa : Nat) (s : State) : (s.clearCopies skip pa).seat = s.seat := by
  refine foldl_keeps State.seat _ (fun u t => ?_) _ s
  split
  · exact u.purge_seat ..
  · rfl

@[simp] theorem State.flushIn_seat (t : Nat) (b : Superblock) (i : Nat) (s : State) : (s.flushIn t b i).seat = s.seat := by
  unfold State.flushIn
  split <;> simp

@[simp] theorem State.flushLine_seat (t pa : Nat) (s : State) : (s.flushLine t pa).seat = s.seat := by
  unfold State.flushLine
  split <;> simp

/-- The valid lines of a superblock flushed. -/
theorem flushLines_seat (t : Nat) (b : Superblock) (is : List Nat) (s : State) :
    (is.foldl (fun s i => if (vget b.lines i).valid then s.flushIn t b i else s) s).seat = s.seat := by
  refine foldl_keeps State.seat _ (fun u i => ?_) is s
  split <;> simp

@[simp] theorem State.evict_seat (t : Nat) (b : Superblock) (s : State) : (s.evict t b).seat = s.seat :=
  flushLines_seat t b _ s

@[simp] theorem State.dropForeign_seat (t : Nat) (s : State) : (s.dropForeign t).seat = s.seat := by
  refine foldl_keeps State.seat _ (fun u b => ?_) _ s
  split
  · rfl
  · exact flushLines_seat t b _ u

@[simp] theorem State.acquire_seat (le : Nat) (sc : Scope) (s : State) : (s.acquire le sc).seat = s.seat := by
  unfold State.acquire
  split <;> simp

@[simp] theorem State.allocate_seat (t : Nat) (asid : BitVec 12) (va pa : Nat) (wr sup : Bool) (s : State) :
    (s.allocate t asid va pa wr sup).seat = s.seat := by
  unfold State.allocate
  extract_lets u ways inSet v
  -- A superblock of an older mapping leaves first, and then the least recently used of a full set.
  have hu : u.seat = s.seat := by
    simp only [u]
    split
    · split <;> simp
    · rfl
  have hv : v.seat = u.seat := by
    simp only [v]
    split
    · rfl
    · split <;> simp
  split
  · simpa using hu
  · simpa using hv.trans hu

@[simp] theorem State.fill_seat (t : Nat) (asid : BitVec 12) (va pa : Nat) (wr sup : Bool) (s : State) :
    (s.fill t asid va pa wr sup).seat = s.seat := by
  unfold State.fill
  extract_lets u v
  -- The copy under another virtual tag goes first.
  have hu : u.seat = s.seat := by
    simp only [u]
    split
    · split <;> simp
    · rfl
  have hv : v.seat = s.seat := (u.allocate_seat ..).trans hu
  split
  · split
    · exact hv
    · rw [State.touch_seat, State.correctLine_seat, hv]
  · exact hv

/-! ### Reads of memory -/

@[simp] theorem State.translate_seat (t va : Nat) (s : State) : (s.translate t va).2.seat = s.seat := by
  unfold State.translate
  dsimp only
  split
  · rfl
  · split <;> simp

@[simp] theorem State.globalTarget_seat (who : Issuer) (reach : Reach) (store : Bool) (ea n : Nat) (s : State) :
    (s.globalTarget who reach store ea n).2.seat = s.seat := by
  have htr := s.translate_seat (s.tileOf who.le) ea
  unfold State.globalTarget
  extract_lets t viaPage
  have hpage : (viaPage ()).2.seat = s.seat := by
    simp only [viaPage, t]
    split
    · next h => rw [h] at htr; exact htr
    · next h =>
      -- Every answer once the translation has been found leaves the state after it.
      rw [h] at htr
      repeat' split
      all_goals exact htr
  split
  · split
    · rfl
    · exact hpage
  · exact hpage

@[simp] theorem State.resolve_seat (who : Issuer) (reach : Reach) (store : Bool) (ea n : Nat) (s : State) :
    (s.resolve who reach store ea n).2.seat = s.seat := by
  unfold State.resolve
  split
  · rfl
  · cases rowOf ea with
    | own | ownHole | apertureHole | unmapped => rfl
    | quad =>
      dsimp only
      split <;> rfl
    | aperture | all =>
      dsimp only
      split <;> rfl
    | global => exact s.globalTarget_seat ..

@[simp] theorem State.winBytes_seat (le tile off n : Nat) (s : State) : (s.winBytes le tile off n).2.seat = s.seat := by
  unfold State.winBytes
  split <;> rfl

@[simp] theorem State.ctlRead_seat (off n : Nat) (s : State) : (s.ctlRead off n).2.seat = s.seat := by
  unfold State.ctlRead
  dsimp only
  split <;> rfl

@[simp] theorem State.loadNow_seat (who : Issuer) (t : Target) (ea n : Nat) (s : State) : (s.loadNow who t ea n).2.seat = s.seat := by
  unfold State.loadNow
  split
  · split <;> rfl
  · exact s.winBytes_seat ..
  · exact s.ctlRead_seat ..
  · extract_lets tile u
    have hu : u.seat = s.seat := by
      simp only [u]
      split <;> simp
    split
    · dsimp only
      split <;> exact hu
    · exact hu

/-! ### Structures (R156) -/

theorem State.resolveStruct_seat (who : Issuer) (ea c n : Nat) (s : State) : (s.resolveStruct who ea c n).2.seat = s.seat := by
  induction n generalizing ea s with
  | zero => rfl
  | succ n ih =>
    have hpiece := s.resolve_seat who .special false ea c
    unfold State.resolveStruct
    split
    · next h => rw [h] at hpiece; exact hpiece
    · next u h =>
      rw [h] at hpiece
      have hrest := ih (ea + c) u
      split
      · next h' => rw [h'] at hrest; exact hrest.trans hpiece
      · exact hrest.trans hpiece

theorem State.loadStruct_seat (who : Issuer) (c : Nat) (ts : List (Nat × Target)) (s : State) : (s.loadStruct who c ts).2.seat = s.seat := by
  induction ts generalizing s with
  | nil => rfl
  | cons t ts ih =>
    have hpiece := s.loadNow_seat who t.2 t.1 c
    unfold State.loadStruct
    split
    · next h => rw [h] at hpiece; exact hpiece
    · next u h =>
      rw [h] at hpiece
      have hrest := ih u
      split
      · next h' => rw [h'] at hrest; exact hrest.trans hpiece
      · exact hrest.trans hpiece

/-- A structure is read without a change of the context or of who issues. -/
theorem State.readStruct_seat (who : Issuer) (ea c n : Nat) (s : State) : (s.readStruct who ea c n).2.seat = s.seat := by
  have hresolve := s.resolveStruct_seat who ea c n
  unfold State.readStruct
  split
  · next h => rw [h] at hresolve; exact hresolve
  · next h => rw [h] at hresolve; exact (State.loadStruct_seat ..).trans hresolve

/-! ### Issue (R340, R352) -/

@[simp] theorem State.countFixes_cur (q n : Nat) (s : State) : (s.countFixes q n).cur = s.cur := by
  unfold State.countFixes
  split <;> rfl

@[simp] theorem State.th_countFixes (q n : Nat) (s : State) : (s.countFixes q n).th = s.th := by
  simp [State.th, State.thOf]

@[simp] theorem State.mended_cur (rds : List (Cls × Opnd)) (s : State) : (s.mended rds).cur = s.cur := by simp [State.mended]

@[simp] theorem State.mended_ctx_flights (rds : List (Cls × Opnd)) (s : State) : (s.mended rds).ctx.flights = s.ctx.flights := by
  simp [State.mended]

theorem State.mended_th (rds : List (Cls × Opnd)) (s : State) :
    (s.mended rds).th = { s.th with badRegs := s.th.badRegs.filter fun r => !(s.th.readsOf rds).contains r } := by
  simp [State.mended]

/-- A read of unread tokens takes them from the issuing set's record, and acquires. -/
theorem State.barRead_seat (rds : List (Cls × Opnd)) (s : State) :
    (s.barRead rds).seat = s.seat ∨ ∃ toks : ThreadSet → List (Bool × RegNo),
      (s.barRead rds).seat = (s.updTh fun t => { t with barTok := toks t }).seat := by
  unfold State.barRead
  dsimp only
  split
  · exact .inl rfl
  · exact .inr ⟨_, State.acquire_seat ..⟩

@[simp] theorem State.issued_cur (rds : List (Cls × Opnd)) (s : State) : (s.issued rds).cur = s.cur := by
  obtain h | ⟨_, h⟩ := (s.mended rds).barRead_seat rds <;> exact (State.cur_of_seat h).trans (s.mended_cur rds)

@[simp] theorem State.issued_ctx_flights (rds : List (Cls × Opnd)) (s : State) : (s.issued rds).ctx.flights = s.ctx.flights := by
  obtain h | ⟨_, h⟩ := (s.mended rds).barRead_seat rds <;>
    exact (congrArg Ctx.flights (State.ctx_of_seat h)).trans (s.mended_ctx_flights rds)

/-- Issue changes nothing of the issuing set but its records of parity errors and of unread tokens. -/
theorem State.issued_th (rds : List (Cls × Opnd)) (s : State) :
    ∃ bad toks, (s.issued rds).th = { s.th with badRegs := bad, barTok := toks } := by
  obtain h | ⟨toks, h⟩ := (s.mended rds).barRead_seat rds
  · exact ⟨_, s.th.barTok, (State.th_of_seat h).trans (s.mended_th rds)⟩
  · exact ⟨_, toks (s.mended rds).th, (State.th_of_seat h).trans (by rw [State.th_updTh, State.mended_th])⟩

@[simp] theorem State.issued_rg (rds : List (Cls × Opnd)) (s : State) (n : RegNo) : (s.issued rds).rg n = s.rg n := by
  obtain ⟨bad, toks, h⟩ := s.issued_th rds
  rw [State.rg, h]; rfl

@[simp] theorem State.issued_inSup (rds : List (Cls × Opnd)) (s : State) : (s.issued rds).th.inSup = s.th.inSup := by
  obtain ⟨bad, toks, h⟩ := s.issued_th rds
  rw [h]; rfl

end Sys2Proof.Machine
end

section
/-! Handler entries, masks and groups (R96, R97, R103, R339, R340, R342), and O49 from them. -/
namespace Sys2Proof.Machine

/-! ### Answers by cases -/

/-- Two choices between answers agree where their conditions and their branches do. -/
theorem answer_congr {p q : Prop} [Decidable p] [Decidable q] {x y x' y' : Host.Outcome State Fault Refusal} (h : p ↔ q) (hx : x = x')
    (hy : y = y') : (if p then x else y) = if q then x' else y' :=
  ite_congr (propext h) (fun _ => hx) fun _ => hy

/-- Two tests in turn with one answer are one test. -/
theorem answer_or {p q : Prop} [Decidable p] [Decidable q] (x y : Host.Outcome State Fault Refusal) :
    (if p then x else if q then x else y) = if p ∨ q then x else y := by
  by_cases hp : p
  · rw [if_pos hp, if_pos (.inl hp)]
  · rw [if_neg hp]
    exact answer_congr (or_iff_right hp).symm rfl rfl

/-! ### What an element and a tile keep -/

theorem Map.find_drop_same {α : Type} (k : Nat) (m : Map α) : Map.find k (Map.drop k m) = none := by
  induction m with
  | nil => rfl
  | cons e m ih =>
    obtain ⟨j, v⟩ := e
    unfold Map.drop at ih ⊢
    by_cases h : j = k <;> simp [h, Map.find, ih]

theorem Map.find_drop_other {α : Type} {k i : Nat} (h : i ≠ k) (m : Map α) : Map.find i (Map.drop k m) = Map.find i m := by
  induction m with
  | nil => rfl
  | cons e m ih =>
    obtain ⟨j, v⟩ := e
    unfold Map.drop at ih ⊢
    by_cases hj : j = k
    · simp [hj, Map.find, ih, Ne.symm h]
    · simp [hj, Map.find, ih]

/-- A change of a thread set keeps the rest of its element. -/
theorem State.el_updThOf (le k : Nat) (f : ThreadSet → ThreadSet) (s : State) (m : Nat) :
    ∃ sets, (s.updThOf le k f).el m = { s.el m with sets := sets } := by
  by_cases h : m = le
  · subst h; exact ⟨_, State.el_updEl_same ..⟩
  · exact ⟨(s.el m).sets, State.el_updEl_other _ _ h⟩

/-- Of the context, a change of an element changes the elements only. -/
theorem State.updEl_ctx_elems (le : Nat) (f : Element → Element) (s : State) (es : Map Element) :
    { (s.updEl le f).ctx with elems := es } = { s.ctx with elems := es } := rfl

theorem State.advance_ctx_elems (s : State) (es : Map Element) : { s.advance.ctx with elems := es } = { s.ctx with elems := es } := rfl

theorem State.el_advance_other (s : State) {m : Nat} (h : m ≠ s.cur.1) : s.advance.el m = s.el m := State.el_updEl_other _ _ h

theorem State.el_advance (s : State) (m : Nat) : ∃ sets, s.advance.el m = { s.el m with sets := sets } := State.el_updThOf ..

@[simp] theorem State.advance_handlers (s : State) (m : Nat) : (s.advance.el m).handlers = (s.el m).handlers := by
  obtain ⟨sets, h⟩ := s.el_advance m
  rw [h]

@[simp] theorem State.advance_mask (s : State) (m : Nat) : (s.advance.el m).mask = (s.el m).mask := by
  obtain ⟨sets, h⟩ := s.el_advance m
  rw [h]

@[simp] theorem State.noteRunnable_seat (le : Nat) (s : State) : (s.noteRunnable le).seat = s.seat := by
  unfold State.noteRunnable
  split <;> rfl

@[simp] theorem State.el_noteRunnable (le : Nat) (s : State) (m : Nat) : (s.noteRunnable le).el m = s.el m :=
  State.el_of_seat (State.noteRunnable_seat ..) m

@[simp] theorem State.noteRunnable_cur (le : Nat) (s : State) : (s.noteRunnable le).cur = s.cur :=
  State.cur_of_seat (State.noteRunnable_seat ..)

theorem State.seat_of_read {who : Issuer} {ea c n : Nat} {u s1 : State} {r : Except (Nat × Nat) (List Byte)}
    (h : u.readStruct who ea c n = (r, s1)) : s1.seat = u.seat := by
  have hseat := u.readStruct_seat who ea c n
  rwa [h] at hseat

/-! ### `hset` (R97) -/

/-- The entry that `hset` puts on channel `ch`: where it binds no address and no task type owns the channel, none. -/
def Element.putEntry (ch : Nat) (h : Handler × Bool) (owner : Option Nat) (e : Element) : Element :=
  if h.1.hpc = 0 && owner.isNone then
    if h.2 then { e.unbind ch with mask := (e.unbind ch).mask ||| ((1 : BitVec 32) <<< ch) } else e.unbind ch
  else e.install ch h.1 h.2

theorem Element.putEntry_of_unbound {h : Handler × Bool} {owner : Option Nat} (hpc : h.1.hpc = 0) (ho : owner = none) (ch : Nat) (e : Element) :
    e.putEntry ch h owner =
      if h.2 then { e.unbind ch with mask := (e.unbind ch).mask ||| ((1 : BitVec 32) <<< ch) } else e.unbind ch := by
  simp [Element.putEntry, hpc, ho]

theorem Element.putEntry_of_bound {h : Handler × Bool} {owner : Option Nat} (hb : h.1.hpc ≠ 0 ∨ owner.isSome) (ch : Nat) (e : Element) :
    e.putEntry ch h owner = e.install ch h.1 h.2 := by
  refine if_neg ?_
  rw [Bool.and_eq_true, decide_eq_true_eq, Classical.not_and_iff_not_or_not, Bool.not_eq_true, Option.isNone_eq_false_iff]
  exact hb

/-- Why `hset` refuses an entry for a channel whose entry is `old`: one of the two is stateful, or no task type owns the channel and the entry names a
region. -/
def hsetRefuses (old : Option Handler) (h : Handler) : Bool :=
  old.any (·.stateful) || h.stateful || ((old.bind (·.owner)).isNone && h.hpc != 0 && h.rid != 255)

/-- Both ways the channel's entry is the new one, or none where that binds no address. -/
theorem Element.find_putEntry_same (ch : Nat) (h : Handler × Bool) (owner : Option Nat) (e : Element) :
    Map.find ch (e.putEntry ch h owner).handlers = if h.1.hpc = 0 ∧ owner = none then none else some h.1 := by
  by_cases hc : h.1.hpc = 0 ∧ owner = none
  · rw [if_pos hc, Element.putEntry_of_unbound hc.1 hc.2]
    split <;> exact Map.find_drop_same ..
  · rw [if_neg hc, Element.putEntry_of_bound ((Classical.not_and_iff_not_or_not.1 hc).imp_right Option.isSome_iff_ne_none.2)]
    exact Map.find_set_same ..

theorem Element.find_putEntry_other {ch c : Nat} (hc : c ≠ ch) (h : Handler × Bool) (owner : Option Nat) (e : Element) :
    Map.find c (e.putEntry ch h owner).handlers = Map.find c e.handlers := by
  unfold Element.putEntry
  split
  · split <;> exact Map.find_drop_other hc _
  · exact Map.find_set_other hc ..

theorem Element.mask_putEntry (ch : Nat) (h : Handler × Bool) (owner : Option Nat) (e : Element) :
    (e.putEntry ch h owner).mask = if h.2 then e.mask ||| ((1 : BitVec 32) <<< ch) else e.mask &&& ~~~((1 : BitVec 32) <<< ch) := by
  unfold Element.putEntry
  split
  · split
    · show e.mask &&& ~~~((1 : BitVec 32) <<< ch) ||| ((1 : BitVec 32) <<< ch) = _
      ext i
      simp
      grind
    · rfl
  · rfl

theorem Element.mask_putEntry_same {ch : Nat} (hch : ch < 32) (h : Handler × Bool) (owner : Option Nat) (e : Element) :
    (e.putEntry ch h owner).mask.getLsbD ch = h.2 := by
  rw [Element.mask_putEntry]
  split <;> simp_all

theorem Element.mask_putEntry_other {ch c : Nat} (hc : c ≠ ch) (h : Handler × Bool) (owner : Option Nat) (e : Element) :
    (e.putEntry ch h owner).mask.getLsbD c = e.mask.getLsbD c := by
  have hbit : ((1 : BitVec 32) <<< ch).getLsbD c = false := by
    simp
    omega
  rw [Element.mask_putEntry]
  split
  · rw [BitVec.getLsbD_or, hbit, Bool.or_false]
  · rw [BitVec.getLsbD_and, BitVec.getLsbD_not, hbit, Bool.not_false, Bool.and_true, Bool.and_eq_left_iff_imp]
    exact fun h => decide_eq_true (BitVec.lt_of_getLsbD h)

theorem Element.bound_putEntry (ch : Nat) (h : Handler × Bool) (owner : Option Nat) (e : Element) :
    (e.putEntry ch h owner).bound ch = (h.1.hpc != 0) := by
  unfold Element.bound
  rw [Element.find_putEntry_same]
  split
  · next hc => simp_all
  · next x hx => simp_all

theorem exec_hset_user {a b : RegNo} {s : State} (hs : s.th.inSup = false) : exec (.hset a b) s = s.trap 0x12 (instrVal (.hset a b)) :=
  if_pos (by simp [hs])

section
variable {a b : RegNo} {s u s1 : State} (hu : s.issued [(.g, .reg a), (.g, .reg b)] = u) (hs : s.th.inSup = true)
  (hr : s.readyFor [(.g, .reg a), (.g, .reg b)] [] = true)
include hu hs hr

theorem exec_hset_misaligned (hal : (s.rg b).toNat % 32 ≠ 0) : exec (.hset a b) s = u.trap 0x04 (s.rg b) := by
  subst hu
  show execHset a b s = _
  simp [execHset, hs, withIssue_of_readyFor hr, hal]

variable (hal : (s.rg b).toNat % 32 = 0) (hbe : u.structBehind (s.rg b).toNat 32 = false)
include hal hbe

theorem exec_hset_unreadable {c addr : Nat} (hread : u.readStruct (u.issuer 0) (s.rg b).toNat 8 4 = (.error (c, addr), s1)) :
    exec (.hset a b) s = s1.trap c (if c = 0x07 then s.rg a else BitVec.ofNat 64 addr) := by
  have hrg : s1.rg a = s.rg a := (State.rg_of_seat (State.seat_of_read hread) a).trans (by rw [← hu, State.issued_rg])
  subst hu
  show execHset a b s = _
  simp only [execHset, hs, withIssue_of_readyFor hr, State.issued_rg, hal, hbe, hread, hrg]
  by_cases hc : c = 0x07
  · simp [hc]
  · simp [hc, State.memTrap]

variable {bs : List Byte} (hread : u.readStruct (u.issuer 0) (s.rg b).toNat 8 4 = (.ok bs, s1))
include hread

theorem exec_hset_read :
    let old := Map.find (s.rg a).toNat (s1.el s.cur.1).handlers
    let h := handlerOf bs (old.bind (·.owner))
    exec (.hset a b) s =
      if (s.rg a).toNat < 1 ∨ 29 < (s.rg a).toNat ∨ badEntry bs = true then s1.trap 0x07 (s.rg a)
      else if hsetRefuses old h.1 = true then s1.trap 0x07 (s.rg a)
      else .next ((s1.noteRunnable s.cur.1).updEl s.cur.1 (·.putEntry (s.rg a).toNat h (old.bind (·.owner)))).advance := by
  have hrg : s1.rg a = s.rg a := (State.rg_of_seat (State.seat_of_read hread) a).trans (by rw [← hu, State.issued_rg])
  subst hu
  intro old h
  show execHset a b s = _
  simp only [execHset, hs, withIssue_of_readyFor hr, State.issued_rg, State.issued_cur, hal, hbe, hread, hrg, Bool.not_true, Bool.false_eq_true,
    ne_eq, not_true_eq_false, if_false]
  refine answer_congr (by simp [or_assoc]) rfl ?_
  rw [answer_or]
  refine answer_congr ?_ rfl rfl
  simp only [h, old, hsetRefuses]
  cases Map.find (s.rg a).toNat (s1.el s.cur.1).handlers with
  | none => simp
  | some o => simp [or_assoc, and_assoc]

theorem exec_hset_malformed (hbad : (s.rg a).toNat < 1 ∨ 29 < (s.rg a).toNat ∨ badEntry bs = true) :
    exec (.hset a b) s = s1.trap 0x07 (s.rg a) :=
  (exec_hset_read hu hs hr hal hbe hread).trans (if_pos hbad)

variable (h1 : 1 ≤ (s.rg a).toNat) (h29 : (s.rg a).toNat ≤ 29) (hgood : badEntry bs = false)
include h1 h29 hgood

theorem exec_hset_wellFormed :
    let old := Map.find (s.rg a).toNat (s1.el s.cur.1).handlers
    let h := handlerOf bs (old.bind (·.owner))
    (hsetRefuses old h.1 = true → exec (.hset a b) s = s1.trap 0x07 (s.rg a)) ∧
    (hsetRefuses old h.1 = false → exec (.hset a b) s =
      .next ((s1.noteRunnable s.cur.1).updEl s.cur.1 (·.putEntry (s.rg a).toNat h (old.bind (·.owner)))).advance) := by
  have hok : ¬ ((s.rg a).toNat < 1 ∨ 29 < (s.rg a).toNat ∨ badEntry bs = true) := by
    simp [hgood]; omega
  intro old h
  have hread' := (exec_hset_read hu hs hr hal hbe hread).trans (if_neg hok)
  exact ⟨fun hf => hread'.trans (if_pos hf), fun hf => hread'.trans (if_neg (by simp [h, old, hf]))⟩

theorem exec_hset_owned {old : Handler} {id : Nat} (hold : Map.find (s.rg a).toNat (s1.el s.cur.1).handlers = some old)
    (hid : old.owner = some id) (holdState : old.stateful = false) (hnewState : (handlerOf bs (some id)).1.stateful = false) :
    exec (.hset a b) s = .next ((s1.noteRunnable s.cur.1).updEl s.cur.1 (fun e =>
      e.install (s.rg a).toNat (handlerOf bs (some id)).1 (handlerOf bs (some id)).2)).advance := by
  have hput := (exec_hset_wellFormed hu hs hr hal hbe hread h1 h29 hgood).2
  rw [hold, Option.bind_some, hid] at hput
  rw [hput (by simp [hsetRefuses, holdState, hnewState, hid])]
  simp only [Element.putEntry_of_bound (owner := some id) (.inr rfl)]

end

/-! ### Tokens (R151) -/

@[simp] theorem State.mark_ctx_flights (key : RegKey) (id : Nat) (s : State) : (s.mark key id).ctx.flights = s.ctx.flights := by
  unfold State.mark
  split <;> rfl

@[simp] theorem State.mark_mem (key : RegKey) (id : Nat) (s : State) : (s.mark key id).mem = s.mem := by
  unfold State.mark
  split <;> rfl

@[simp] theorem State.mark_cur (key : RegKey) (id : Nat) (s : State) : (s.mark key id).cur = s.cur := by
  unfold State.mark
  split <;> rfl

/-- A mark changes nothing of the issuing set but what is pending. -/
theorem State.mark_th (key : RegKey) (id : Nat) (s : State) : ∃ p, (s.mark key id).th = { s.th with pending := p } := by
  unfold State.mark
  split
  · exact ⟨s.th.pending, rfl⟩
  · exact ⟨_, State.th_updTh ..⟩

@[simp] theorem State.mark_inSup (key : RegKey) (id : Nat) (s : State) : (s.mark key id).th.inSup = s.th.inSup := by
  obtain ⟨p, h⟩ := s.mark_th key id
  rw [h]; rfl

@[simp] theorem State.mark_barTok (key : RegKey) (id : Nat) (s : State) : (s.mark key id).th.barTok = s.th.barTok := by
  obtain ⟨p, h⟩ := s.mark_th key id
  rw [h]

/-- A register marked waits for its operation. -/
theorem State.awaits_mark (d : RegNo) (id : Nat) (s : State) : (s.mark (.g d) id).awaits d id = true := by
  unfold State.awaits
  by_cases hd : d = 0
  · simp [hd]
  · have hg : RegKey.g d ≠ .g 0 := fun h => hd (RegKey.g.inj h)
    rw [State.mark, if_neg hg, State.th_updTh]
    simp [RegKey.inBank, ThreadSet.inSup]

@[simp] theorem State.awaits_advance (d : RegNo) (id : Nat) (s : State) : s.advance.awaits d id = s.awaits d id := by
  simp [State.awaits, ThreadSet.inSup]

/-! ### Barriers (R339, R340) -/

/-- The issuing set once its arrival has left: its activation counts the arrival unless that is a lone one, and `g[d]` is an unread token. -/
def ThreadSet.arrived (d : RegNo) (lone : Bool) (t : ThreadSet) : ThreadSet :=
  { t with
    act := t.act.map (fun a => if lone then a else { a with gbars := a.gbars + 1 })
    barTok := if d = 0 || t.barTok.contains (t.inSup, d) then t.barTok else t.barTok ++ [(t.inSup, d)] }

theorem ThreadSet.arrived_unread {d : RegNo} (hd : d ≠ 0) (lone : Bool) (t : ThreadSet) :
    (t.arrived d lone).barTok.contains (t.inSup, d) = true := by
  unfold ThreadSet.arrived
  dsimp only
  split
  · next h => exact (Bool.or_eq_true_iff.1 h).resolve_left fun h0 => hd (of_decide_eq_true h0)
  · simp

section
variable {d a : RegNo} {s u : State} (hu : s.issued [(.g, .reg a)] = u) (hr : s.readyFor [(.g, .reg a)] [(.g, .reg d)] = true)
include hu hr

theorem exec_gbar_badGroup (hg : 255 < (s.rg a).toNat) : exec (.gbar d a) s = u.trap 0x07 (s.rg a) := by
  subst hu
  show execGbar d a s = _
  simp [execGbar, withIssue_of_readyFor hr, hg]

theorem exec_gbar (hg : (s.rg a).toNat ≤ 255) :
    let act := u.act.getD Act.idle
    let lone := u.th.inSup || act.kind == .spawn
    exec (.gbar d a) s = .next ((((u.newId.2.launchFlight
      (.bar (u.newId.2.issuer u.nextId) (s.rg a).toNat lone act.stamp act.gbars)).updTh (·.arrived d lone)).mark (.g d) u.nextId).advance) := by
  subst hu
  show execGbar d a s = _
  rw [execGbar, withIssue_of_readyFor hr, if_neg (by simpa using hg), State.issued_rg]
  rfl

/-- The arrival leaves, and `g[d]` waits for the round as an unread token. -/
theorem exec_gbar_departs (hg : (s.rg a).toNat ≤ 255) :
    let act := u.act.getD Act.idle
    ∃ t, exec (.gbar d a) s = .next t ∧
      t.ctx.flights = s.ctx.flights ++ [(u.nextId + 1, .bar (u.newId.2.issuer u.nextId) (s.rg a).toNat
        (u.th.inSup || act.kind == .spawn) act.stamp act.gbars)] ∧
      t.awaits d u.nextId = true ∧ (d ≠ 0 → t.th.barTok.contains (s.th.inSup, d) = true) ∧ t.mem = u.mem := by
  refine ⟨_, exec_gbar hu hr hg, ?flights, ?awaits, ?unread, ?mem⟩
  case flights =>
    subst hu
    simp [State.advance, State.launchFlight, State.newId]
  case awaits => rw [State.awaits_advance, State.awaits_mark]
  case unread =>
    intro hd
    rw [State.th_advance, ThreadSet.advance_barTok, State.mark_barTok, State.th_updTh, ← s.issued_inSup [(.g, .reg a)], hu]
    exact ThreadSet.arrived_unread hd ..
  case mem => simp [State.advance]

end

/-- What the engine has counted of a member after it counts what `c` says. -/
@[simp] theorem GroupEngine.countOf_set (e : GroupEngine) (le : Nat) (c : Counted) :
    ({ e with counted := Map.set le c e.counted } : GroupEngine).countOf le = c := Map.get_set_same ..

/-- A lone arrival always counts. -/
theorem GroupEngine.arrive_lone (e : GroupEngine) (le stamp index : Nat) :
    e.arrive le true stamp index = ((e.countOf le).rounds + 1,
      { e with counted := Map.set le { e.countOf le with rounds := (e.countOf le).rounds + 1 } e.counted }) := rfl

theorem GroupEngine.find_seen_of_new {e : GroupEngine} {le stamp index : Nat} (h : ∀ r, ((stamp, index), r) ∉ (e.countOf le).seen) :
    (e.countOf le).seen.find? (fun x => x.1 == (stamp, index)) = none := by
  rw [List.find?_eq_none]
  rintro ⟨k, r⟩ hx hk
  exact h r (beq_iff_eq.1 hk ▸ hx)

/-- A first arrival counts, and is remembered with its round. -/
theorem GroupEngine.arrive_new {e : GroupEngine} {le stamp index : Nat} (h : ∀ r, ((stamp, index), r) ∉ (e.countOf le).seen) :
    e.arrive le false stamp index = ((e.countOf le).rounds + 1, { e with counted := Map.set le ⟨(e.countOf le).rounds + 1,
      (e.countOf le).seen ++ [((stamp, index), (e.countOf le).rounds + 1)]⟩ e.counted }) := by
  simp [GroupEngine.arrive, GroupEngine.find_seen_of_new h]

/-- The round of the arrival `(stamp, index)` is on record. -/
def GroupEngine.remembers (e : GroupEngine) (le stamp index round : Nat) : Prop :=
  (e.countOf le).seen.find? (fun x => x.1 == (stamp, index)) = some ((stamp, index), round)

/-- A replayed arrival joins its old round. -/
theorem GroupEngine.arrive_replay {e : GroupEngine} {le stamp index round : Nat} (h : e.remembers le stamp index round) :
    e.arrive le false stamp index = (round, e) := by
  unfold GroupEngine.remembers at h
  simp [GroupEngine.arrive, h]

theorem GroupEngine.remembers_arrive_new {e : GroupEngine} {le stamp index : Nat} (h : ∀ r, ((stamp, index), r) ∉ (e.countOf le).seen) :
    (e.arrive le false stamp index).2.remembers le stamp index ((e.countOf le).rounds + 1) := by
  rw [GroupEngine.arrive_new h, GroupEngine.remembers, GroupEngine.countOf_set, List.find?_append, GroupEngine.find_seen_of_new h]
  simp

/-- An arrival only adds to what is on record of its member. -/
theorem GroupEngine.seen_arrive (e : GroupEngine) (le : Nat) (lone : Bool) (st ix : Nat) :
    ∃ more, ((e.arrive le lone st ix).2.countOf le).seen = (e.countOf le).seen ++ more := by
  unfold GroupEngine.arrive
  dsimp only
  split
  · exact ⟨[], by rw [GroupEngine.countOf_set, List.append_nil]⟩
  · split
    · exact ⟨[], (List.append_nil _).symm⟩
    · exact ⟨_, by rw [GroupEngine.countOf_set]⟩

theorem GroupEngine.remembers_arrive {e : GroupEngine} {le stamp index round : Nat} (h : e.remembers le stamp index round) (lone : Bool)
    (st ix : Nat) : (e.arrive le lone st ix).2.remembers le stamp index round := by
  obtain ⟨more, hseen⟩ := e.seen_arrive le lone st ix
  rw [GroupEngine.remembers, hseen, List.find?_append, h]
  rfl

/-- Once counted, an arrival of an activation has its round, also after another arrival. -/
theorem GroupEngine.arrive_counts {e : GroupEngine} {le stamp index : Nat} (h : ∀ r, ((stamp, index), r) ∉ (e.countOf le).seen) :
    let n := (e.countOf le).rounds + 1
    (e.arrive le false stamp index).1 = n ∧ ((e.arrive le false stamp index).2.countOf le).rounds = n ∧
      (e.arrive le false stamp index).2.arrive le false stamp index = (n, (e.arrive le false stamp index).2) ∧
      ∀ lone st ix, ((((e.arrive le false stamp index).2.arrive le lone st ix).2).arrive le false stamp index).1 = n := by
  have hseen := GroupEngine.remembers_arrive_new h
  refine ⟨by rw [GroupEngine.arrive_new h], by rw [GroupEngine.arrive_new h, GroupEngine.countOf_set], GroupEngine.arrive_replay hseen,
    fun lone st ix => ?_⟩
  rw [GroupEngine.arrive_replay (GroupEngine.remembers_arrive hseen lone st ix)]

/-- The engine of a group takes in an arrival once the set's earlier operations have completed. -/
theorem exec_gbarArrival {k g stamp index : Nat} {lone : Bool} {who : Issuer} {s : State} (hf : s.flight k = some (.bar who g lone stamp index))
    (hs : s.ctx.stopped = false) (hb : s.busyBefore who.le who.set who.id = false) :
    let r := ((s.dropFlight k).release who.le .dv).membersSeen g
    ((r.members g).contains who.le = false → exec (.gbarArrival k) s = .next (r.token who (tokErr 0x26))) ∧
    ((r.members g).contains who.le = true → exec (.gbarArrival k) s = .next (
      let c := (r.engine g).arrive who.le lone stamp index
      (r.setEngine g { c.2 with waiting := c.2.waiting ++ [(who, c.1)] }).closeRounds g (r.members g))) := by
  intro r
  have hrun : exec (.gbarArrival k) s = execGbarArrival k s := rfl
  rw [hrun, execGbarArrival, hf]
  dsimp only
  rw [hs, hb]
  exact ⟨fun hm => if_pos (congrArg not hm), fun hm => if_neg (Bool.not_eq_true _ ▸ congrArg not hm)⟩

/-! ### Settling O49 -/

@[simp] theorem State.groupsSeen_seat (s : State) : s.groupsSeen.seat = s.seat := by
  obtain ⟨l, c, h⟩ := s.groupsSeen_only
  rw [h]; rfl

/-- What stands after `hset` has put an entry on channel `ch`, below 32, of the issuing element: the entry, its mask bit, and all else as it was
when the entry had been read. -/
theorem putEntry_frame {s1 : State} {le ch : Nat} (hcur : s1.cur.1 = le) (hch : ch < 32) (h : Handler × Bool) (owner : Option Nat) :
    let t := ((s1.noteRunnable le).updEl le (·.putEntry ch h owner)).advance
    (t.el le).bound ch = (h.1.hpc != 0) ∧ (h.1.hpc ≠ 0 → Map.find ch (t.el le).handlers = some h.1) ∧ (t.el le).mask.getLsbD ch = h.2 ∧
      (∀ c, c ≠ ch → Map.find c (t.el le).handlers = Map.find c (s1.el le).handlers ∧
        (t.el le).mask.getLsbD c = (s1.el le).mask.getLsbD c) ∧
      (∀ k, k ≠ le → t.el k = s1.el k) ∧ { t.ctx with elems := s1.ctx.elems } = s1.ctx ∧ t.mem = s1.mem := by
  intro t
  have hhandlers : (t.el le).handlers = ((s1.el le).putEntry ch h owner).handlers := by simp [t]
  have hmask : (t.el le).mask = ((s1.el le).putEntry ch h owner).mask := by simp [t]
  have hother : ∀ k, k ≠ le → t.el k = s1.el k := by
    intro k hk
    have hissuer : k ≠ ((s1.noteRunnable le).updEl le (·.putEntry ch h owner)).cur.1 := by simpa [hcur] using hk
    rw [State.el_advance_other _ hissuer, State.el_updEl_other _ _ hk, State.el_noteRunnable]
  have hctx : { t.ctx with elems := s1.ctx.elems } = s1.ctx := by
    simp only [t, State.advance_ctx_elems, State.updEl_ctx_elems, State.ctx_of_seat (s1.noteRunnable_seat le)]
  refine ⟨?_, fun hpc => ?_, ?_, fun c hc => ⟨?_, ?_⟩, hother, hctx, ?_⟩
  · rw [Element.bound, hhandlers]
    exact Element.bound_putEntry ..
  · rw [hhandlers, Element.find_putEntry_same, if_neg fun hc => hpc hc.1]
  · rw [hmask, Element.mask_putEntry_same hch]
  · rw [hhandlers, Element.find_putEntry_other hc]
  · rw [hmask, Element.mask_putEntry_other hc]
  · simp [t, State.advance]

/-- Settles O49: one equation for each way `hset` can end, the frame of an entry put, and the engine's record of arrivals. -/
theorem handlersMasksAndGroups : Obligations.HandlersMasksAndGroups := by
  unfold Obligations.HandlersMasksAndGroups
  refine ⟨fun a b s => exec_hset_user,
    fun a b s hs hr => ⟨exec_hset_misaligned rfl hs hr, fun c addr s1 hal hbe => exec_hset_unreadable rfl hs hr hal hbe⟩,
    fun a b s s1 bs hs hr hal => ?hset, fun d a b s hr => ?hmask, fun d a s hr => ⟨exec_gbar_badGroup rfl hr, exec_gbar_departs rfl hr⟩,
    fun k g stamp index lone who s => exec_gbarArrival,
    fun e le stamp index => ⟨GroupEngine.arrive_counts, rfl, by rw [GroupEngine.arrive_lone, GroupEngine.countOf_set]⟩, fun d i s hr => ?gid⟩
  case hset =>
    intro u ch hbe hread
    have hcur : s1.cur = s.cur := (State.cur_of_seat (State.seat_of_read hread)).trans (s.issued_cur _)
    refine ⟨exec_hset_malformed rfl hs hr hal hbe hread, fun old id h1 h29 hgood hold hid holdState hnewState => ?_, fun h1 h29 hgood => ?_⟩
    · rw [hcur]
      exact exec_hset_owned rfl hs hr hal hbe hread h1 h29 hgood hold hid holdState hnewState
    obtain ⟨hrefused, hput⟩ := exec_hset_wellFormed rfl hs hr hal hbe hread h1 h29 hgood
    rw [← s.issued_cur [(.g, .reg a), (.g, .reg b)]] at hrefused hput hcur
    exact ⟨hrefused, fun hf => ⟨_, hput hf, putEntry_frame (congrArg Prod.fst hcur) (Nat.lt_of_le_of_lt h29 (by decide)) ..⟩⟩
  case hmask => exact withIssue_of_readyFor hr
  case gid =>
    have hcur : (s.issued []).groupsSeen.cur = s.cur := (State.cur_of_seat (State.groupsSeen_seat _)).trans (s.issued_cur [])
    refine (withIssue_of_readyFor hr).trans ?_
    dsimp only
    rw [hcur]
    rfl

end Sys2Proof.Machine
end

section
/-! Stage instructions and the steps of a clone or merge (R99, R325, R326, R331, R332, R334 to R338), and O50 from them. -/
namespace Sys2Proof.Machine

/-! ### `stg` (R99) -/

/-- The handler entry without its stage. -/
def Handler.unstaged (h : Handler) : Handler := { h with stateful := false, spc := 0, mpc := 0, key := 0, hiw := 0, low := 0 }

/-- The handler entry with the stage that a record describes. -/
def Handler.staged (bs : List Byte) (h : Handler) : Handler :=
  { h with
    stateful := true, spc := BitVec.ofNat 64 (leNat (bs.take 8)), mpc := BitVec.ofNat 64 (leNat ((bs.drop 8).take 8))
    key := (bs.getD 16 0).toNat, hiw := (bs.getD 17 0).toNat, low := (bs.getD 18 0).toNat }

/-- The element with the stage on `ch` withdrawn. -/
def Element.withdrawStage (ch : Nat) (h : Handler) (e : Element) : Element :=
  { e with
    handlers := Map.set ch h.unstaged e.handlers
    stages := if h.stateful then Map.drop ch e.stages else e.stages }

/-- The stage that `stg` installs in the place of `old`: with the table of the stage replaced, or else one of the home alone. -/
def Stage.anew (le : Nat) (h : Handler) (old : Option Stage) : Stage :=
  let st := old.getD ⟨[], 0, none, none, 0, [], none⟩
  { st with overloads := 0, krt := if h.stateful then st.krt else [⟨0, le, 0⟩] }

/-- The element with a stage on `ch` installed. -/
def Element.putStage (le ch : Nat) (bs : List Byte) (h : Handler) (old : Option Stage) (e : Element) : Element :=
  { e with
    handlers := Map.set ch (h.staged bs) e.handlers
    stages := Map.set ch (Stage.anew le h old) e.stages }

/-- The stage on `ch` may not be replaced: it has a twin or an operation in progress. -/
def State.stageHeld (s : State) (le ch : Nat) (h : Handler) : Prop :=
  h.stateful = true ∧ ∃ st, s.stage le ch = some st ∧ (st.hasTwin le = true ∨ st.op.isSome = true)

/-- The element has its four stateful channels, of which `h` is none. -/
def State.stagesFull (s : State) (le : Nat) (h : Handler) : Prop :=
  h.stateful = false ∧ 4 ≤ ((s.el le).handlers.filter (fun x => x.2.stateful)).length

section
variable {a b : RegNo} {s u s1 : State} (hu : s.issued [(.g, .reg a), (.g, .reg b)] = u)
  (hr : s.readyFor [(.g, .reg a), (.g, .reg b)] [] = true)
include hu hr

theorem exec_stg_misaligned (hal : (s.rg b).toNat % 32 ≠ 0) : exec (.stg a b) s = u.trap 0x04 (s.rg b) := by
  subst hu
  show execStg a b s = _
  simp [execStg, withIssue_of_readyFor hr, hal]

variable (hal : (s.rg b).toNat % 32 = 0) (hbe : u.structBehind (s.rg b).toNat 32 = false)
include hal hbe

theorem exec_stg_unreadable {c addr : Nat} (hread : u.readStruct (u.issuer 0) (s.rg b).toNat 8 4 = (.error (c, addr), s1)) :
    exec (.stg a b) s = s1.trap c (BitVec.ofNat 64 addr) := by
  subst hu
  show execStg a b s = _
  simp [execStg, withIssue_of_readyFor hr, hal, hbe, hread, State.memTrap]

variable {bs : List Byte} (hread : u.readStruct (u.issuer 0) (s.rg b).toNat 8 4 = (.ok bs, s1))
include hread

theorem exec_stg_noEntry (hnone : Map.find (s.rg a).toNat (s1.el s.cur.1).handlers = none) : exec (.stg a b) s = s1.trap 0x07 1 := by
  subst hu
  show execStg a b s = _
  simp [execStg, withIssue_of_readyFor hr, hal, hbe, hread, hnone]

variable {h : Handler} (hfind : Map.find (s.rg a).toNat (s1.el s.cur.1).handlers = some h)
include hfind

theorem exec_stg_notBound (hbad : (s.rg a).toNat < 5 ∨ 29 < (s.rg a).toNat ∨ h.hpc = 0 ∨ h.prio = true) :
    exec (.stg a b) s = s1.trap 0x07 1 := by
  subst hu
  show execStg a b s = _
  simp only [execStg, withIssue_of_readyFor hr, State.issued_rg, State.issued_cur, hal, hbe, hread, hfind, ne_eq, not_true_eq_false,
    Bool.false_eq_true, if_false]
  exact if_pos (by simpa [or_assoc] using hbad)

open Classical in
theorem exec_stg_bound (h5 : 5 ≤ (s.rg a).toNat) (h29 : (s.rg a).toNat ≤ 29) (hpc : h.hpc ≠ 0) (hprio : h.prio = false) :
    exec (.stg a b) s =
      if leNat (bs.take 8) = 0 ∧ leNat ((bs.drop 8).take 8) = 0 then
        if s1.stageHeld s.cur.1 (s.rg a).toNat h then s1.trap 0x07 4
        else .next (s1.updEl s.cur.1 (·.withdrawStage (s.rg a).toNat h)).advance
      else if badStage bs = true then s1.trap 0x07 2
      else if s1.stagesFull s.cur.1 h then s1.trap 0x07 3
      else if s1.stageHeld s.cur.1 (s.rg a).toNat h then s1.trap 0x07 4
      else .next (s1.updEl s.cur.1 (·.putStage s.cur.1 (s.rg a).toNat bs h (s1.stage s.cur.1 (s.rg a).toNat))).advance := by
  subst hu
  show execStg a b s = _
  have hok : ¬ ((s.rg a).toNat < 5 ∨ 29 < (s.rg a).toNat ∨ h.hpc = 0 ∨ h.prio = true) := by
    rintro (hlow | hhigh | hz | hp)
    · omega
    · omega
    · exact hpc hz
    · simp [hprio] at hp
  simp only [execStg, withIssue_of_readyFor hr, State.issued_rg, State.issued_cur, hal, hbe, hread, hfind, ne_eq, not_true_eq_false,
    Bool.false_eq_true, if_false]
  rw [if_neg (by simpa [or_assoc] using hok)]
  refine answer_congr (by simp) (answer_congr ?heldThen rfl rfl) (answer_congr Iff.rfl rfl (answer_congr ?full rfl (answer_congr ?heldElse rfl rfl)))
  case full => simp [State.stagesFull]
  case heldThen | heldElse => cases hst : s1.stage s.cur.1 (s.rg a).toNat <;> simp [State.stageHeld, hst, Stage.twinned]

variable (h5 : 5 ≤ (s.rg a).toNat) (h29 : (s.rg a).toNat ≤ 29) (hpc : h.hpc ≠ 0) (hprio : h.prio = false)
include h5 h29 hpc hprio

theorem exec_stg_withdraws :
    let zero := leNat (bs.take 8) = 0 ∧ leNat ((bs.drop 8).take 8) = 0
    (zero → s1.stageHeld s.cur.1 (s.rg a).toNat h → exec (.stg a b) s = s1.trap 0x07 4) ∧
    (zero → ¬ s1.stageHeld s.cur.1 (s.rg a).toNat h →
      exec (.stg a b) s = .next (s1.updEl s.cur.1 (·.withdrawStage (s.rg a).toNat h)).advance) := by
  intro zero
  rw [exec_stg_bound hu hr hal hbe hread hfind h5 h29 hpc hprio]
  exact ⟨fun hz ht => (if_pos hz).trans (if_pos ht), fun hz ht => (if_pos hz).trans (if_neg ht)⟩

theorem exec_stg_installs :
    let zero := leNat (bs.take 8) = 0 ∧ leNat ((bs.drop 8).take 8) = 0
    (¬ zero → badStage bs = true → exec (.stg a b) s = s1.trap 0x07 2) ∧
    (¬ zero → badStage bs = false → s1.stagesFull s.cur.1 h → exec (.stg a b) s = s1.trap 0x07 3) ∧
    (¬ zero → badStage bs = false → ¬ s1.stagesFull s.cur.1 h → s1.stageHeld s.cur.1 (s.rg a).toNat h →
      exec (.stg a b) s = s1.trap 0x07 4) ∧
    (¬ zero → badStage bs = false → ¬ s1.stagesFull s.cur.1 h → ¬ s1.stageHeld s.cur.1 (s.rg a).toNat h → exec (.stg a b) s =
      .next (s1.updEl s.cur.1 (·.putStage s.cur.1 (s.rg a).toNat bs h (s1.stage s.cur.1 (s.rg a).toNat))).advance) := by
  intro zero
  rw [exec_stg_bound hu hr hal hbe hread hfind h5 h29 hpc hprio]
  refine ⟨fun hz hbad => (if_neg hz).trans (if_pos hbad), fun hz hgood hf => ?_, fun hz hgood hf ht => ?_, fun hz hgood hf ht => ?_⟩
  all_goals rw [if_neg hz, hgood, if_neg Bool.false_ne_true]
  · exact if_pos hf
  · exact (if_neg hf).trans (if_pos ht)
  · exact (if_neg hf).trans (if_neg ht)

end

/-! ### What stands after `stg` -/

@[simp] theorem State.advance_stage (s : State) (le ch : Nat) : s.advance.stage le ch = s.stage le ch := by
  obtain ⟨sets, h⟩ := s.el_advance le
  rw [State.stage, h]; rfl

theorem stageWithdrawn_frame (le ch : Nat) (h : Handler) (s1 : State) :
    let t := (s1.updEl le (·.withdrawStage ch h)).advance
    Map.find ch (t.el le).handlers = some h.unstaged ∧ (h.stateful = true → t.stage le ch = none) ∧
      (h.stateful = false → t.stage le ch = s1.stage le ch) ∧ t.mem = s1.mem := by
  refine ⟨?_, fun hs => ?_, fun hs => ?_, by simp [State.advance]⟩
  · rw [State.advance_handlers, State.el_updEl_same]
    exact Map.find_set_same ..
  · rw [State.advance_stage, State.stage, State.el_updEl_same, Element.withdrawStage, if_pos hs]
    exact Map.find_drop_same ..
  · rw [State.advance_stage, State.stage, State.el_updEl_same, Element.withdrawStage, if_neg (by simp [hs])]
    rfl

theorem stagePut_frame (le ch : Nat) (bs : List Byte) (h : Handler) (s1 : State) :
    let t := (s1.updEl le (·.putStage le ch bs h (s1.stage le ch))).advance
    Map.find ch (t.el le).handlers = some (h.staged bs) ∧
      (∃ st, t.stage le ch = some st ∧ st.overloads = 0 ∧ (h.stateful = false → st.krt = [⟨0, le, 0⟩]) ∧
        (∀ old, h.stateful = true → s1.stage le ch = some old → st.krt = old.krt)) ∧ t.mem = s1.mem := by
  refine ⟨?_, ⟨Stage.anew le h (s1.stage le ch), ?_, rfl, fun hs => ?_, fun old hs hold => ?_⟩, by simp [State.advance]⟩
  · rw [State.advance_handlers, State.el_updEl_same]
    exact Map.find_set_same ..
  · rw [State.advance_stage, State.stage, State.el_updEl_same]
    exact Map.find_set_same ..
  · exact if_neg (by simp [hs])
  · rw [hold]
    exact if_pos hs

/-! ### `clone`, `merge`, `krd` (R335 to R337) -/

section
variable {d a : RegNo} {s u : State} (hr : s.readyFor [(.g, .reg a)] [(.g, .reg d)] = true)
  (hu : ((s.issued [(.g, .reg a)]).newId.2.noteRunnable s.cur.1).mark (.g d) (s.issued [(.g, .reg a)]).nextId = u)
include hr hu

theorem exec_clone_notHome (hhome : u.isHome s.cur.1 (s.rg a).toNat = false) :
    exec (.clone d a) s = .next ((u.token (u.issuer (s.issued [(.g, .reg a)]).nextId) (tokErr 0x38)).advance) := by
  show execClone d a s = _
  simp only [execClone, withIssue_of_readyFor hr, State.issued_rg, State.issued_cur, State.newId_fst, hu]
  exact if_pos (congrArg not hhome)

theorem exec_clone_home {st : Stage} (hhome : u.isHome s.cur.1 (s.rg a).toNat = true) (hst : u.stage s.cur.1 (s.rg a).toNat = some st) :
    let id := (s.issued [(.g, .reg a)]).nextId
    exec (.clone d a) s =
      if st.op.isSome = true then .next ((u.token (u.issuer id) (tokErr 0x39)).advance)
      else if 8 ≤ st.krt.length ∨ widest s.cur.1 st.krt = none then .next ((u.token (u.issuer id) (tokErr 0x3A)).advance)
      else (u.cloneStart s.cur.1 (s.rg a).toNat (some (s.cur.2, id))).elim
        (.next (((u.setStage s.cur.1 (s.rg a).toNat { st with overloads := 0 }).token (u.issuer id) (tokErr 0x3B)).advance))
        (fun v => .next v.advance) := by
  have hcur : u.cur = s.cur := by simp [← hu]
  intro id
  show execClone d a s = _
  simp only [execClone, withIssue_of_readyFor hr, State.issued_rg, State.issued_cur, State.newId_fst, hu, hcur, hhome, hst]
  refine if_neg (by decide) |>.trans (answer_congr Iff.rfl rfl (answer_congr (by simp) rfl ?_))
  cases u.cloneStart s.cur.1 (s.rg a).toNat (some (s.cur.2, id)) <;> rfl

theorem exec_clone_answers {st : Stage} (hhome : u.isHome s.cur.1 (s.rg a).toNat = true) (hst : u.stage s.cur.1 (s.rg a).toNat = some st) :
    let id := (s.issued [(.g, .reg a)]).nextId
    (st.op.isSome = true → exec (.clone d a) s = .next ((u.token (u.issuer id) (tokErr 0x39)).advance)) ∧
    (st.op = none → (8 ≤ st.krt.length ∨ widest s.cur.1 st.krt = none) →
      exec (.clone d a) s = .next ((u.token (u.issuer id) (tokErr 0x3A)).advance)) ∧
    (st.op = none → st.krt.length < 8 → widest s.cur.1 st.krt ≠ none →
      (u.cloneStart s.cur.1 (s.rg a).toNat (some (s.cur.2, id)) = none → exec (.clone d a) s =
        .next (((u.setStage s.cur.1 (s.rg a).toNat { st with overloads := 0 }).token (u.issuer id) (tokErr 0x3B)).advance)) ∧
      (∀ v, u.cloneStart s.cur.1 (s.rg a).toNat (some (s.cur.2, id)) = some v → exec (.clone d a) s = .next v.advance)) := by
  intro id
  rw [exec_clone_home hr hu hhome hst]
  refine ⟨fun hop => if_pos hop, fun hop hlimit => ?_, fun hop hroom hwide => ?_⟩
  · rw [if_neg (by simp [hop]), if_pos hlimit]
  · rw [if_neg (by simp [hop]), if_neg (not_or.2 ⟨Nat.not_le.2 hroom, hwide⟩)]
    exact ⟨fun hfail => by rw [hfail]; rfl, fun v hstart => by rw [hstart]; rfl⟩

end

@[simp] theorem State.updIn_cur (le : Nat) (p : Port) (f : Fifo → Fifo) (s : State) : (s.updIn le p f).cur = s.cur := by
  unfold State.updIn
  split
  · rfl
  · split <;> rfl

/-- A pop leaves who issues alone. -/
@[simp] theorem State.popWord_cur (s : State) (p : Port) : (s.popWord p).2.cur = s.cur := by
  unfold State.popWord State.popPayload State.popFifo
  repeat' split
  all_goals simp

@[simp] theorem State.takeG_cur (s : State) (o : Opnd) : (s.takeG o).2.cur = s.cur := by
  cases o with
  | reg n => rfl
  | port p => exact s.popWord_cur p

section
variable {d a : RegNo} {b : Opnd} {s u : State} {x : Word × State} (hr : s.readyFor [(.g, .reg a), (.g, b)] [(.g, .reg d)] = true)
  (hx : (s.issued [(.g, .reg a), (.g, b)]).takeG b = x) (hu : x.2.newId.2.mark (.g d) x.2.nextId = u)
include hr hx hu

theorem exec_merge_notHome (hhome : u.isHome s.cur.1 (s.rg a).toNat = false) :
    exec (.merge d a b) s = .next ((u.token (u.issuer x.2.nextId) (tokErr 0x38)).advance) := by
  show execMerge d a b s = _
  simp only [execMerge, withIssue_of_readyFor hr, State.issued_rg, State.issued_cur, State.newId_fst, hx, hu]
  exact if_pos (congrArg not hhome)

theorem exec_merge_home {st : Stage} (hhome : u.isHome s.cur.1 (s.rg a).toNat = true) (hst : u.stage s.cur.1 (s.rg a).toNat = some st) :
    exec (.merge d a b) s =
      if st.op.isSome = true then .next ((u.token (u.issuer x.2.nextId) (tokErr 0x39)).advance)
      else if x.1.toNat = s.cur.1 ∨ st.krt.any (fun k => k.own == x.1.toNat) = false then
        .next ((u.token (u.issuer x.2.nextId) (tokErr 0x3D)).advance)
      else .next ((u.mergeStart s.cur.1 (s.rg a).toNat x.1.toNat (some (s.cur.2, x.2.nextId))).advance) := by
  have hcur : u.cur = s.cur := by simp [← hu, ← hx]
  show execMerge d a b s = _
  simp only [execMerge, withIssue_of_readyFor hr, State.issued_rg, State.issued_cur, State.newId_fst, hx, hu, hcur, hhome, hst]
  exact if_neg (by decide) |>.trans (answer_congr Iff.rfl rfl (answer_congr (by simp) rfl rfl))

theorem exec_merge_answers {st : Stage} (hhome : u.isHome s.cur.1 (s.rg a).toNat = true) (hst : u.stage s.cur.1 (s.rg a).toNat = some st) :
    let id := x.2.nextId
    (st.op.isSome = true → exec (.merge d a b) s = .next ((u.token (u.issuer id) (tokErr 0x39)).advance)) ∧
    (st.op = none → (x.1.toNat = s.cur.1 ∨ st.krt.any (fun k => k.own == x.1.toNat) = false) →
      exec (.merge d a b) s = .next ((u.token (u.issuer id) (tokErr 0x3D)).advance)) ∧
    (st.op = none → x.1.toNat ≠ s.cur.1 → st.krt.any (fun k => k.own == x.1.toNat) = true →
      exec (.merge d a b) s = .next ((u.mergeStart s.cur.1 (s.rg a).toNat x.1.toNat (some (s.cur.2, id))).advance)) := by
  intro id
  rw [exec_merge_home hr hx hu hhome hst]
  refine ⟨fun hop => if_pos hop, fun hop hother => ?_, fun hop hne hany => ?_⟩
  · rw [if_neg (by simp [hop]), if_pos hother]
  · rw [if_neg (by simp [hop]), if_neg (not_or.2 ⟨hne, Bool.not_eq_false _ ▸ hany⟩)]

end

section
variable {d : Opnd} {a : RegNo} {i : BitVec 3} {s u : State} (hr : s.readyFor [(.g, .reg a)] [(.g, d)] = true)
  (hu : s.issued [(.g, .reg a)] = u)
include hr hu

theorem exec_krd_notHome (hhome : u.isHome s.cur.1 (s.rg a).toNat = false) : exec (.krd d a i) s = .next ((u.putG d 0).advance) := by
  subst hu
  show execKrd d a i s = _
  simp [execKrd, withIssue_of_readyFor hr, hhome]

theorem exec_krd_home {st : Stage} {k : KrtEntry} (hhome : u.isHome s.cur.1 (s.rg a).toNat = true)
    (hst : u.stage s.cur.1 (s.rg a).toNat = some st) (hk : st.krt[i.toNat]? = some k) :
    exec (.krd d a i) s = .next ((u.putG d k.word).advance) := by
  subst hu
  show execKrd d a i s = _
  simp [execKrd, withIssue_of_readyFor hr, hhome, hst, hk]

end

/-! ### `xst` (R338) -/

/-- The issuing set once its `xst` of number `id` is under way. -/
def ThreadSet.shipping (id : Nat) (t : ThreadSet) : ThreadSet :=
  { t with act := t.act.map (fun a => { a with xst := 1, codelet := id }) }

/-- The command joins the engine of the issuer's tile, and the activation has its `xst` under way. -/
theorem xstQueued_frame {v : State} {act : Act} (ha : v.act = some act) (c : CopyCmd) (id : Nat) :
    let t := ((v.queueCopy c).updTh (·.shipping id)).advance
    (t.tile (t.tileOf t.cur.1)).copies = (v.tile (v.tileOf v.cur.1)).copies ++ [c] ∧ (t.act.getD Act.idle).xst = 1 := by
  intro t
  have hcur : t.cur = v.cur := by simp [t, State.queueCopy]
  have htile : t.tileOf v.cur.1 = v.tileOf v.cur.1 := by simp [t, State.tileOf, State.physOf, State.queueCopy, State.advance]
  have hact : t.act = v.act.map (fun a => { a with xst := 1, codelet := id }) := by
    simp only [t, State.act, State.th_advance, ThreadSet.advance_act, State.th_updTh]
    rfl
  refine ⟨?_, by rw [hact, ha]; rfl⟩
  have htiles : t.tile (v.tileOf v.cur.1) = (v.queueCopy c).tile (v.tileOf v.cur.1) := by simp [t, State.tile, State.advance]
  rw [hcur, htile, htiles, State.queueCopy, State.tile_updTile_same]

/-- In an activation that may ship, and has shipped nothing, `xst` is not refused. -/
theorem xst_allowed {sup : Bool} {act : Act} (hsup : sup = false) (hkind : act.kind = .split ∨ act.kind = .exportState) (hfirst : act.xst = 0) :
    ¬ (sup = true ∨ (act.kind ≠ .split ∧ act.kind ≠ .exportState) ∨ act.xst ≠ 0) := by
  rintro (h | ⟨hsplit, hother⟩ | h)
  · exact Bool.false_ne_true (hsup.symm.trans h)
  · exact hkind.elim hsplit hother
  · exact h hfirst

/-- A set that runs such an activation runs one. -/
theorem State.act_of_kind {v : State} (hkind : (v.act.getD Act.idle).kind = .split ∨ (v.act.getD Act.idle).kind = .exportState) :
    ∃ act, v.act = some act := by
  cases hact : v.act with
  | none =>
    rw [hact] at hkind
    exact absurd hkind (by decide)
  | some act => exact ⟨act, rfl⟩

section
variable {d a : RegNo} {b : Opnd} {s u v : State} {x : Word × State} (hr : s.readyFor [(.g, .reg a), (.g, b)] [(.g, .reg d)] = true)
  (hu : s.issued [(.g, .reg a), (.g, b)] = u) (hx : u.takeG b = x) (hv : x.2.newId.2.mark (.g d) x.2.nextId = v)
  (hroom : u.copyFull = false)
include hr hu hx hv hroom

/-- A set whose engine has room is refused, or its command joins the engine. -/
theorem exec_xst :
    let act := v.act.getD Act.idle
    let fail := fun (code : Nat) => Host.Outcome.next ((v.token (v.issuer x.2.nextId) (tokErr code)).advance)
    exec (.xst d a b) s =
      if v.th.inSup = true ∨ (act.kind ≠ .split ∧ act.kind ≠ .exportState) ∨ act.xst ≠ 0 then fail 0x3E
      else if (s.rg a).toNat % 8 ≠ 0 ∨ x.1.toNat % 8 ≠ 0 then fail 0x04
      else if 0 < x.1.toNat ∧ ((v.allotOf s.cur.1 act.allot).map (·.size)).getD 0 < (s.rg a).toNat + x.1.toNat then fail 0x08
      else .next (((v.queueCopy ⟨v.issuer x.2.nextId, .xst (s.rg a) x.1 act.partner act.stageCh (act.kind == .exportState)⟩).updTh
        (·.shipping x.2.nextId)).advance) := by
  have hrg : u.rg a = s.rg a := by rw [← hu, State.issued_rg]
  have hcur : u.cur = s.cur := by rw [← hu, State.issued_cur]
  intro act fail
  show execXst d a b s = _
  simp only [execXst, withIssue_of_readyFor hr, hu, hroom, hx, State.newId_fst, hv, hrg, hcur]
  refine if_neg (by decide) |>.trans (answer_congr ?_ rfl (answer_congr (by simp) rfl (answer_congr (by simp [act]) rfl rfl)))
  simp [act, or_assoc]

theorem exec_xst_refused (h : v.th.inSup = true ∨ ((v.act.getD Act.idle).kind ≠ .split ∧ (v.act.getD Act.idle).kind ≠ .exportState) ∨
      (v.act.getD Act.idle).xst ≠ 0) :
    exec (.xst d a b) s = .next ((v.token (v.issuer x.2.nextId) (tokErr 0x3E)).advance) :=
  (exec_xst hr hu hx hv hroom).trans (if_pos h)

variable (hsup : v.th.inSup = false) (hkind : (v.act.getD Act.idle).kind = .split ∨ (v.act.getD Act.idle).kind = .exportState)
  (hfirst : (v.act.getD Act.idle).xst = 0)
include hsup hkind hfirst

theorem exec_xst_misaligned (hal : (s.rg a).toNat % 8 ≠ 0 ∨ x.1.toNat % 8 ≠ 0) :
    exec (.xst d a b) s = .next ((v.token (v.issuer x.2.nextId) (tokErr 0x04)).advance) := by
  rw [exec_xst hr hu hx hv hroom, if_neg (xst_allowed hsup hkind hfirst), if_pos hal]

theorem exec_xst_ships (hal : (s.rg a).toNat % 8 = 0) (hlen : x.1.toNat % 8 = 0)
    (hfits : (s.rg a).toNat + x.1.toNat ≤ ((v.allotOf s.cur.1 (v.act.getD Act.idle).allot).map (·.size)).getD 0) :
    let act := v.act.getD Act.idle
    ∃ t, exec (.xst d a b) s = .next t ∧ (∃ c, (t.tile (t.tileOf t.cur.1)).copies = (v.tile (v.tileOf v.cur.1)).copies ++ [c] ∧
      c.kind = .xst (s.rg a) x.1 act.partner act.stageCh (act.kind == .exportState) ∧ c.who.id = x.2.nextId) ∧
      (t.act.getD Act.idle).xst = 1 := by
  obtain ⟨act, hact⟩ := State.act_of_kind hkind
  obtain ⟨hcopies, hxst⟩ := xstQueued_frame hact ⟨v.issuer x.2.nextId, .xst (s.rg a) x.1 (v.act.getD Act.idle).partner
    (v.act.getD Act.idle).stageCh ((v.act.getD Act.idle).kind == .exportState)⟩ x.2.nextId
  refine ⟨_, ?_, ⟨_, hcopies, rfl, rfl⟩, hxst⟩
  rw [exec_xst hr hu hx hv hroom, if_neg (xst_allowed hsup hkind hfirst), if_neg (by simp [hal, hlen]),
    if_neg (by rintro ⟨-, hlong⟩; omega)]

end

/-! ### The device messages (R325, R331, R332) -/

section
variable {le ch : Nat} {s : State} {st : Stage} {o : StageOp}

theorem exec_splitQueue (hst : s.stage le ch = some st) (ho : st.op = some o) (hq : o.queued = false) (hroom : (s.el le).inbFull false = false)
    (hc : o.isClone = true) (hidle : (s.el le).inb.any (fun q => hdrChan q.msg.header == ch && q.taken) = false) :
    exec (.splitQueue le ch) s = .next ((s.setStage le ch { st with op := some { o with queued := true } }).enqueue le
      ⟨mkHeader 0 0 true none le 30 false, [], .split ch o.low o.high o.mid o.partner⟩ false) := by
  show execSplitQueue le ch s = _
  simp only [execSplitQueue, hst, ho, hq, hroom, hc, hidle]
  rfl

theorem exec_mergeImportQueue (hst : s.stage le ch = some st) (ho : st.op = some o) (hq : o.queued = false)
    (hroom : (s.el le).inbFull false = false) (hc : o.isClone = false) (hshipped : o.shipped = true) :
    exec (.mergeImportQueue le ch) s = .next ((s.setStage le ch { st with op := some { o with queued := true } }).enqueue le
      ⟨mkHeader 0 0 true none le 31 false, [], .merge false ch o.low o.high o.partner⟩ false) := by
  show execMergeImportQueue le ch s = _
  simp only [execMergeImportQueue, hst, ho, hq, hroom, hc, hshipped]
  rfl

/-- An empty inbound queue has room. -/
theorem Element.inbFull_of_empty {e : Element} (h : e.inb = []) (pri : Bool) : e.inbFull pri = false := by
  cases pri <;> simp [Element.inbFull, h, Config.inboundPlaces]

theorem exec_mergeExportQueue {home : Nat} {hs : Stage} (hst : s.stage le ch = some st) (htwin : st.twinHome = some home)
    (hhome : s.stage home ch = some hs) (ho : hs.op = some o) (hc : o.isClone = false) (hmark1 : st.markers.any (fun m => m.1) = true)
    (hmark0 : st.markers.any (fun m => !m.1) = true) (hinb : (s.el le).inb = []) :
    exec (.mergeExportQueue le ch) s =
      .next (s.enqueue le ⟨mkHeader 0 0 true none le 31 false, [], .merge true ch o.low o.high home⟩ false) := by
  show execMergeExportQueue le ch s = _
  simp only [execMergeExportQueue, hst, htwin, Option.bind_some, hhome, ho, Option.map_some, hc, hmark1, hmark0, hinb,
    Element.inbFull_of_empty hinb]
  rfl

end

/-! ### Settling O50 -/

/-- Settles O50: one equation for each way a stage instruction can end, and what stands after a stage or a command is put. -/
theorem stagesCloneAndMerge : Obligations.StagesCloneAndMerge := by
  unfold Obligations.StagesCloneAndMerge
  refine ⟨fun a b s hr => ⟨exec_stg_misaligned rfl hr, fun c addr s1 hal hbe => exec_stg_unreadable rfl hr hal hbe,
      fun bs s1 hal hbe => exec_stg_noEntry rfl hr hal hbe⟩, fun a b s s1 bs h hr hal => ?stg, fun d a s hr => ?clone, fun d a b s hr => ?merge,
    fun d a i s hr => ⟨exec_krd_notHome hr rfl, fun st k => exec_krd_home hr rfl⟩, fun d a b s hr => ?xst,
    fun le ch s st o hst ho hq hroom => ⟨exec_splitQueue hst ho hq hroom, exec_mergeImportQueue hst ho hq hroom⟩, fun le ch s => rfl,
    fun le ch home s st hs o => exec_mergeExportQueue⟩
  case stg =>
    intro u ch le hbe hread hfind spc mpc full twin
    refine ⟨exec_stg_notBound rfl hr hal hbe hread hfind, fun h5 h29 hpc hprio => ?_⟩
    obtain ⟨hheld, hwithdraw⟩ := exec_stg_withdraws rfl hr hal hbe hread hfind h5 h29 hpc hprio
    obtain ⟨hbad, hfull, htwin, hinstall⟩ := exec_stg_installs rfl hr hal hbe hread hfind h5 h29 hpc hprio
    exact ⟨hheld, fun hz ht => ⟨_, hwithdraw hz ht, stageWithdrawn_frame le ch h s1⟩, hbad, hfull, htwin,
      fun hz hgood hf ht => ⟨_, hinstall hz hgood hf ht, stagePut_frame le ch bs h s1⟩⟩
  case clone => exact ⟨exec_clone_notHome hr rfl, fun st => exec_clone_answers hr rfl⟩
  case merge => exact ⟨exec_merge_notHome hr rfl rfl, fun st => exec_merge_answers hr rfl rfl⟩
  case xst =>
    intro u x v act hroom fail
    exact ⟨fun hsup => exec_xst_refused hr rfl rfl rfl hroom (.inl hsup),
      fun hs he => exec_xst_refused hr rfl rfl rfl hroom (.inr (.inl ⟨hs, he⟩)),
      fun hx => exec_xst_refused hr rfl rfl rfl hroom (.inr (.inr hx)),
      exec_xst_misaligned hr rfl rfl rfl hroom, exec_xst_ships hr rfl rfl rfl hroom⟩

end Sys2Proof.Machine
end

section
/-! What issue keeps beside the context (R340): it acquires, which moves lines between the tiles and their homes and nothing else. -/
namespace Sys2Proof.Machine

/-! ### Lines that move between tiles and their homes (R138, R312) -/

/-- `t` differs from `s` only in memory, its errors and what the tiles hold. -/
def State.Moves (s t : State) : Prop :=
  ∃ ts m p l, t = { s with tiles := ts, mem := m, poison := p, latent := l }

theorem State.Moves.refl (s : State) : s.Moves s := ⟨_, _, _, _, rfl⟩

theorem State.Moves.trans {s t u : State} (h : s.Moves t) (h' : t.Moves u) : s.Moves u := by
  obtain ⟨_, _, _, _, rfl⟩ := h
  obtain ⟨_, _, _, _, rfl⟩ := h'
  exact ⟨_, _, _, _, rfl⟩

theorem State.Moves.tick {s t : State} (h : s.Moves t) : t.tick = s.tick := by
  obtain ⟨_, _, _, _, rfl⟩ := h
  rfl

/-- A fold of steps that only move lines only moves lines. -/
theorem foldl_moves {α : Type} {f : State → α → State} (hf : ∀ (s : State) (x : α), s.Moves (f s x)) (xs : List α) (s : State) :
    s.Moves (xs.foldl f s) := by
  induction xs generalizing s with
  | nil => exact .refl s
  | cons x xs ih => exact (hf s x).trans (ih _)

theorem State.updTile_moves (t : Nat) (f : Tile → Tile) (s : State) : s.Moves (s.updTile t f) := ⟨_, _, _, _, rfl⟩

theorem State.poke_moves (a : Nat) (bs : List Byte) (s : State) : s.Moves (s.poke a bs) := ⟨_, _, _, _, rfl⟩

theorem writeWord_moves (pa : Nat) (l : Line) (w : Nat) (s : State) : s.Moves (writeWord pa l w s) := by
  unfold writeWord
  extract_lets ks v
  have hv : s.Moves v := by
    simp only [v]
    split
    · exact s.poke_moves ..
    · exact foldl_moves (fun s k => s.poke_moves ..) ks s
  split
  · exact hv.trans ⟨_, _, _, _, rfl⟩
  · exact hv

theorem writeBack_moves (pa : Nat) (l : Line) (s : State) : s.Moves (writeBack pa l s) := by
  unfold writeBack
  split
  · exact foldl_moves (fun s w => writeWord_moves pa l w s) _ s
  · exact .refl s

theorem State.purge_moves (t : Nat) (b : Superblock) (i : Nat) (s : State) : s.Moves (s.purge t b i) := by
  unfold State.purge State.putLine
  exact (writeBack_moves ..).trans (State.updTile_moves ..)

theorem State.clearCopies_moves (skip : Option Nat) (pa : Nat) (s : State) : s.Moves (s.clearCopies skip pa) := by
  refine foldl_moves (fun s t => ?_) _ s
  split
  · exact s.purge_moves ..
  · exact .refl s

theorem State.flushIn_moves (t : Nat) (b : Superblock) (i : Nat) (s : State) : s.Moves (s.flushIn t b i) := by
  refine State.Moves.trans ?_ (State.purge_moves ..)
  split
  · exact s.clearCopies_moves ..
  · exact .refl s

theorem State.dropForeign_moves (t : Nat) (s : State) : s.Moves (s.dropForeign t) := by
  refine foldl_moves (fun s b => ?_) _ s
  split
  · exact .refl s
  · refine foldl_moves (fun s i => ?_) _ s
    split
    · exact s.flushIn_moves ..
    · exact .refl s

theorem State.acquire_moves (le : Nat) (sc : Scope) (s : State) : s.Moves (s.acquire le sc) := by
  unfold State.acquire
  split
  · exact s.dropForeign_moves _
  · exact .refl s

/-! ### Issue (R340, R352) -/

@[simp] theorem State.countFixes_tick (q n : Nat) (s : State) : (s.countFixes q n).tick = s.tick := by
  unfold State.countFixes
  split <;> rfl

@[simp] theorem State.issued_tick (rds : List (Cls × Opnd)) (s : State) : (s.issued rds).tick = s.tick := by
  have hmended : (s.mended rds).tick = s.tick := by simp [State.mended]
  unfold State.issued State.barRead
  dsimp only
  split
  · exact hmended
  · exact (State.acquire_moves ..).tick.trans hmended

@[simp] theorem State.issued_ctx_tiles (rds : List (Cls × Opnd)) (s : State) : (s.issued rds).ctx.tiles = s.ctx.tiles := by
  obtain h | ⟨_, h⟩ := (s.mended rds).barRead_seat rds <;>
    exact (congrArg Ctx.tiles (State.ctx_of_seat h)).trans (s.mended_ctx_tiles rds)

@[simp] theorem State.issued_ctx_moved (rds : List (Cls × Opnd)) (s : State) : (s.issued rds).ctx.moved = s.ctx.moved := by
  obtain h | ⟨_, h⟩ := (s.mended rds).barRead_seat rds <;>
    exact (congrArg Ctx.moved (State.ctx_of_seat h)).trans (s.mended_ctx_moved rds)

@[simp] theorem State.issued_nLe (rds : List (Cls × Opnd)) (s : State) : (s.issued rds).nLe = s.nLe := by
  simp only [State.nLe, State.issued_ctx_tiles]

@[simp] theorem State.issued_physOf (rds : List (Cls × Opnd)) (s : State) (le : Nat) : (s.issued rds).physOf le = s.physOf le := by
  simp only [State.physOf, State.issued_ctx_tiles, State.issued_ctx_moved]

@[simp] theorem State.issued_leAt (rds : List (Cls × Opnd)) (s : State) (p : Nat) : (s.issued rds).leAt p = s.leAt p := by
  simp only [State.leAt, State.issued_ctx_tiles, State.issued_ctx_moved]

theorem State.issued_waiting (rds : List (Cls × Opnd)) (s : State) : (s.issued rds).th.waiting = s.th.waiting := by
  obtain ⟨bad, toks, h⟩ := s.issued_th rds
  rw [h]

theorem State.issued_waited (rds : List (Cls × Opnd)) (s : State) : (s.issued rds).th.waited = s.th.waited := by
  obtain ⟨bad, toks, h⟩ := s.issued_th rds
  rw [h]

end Sys2Proof.Machine
end

section
/-! Spawned threads, counters, port words and waits (R116, R119, R120, R180, R187, R188), and O48 from them. -/
namespace Sys2Proof.Machine

/-! ### `spawn` (R116) -/

/-- A word is a multiple of 4 exactly where its two low bits are clear. -/
theorem setWidth_two_eq_zero {w : Word} : w.setWidth 2 = (0 : BitVec 2) ↔ w.toNat % 4 = 0 := by
  rw [← BitVec.toNat_inj, BitVec.toNat_setWidth]
  exact Iff.rfl

theorem exec_spawn {d b c : RegNo} {a : Opnd} {s u : State} {x : Word × State}
    (hr : s.readyFor ((.g, a) :: (.g, .reg b) :: runUses c 4) [(.g, .reg d)] = true)
    (hu : s.issued ((.g, a) :: (.g, .reg b) :: runUses c 4) = u) (hx : u.takeG a = x) :
    exec (.spawn d a b c) s =
      if (s.rg b).toNat % 4 ≠ 0 then u.trap 0x04 (s.rg b)
      else if u.nLe ≤ x.1.toNat then u.trap 0x07 x.1
      else .next (((x.2.newId.2.launchFlight (.spawnReq (x.2.newId.2.issuer x.2.nextId) x.1.toNat (s.rg b)
        ((List.range 4).map fun k => s.rg (c + BitVec.ofNat 5 k)))).mark (.g d) x.2.nextId).advance) := by
  have hrg (n : RegNo) : u.rg n = s.rg n := by rw [← hu, State.issued_rg]
  show execSpawn d a b c s = _
  simp only [execSpawn, withIssue_of_readyFor hr, hu, hx, hrg, State.runWords, State.newId_fst]
  exact answer_congr (not_congr setWidth_two_eq_zero) rfl rfl

/-! ### The first instruction of an activation (R170) -/

theorem ThreadSet.g_wgIn_user (n : RegNo) (x : Word) (t : ThreadSet) : (t.wgIn false n x).g = if n = 0 then t.g else rset t.g n x := by
  unfold ThreadSet.wgIn
  split <;> rfl

theorem ThreadSet.g_wgIn_user_other {n m : RegNo} (h : m ≠ n) (x : Word) (t : ThreadSet) : rget (t.wgIn false m x).g n = rget t.g n := by
  rw [ThreadSet.g_wgIn_user]
  split
  · rfl
  · exact rget_rset_other _ _ h.symm

theorem ThreadSet.g_foldl_wgIn_other {n : RegNo} {regs : List (RegNo × Word)} (h : ∀ r ∈ regs, r.1 ≠ n) (t : ThreadSet) :
    rget (regs.foldl (fun t r => t.wgIn false r.1 r.2) t).g n = rget t.g n := by
  induction regs generalizing t with
  | nil => rfl
  | cons r regs ih =>
    rw [List.foldl_cons, ih fun q hq => h q (List.mem_cons_of_mem _ hq), ThreadSet.g_wgIn_user_other (h r (List.mem_cons_self ..))]

/-- A register stands as the last of its initial values says. -/
theorem ThreadSet.g_startRegs {n : RegNo} (hn : n ≠ 0) (pre post : List (RegNo × Word)) (h : ∀ r ∈ post, r.1 ≠ n) (x : Word)
    (t : ThreadSet) : rget (t.startRegs (pre ++ (n, x) :: post)).g n = x := by
  unfold ThreadSet.startRegs
  rw [List.foldl_append, List.foldl_cons, ThreadSet.g_foldl_wgIn_other h, ThreadSet.g_wgIn_user, if_neg hn, rget_rset_same]

section
variable (le k : Nat) (a : Act) (pc : Word) (regs : List (RegNo × Word)) (s : State)

@[simp] theorem State.startAct_run : ((s.startAct le k a pc regs).thOf le k).run = .user := by
  unfold State.startAct
  rw [State.thOf_updThOf_same]

@[simp] theorem State.startAct_pc : ((s.startAct le k a pc regs).thOf le k).pc = pc := by
  unfold State.startAct
  rw [State.thOf_updThOf_same]

theorem State.startAct_g : ((s.startAct le k a pc regs).thOf le k).g = ((s.thOf le k).startRegs regs).g := by
  unfold State.startAct
  rw [State.thOf_updThOf_same]

end

/-- An activation runs on the user's bank, so a register but `g0` reads what it starts with. -/
theorem State.rg_startAct {n : RegNo} (hn : n ≠ 0) (pre post : List (RegNo × Word)) (h : ∀ r ∈ post, r.1 ≠ n) (x : Word) (le k : Nat)
    (a : Act) (pc : Word) (s : State) : ((s.startAct le k a pc (pre ++ (n, x) :: post)).thOf le k).rg n = x := by
  rw [ThreadSet.rg, if_neg hn, ThreadSet.bank, if_neg (by rw [ThreadSet.inSup, State.startAct_run]; decide), State.startAct_g,
    ThreadSet.g_startRegs hn pre post h]

/-- A change of an element that keeps its thread sets keeps each of them. -/
theorem State.thOf_updEl_of_sets {le : Nat} {f : Element → Element} (h : ∀ e, (f e).sets = e.sets) (s : State) (m k : Nat) :
    (s.updEl le f).thOf m k = s.thOf m k := by
  unfold State.thOf
  by_cases hm : m = le
  · rw [hm, State.el_updEl_same, h]
  · rw [State.el_updEl_other _ _ hm]

@[simp] theorem State.launchFlight_thOf (f : Flight) (s : State) (le k : Nat) : (s.launchFlight f).thOf le k = s.thOf le k := rfl

/-! ### A spawned thread at its target (R116) -/

/-- What `g1` to `g7` of a spawned thread start with: its arguments, its parent, 0 and its scratch memory. -/
def Allot.spawnRegs (a : Allot) (who : Issuer) (args : List Word) : List (RegNo × Word) :=
  [(1, args.getD 0 0), (2, args.getD 1 0), (3, args.getD 2 0), (4, args.getD 3 0), (5, BitVec.ofNat 64 who.le), (6, 0),
    (7, BitVec.ofNat 64 a.scratch)]

/-- The element with its allotment `id` one that has run an activation. -/
def Element.unfreshen (id : Nat) (e : Element) : Element :=
  { e with allots := e.allots.map fun x => if x.id = id then { x with fresh := false } else x }

/-- The thread of request `who` runs on set `j` of `target`, a set of allotment `a`, which has run something since. -/
def State.spawnOn (target j : Nat) (a : Allot) (who : Issuer) (pc : Word) (args : List Word) (s : State) : State :=
  ((s.noteRunnable target).startAct target j
    { Act.idle with kind := .spawn, allot := a.id, ttype := a.ttype, header := mkHeader 0 0 false none who.le 0 false } pc
    (a.spawnRegs who args)).updEl target (·.unfreshen a.id)

theorem State.rg_startAct_spawnRegs (le k : Nat) (act : Act) (pc : Word) (a : Allot) (who : Issuer) (args : List Word) (s : State) :
    ((s.startAct le k act pc (a.spawnRegs who args)).thOf le k).rg 5 = BitVec.ofNat 64 who.le ∧
      ((s.startAct le k act pc (a.spawnRegs who args)).thOf le k).rg 6 = 0 := by
  have h5 : a.spawnRegs who args = [_, _, _, _] ++ (5, BitVec.ofNat 64 who.le) :: [(6, 0), (7, BitVec.ofNat 64 a.scratch)] := rfl
  have h6 : a.spawnRegs who args = [_, _, _, _, _] ++ (6, 0) :: [(7, BitVec.ofNat 64 a.scratch)] := rfl
  refine ⟨?_, ?_⟩
  · rw [h5, State.rg_startAct (by decide) _ _ (by simp)]
  · rw [h6, State.rg_startAct (by decide) _ _ (by simp)]

theorem State.spawnOn_thOf (target j : Nat) (a : Allot) (who : Issuer) (pc : Word) (args : List Word) (s : State) :
    let t := (s.spawnOn target j a who pc args).thOf target j
    t.run = .user ∧ t.pc = pc ∧ t.rg 5 = BitVec.ofNat 64 who.le ∧ t.rg 6 = 0 := by
  have hkeep : ∀ e, (Element.unfreshen a.id e).sets = e.sets := fun _ => rfl
  intro t
  simp only [t, State.spawnOn, State.thOf_updEl_of_sets hkeep]
  exact ⟨State.startAct_run .., State.startAct_pc .., State.rg_startAct_spawnRegs ..⟩

@[simp] theorem State.noteRunnable_nextId (le : Nat) (s : State) : (s.noteRunnable le).nextId = s.nextId := by
  unfold State.noteRunnable
  split <;> rfl

theorem State.spawnOn_nextId (target j : Nat) (a : Allot) (who : Issuer) (pc : Word) (args : List Word) (s : State) :
    (s.spawnOn target j a who pc args).nextId = s.nextId := State.noteRunnable_nextId ..

theorem State.spawnOn_flights (target j : Nat) (a : Allot) (who : Issuer) (pc : Word) (args : List Word) (s : State) :
    (s.spawnOn target j a who pc args).ctx.flights = s.ctx.flights := by
  have hctx := congrArg Ctx.flights (State.ctx_of_seat (s.noteRunnable_seat target))
  exact hctx

section
variable {k target : Nat} {who : Issuer} {pc : Word} {args : List Word} {s : State} (hf : s.flight k = some (.spawnReq who target pc args))
  (hs : s.ctx.stopped = false)
include hf hs

theorem exec_spawnAtTarget_refused (h : (s.allotOfType target who.ttype).bind (s.freeSetOf target) = none) :
    exec (.spawnAtTarget k) s = .next ((s.dropFlight k).launchFlight (.spawnReply who 0)) := by
  show execSpawnAtTarget k s = _
  have hdrop : (s.dropFlight k).allotOfType target who.ttype = s.allotOfType target who.ttype := rfl
  simp only [execSpawnAtTarget, hf, hs, hdrop]
  cases ha : s.allotOfType target who.ttype with
  | none => rfl
  | some a =>
    have hfree : (s.dropFlight k).freeSetOf target a = none := by rwa [ha] at h
    simp only [hfree]
    rfl

theorem exec_spawnAtTarget {a : Allot} {j : Nat} (ha : s.allotOfType target who.ttype = some a) (hj : s.freeSetOf target a = some j) :
    exec (.spawnAtTarget k) s = .next (((s.dropFlight k).spawnOn target j a who pc args).launchFlight (.spawnReply who 1)) := by
  show execSpawnAtTarget k s = _
  have hallot : (s.dropFlight k).allotOfType target who.ttype = some a := ha
  have hset : (s.dropFlight k).freeSetOf target a = some j := hj
  simp only [execSpawnAtTarget, hf, hs, hallot, hset]
  rfl

/-- The thread runs at its pc with its parent in `g5`, and the answer is on its way. -/
theorem exec_spawnAtTarget_starts {a : Allot} {j : Nat} (ha : s.allotOfType target who.ttype = some a) (hj : s.freeSetOf target a = some j) :
    ∃ t, exec (.spawnAtTarget k) s = .next t ∧ t.ctx.flights = s.ctx.flights.filter (fun e => e.1 != k) ++ [(s.nextId, .spawnReply who 1)] ∧
      (t.thOf target j).run = .user ∧ (t.thOf target j).pc = pc ∧ (t.thOf target j).rg 5 = BitVec.ofNat 64 who.le ∧
      (t.thOf target j).rg 6 = 0 := by
  refine ⟨_, exec_spawnAtTarget hf hs ha hj, ?flights, ?thread⟩
  case flights =>
    rw [State.launchFlight, State.spawnOn_flights, State.spawnOn_nextId]
    rfl
  case thread =>
    rw [State.launchFlight_thOf]
    exact State.spawnOn_thOf ..

end

theorem exec_spawnReply {k : Nat} {who : Issuer} {v : Word} {s : State} (hf : s.flight k = some (.spawnReply who v)) :
    exec (.spawnReply k) s = .next ((s.dropFlight k).token who v) := by
  show execSpawnReply k s = _
  rw [execSpawnReply, hf]

/-! ### `rdec` (R119) -/

/-- The decrement of the counter at `off` in the memory of `owner` has left, and `g[d]` waits for it. -/
def State.sendRdec (d : RegNo) (owner off : Nat) (u : State) : State :=
  ((u.newId.2.launchFlight (.rdec (u.newId.2.issuer u.nextId) owner off)).mark (.g d) u.nextId).advance

section
variable {d a : RegNo} {s u : State} (hr : s.readyFor [(.g, .reg a)] [(.g, .reg d)] = true) (hu : s.issued [(.g, .reg a)] = u)
include hr hu

theorem exec_rdec_misaligned (hal : (s.rg a).toNat % 8 ≠ 0) : exec (.rdec d a) s = u.trap 0x04 (s.rg a) := by
  subst hu
  show execRdec d a s = _
  simp [execRdec, withIssue_of_readyFor hr, hal]

variable (hal : (s.rg a).toNat % 8 = 0) (hroom : u.opsFull s.cur.1 = false)
include hal hroom

/-- An aligned address with room for the operation: where it leads, by the rows of the address map. -/
theorem exec_rdec_aligned :
    let ea := (s.rg a).toNat
    exec (.rdec d a) s =
      if ea < 0x10000 then .next (u.sendRdec d s.cur.1 ea)
      else if ea < 0x50000 then (s.leAt (s.physOf s.cur.1 / 4 * 4 + (ea - 0x10000) / 65536)).elim (u.trap 0x08 (s.rg a))
        fun m => .next (u.sendRdec d m (ea % 65536))
      else if 0x8000000000 ≤ ea ∧ ea < 0x8400000000 then
        if s.nLe ≤ (ea - 0x8000000000) / 65536 then u.trap 0x07 (s.rg a)
        else .next (u.sendRdec d ((ea - 0x8000000000) / 65536) (ea % 65536))
      else u.trap 0x07 (s.rg a) := by
  subst hu
  intro ea
  show execRdec d a s = _
  simp only [execRdec, withIssue_of_readyFor hr, State.issued_rg, State.issued_cur, State.issued_physOf, State.issued_leAt, State.issued_nLe, hal,
    hroom]
  refine if_neg (by simp) |>.trans (if_neg (by simp) |>.trans ?_)
  refine answer_congr Iff.rfl rfl (answer_congr Iff.rfl ?_ (answer_congr (by simp [ea]) rfl rfl))
  cases s.leAt (s.physOf s.cur.1 / 4 * 4 + ((s.rg a).toNat - 0x10000) / 65536) <;> rfl

theorem exec_rdec_own (hea : (s.rg a).toNat < 0x10000) : exec (.rdec d a) s = .next (u.sendRdec d s.cur.1 (s.rg a).toNat) :=
  (exec_rdec_aligned hr hu hal hroom).trans (if_pos hea)

theorem exec_rdec_quad {m : Nat} (hlow : 0x10000 ≤ (s.rg a).toNat) (hhigh : (s.rg a).toNat < 0x50000)
    (hm : s.leAt (s.physOf s.cur.1 / 4 * 4 + ((s.rg a).toNat - 0x10000) / 65536) = some m) :
    exec (.rdec d a) s = .next (u.sendRdec d m ((s.rg a).toNat % 65536)) := by
  rw [exec_rdec_aligned hr hu hal hroom, if_neg (Nat.not_lt.2 hlow), if_pos hhigh, hm]
  rfl

theorem exec_rdec_aperture (hlow : 0x8000000000 ≤ (s.rg a).toNat) (hhigh : (s.rg a).toNat < 0x8400000000)
    (hle : ((s.rg a).toNat - 0x8000000000) / 65536 < s.nLe) :
    exec (.rdec d a) s = .next (u.sendRdec d (((s.rg a).toNat - 0x8000000000) / 65536) ((s.rg a).toNat % 65536)) := by
  rw [exec_rdec_aligned hr hu hal hroom, if_neg (by omega), if_neg (by omega), if_pos ⟨hlow, hhigh⟩, if_neg (Nat.not_le.2 hle)]

end

/-! ### A counter at its owner (R119, R120) -/

/-- The counter is found, lies in its allotment and is sound: the decrement answers by what it holds. -/
theorem exec_rdecAtOwner {k owner off : Nat} {who : Issuer} {a : Allot} {s r : State} (hf : s.flight k = some (.rdec who owner off))
    (hb : s.busyBefore who.le who.set who.id = false) (hr : (s.dropFlight k).release who.le .dv = r)
    (hcounter : r.counter who owner off = some (a, .loc owner (a.base + off))) (hsize : off + 4 ≤ a.size)
    (hsound : firstPoison r.poison (locPlace owner (a.base + off)) 4 = none) :
    let p := locPlace owner (a.base + off)
    let c := leNat (r.peek p 4)
    exec (.rdecAtOwner k) s =
      if c = 0 then .next (r.token who (tokErr 0x31))
      else if c = 1 then ((r.poke p (leBytes 4 0)).ringPush owner (BitVec.ofNat 64 off)).elim (.next (r.token who (tokErr 0x32)))
        fun v => .next (v.token who 0)
      else .next ((r.poke p (leBytes 4 (c - 1))).token who (BitVec.ofNat 64 (c - 1))) := by
  intro p c
  show execRdecAtOwner k s = _
  simp only [execRdecAtOwner, hf, hb, hr, hcounter, Place.key, hsound, Nat.not_lt.2 hsize]
  refine if_neg (by decide) |>.trans (if_neg (by decide) |>.trans (if_neg (by decide) |>.trans ?_))
  refine answer_congr Iff.rfl rfl (answer_congr Iff.rfl ?_ rfl)
  cases (r.poke (locPlace owner (a.base + off)) (leBytes 4 0)).ringPush owner (BitVec.ofNat 64 off) <;> rfl

/-! ### `alw` (R187) -/

section
variable {d a : Opnd} {s u : State} {x : Word × State} (hr : s.readyFor [(.g, a)] [(.g, d)] = true) (hu : s.issued [(.g, a)] = u)
  (hx : u.takeG a = x)
include hr hu hx

theorem exec_alw_noPort (h : u.alwWords x.1.toNat = none) : exec (.alw d a) s = u.trap 0x07 x.1 := by
  show execAlw d a s = _
  simp only [execAlw, withIssue_of_readyFor hr, hu, hx, h]

theorem exec_alw {wr rd : Nat} (h : u.alwWords x.1.toNat = some (wr, rd))
    (hlink : (portOfNumber x.1.toNat).bind (fun p => u.absentLink u.cur.1 [(p, 1)]) = none) :
    exec (.alw d a) s = .next ((x.2.putG d (BitVec.ofNat 64 (wr * 256 + rd))).advance) := by
  show execAlw d a s = _
  simp only [execAlw, withIssue_of_readyFor hr, hu, hx, h, hlink]

end

/-! ### Waits (R188) -/

/-- Until a tick has ended it, a wait ends with the entries that stand at its port now. -/
theorem State.waitEnds_count {s : State} {le k : Nat} (h : (s.thOf le k).waiting = none ∨ (s.thOf le k).waited = none) (port : Nat) :
    s.waitEnds le k port = if 0 < s.qwaitCount le port then some (s.qwaitCount le port) else none := by
  have hopen : (s.thOf le k).waiting.bind (fun _ => (s.thOf le k).waited) = none := by
    rcases h with h | h
    · rw [h]; rfl
    · rw [h, Option.bind_fun_none]
  rw [State.waitEnds, hopen]

theorem State.waitEnds_some {s : State} {le k port : Nat} (h : (s.thOf le k).waiting = none ∨ (s.thOf le k).waited = none)
    (hn : 0 < s.qwaitCount le port) : s.waitEnds le k port = some (s.qwaitCount le port) :=
  (State.waitEnds_count h port).trans (if_pos hn)

theorem State.waitEnds_none {s : State} {le k port : Nat} (h : (s.thOf le k).waiting = none ∨ (s.thOf le k).waited = none)
    (hn : s.qwaitCount le port = 0) : s.waitEnds le k port = none :=
  (State.waitEnds_count h port).trans (if_neg (by simp [hn]))

section
variable {d b : Opnd} {p : BitVec 6} {s u : State} {x : Word × State} (hr : s.readyFor [(.g, b)] [(.g, d)] = true)
  (hlink : (portOfNumber p.toNat).bind (fun p => s.absentLink s.cur.1 [(p, 1)]) = none) (hu : s.issued [(.g, b)] = u) (hx : u.takeG b = x)
include hr hlink hu hx

theorem exec_qwait_ends {n : Nat} (h : u.waitEnds s.cur.1 s.cur.2 p.toNat = some n) : exec (.qwait d p b) s =
    .next (((x.2.updTh fun t => { t with waiting := none, waited := none }).putG d (BitVec.ofNat 64 n)).advance) := by
  have hcur : u.cur = s.cur := by rw [← hu, State.issued_cur]
  show execQwait d p b s = _
  simp only [execQwait, hlink, withIssue_of_readyFor hr, hu, hx, hcur, h]

/-- A wait that begins with nothing at its port: without a limit it is over at once. -/
theorem exec_qwait_begins (h : u.waitEnds s.cur.1 s.cur.2 p.toNat = none) (hw : s.th.waiting = none) : exec (.qwait d p b) s =
    if x.1 = 0 then u.trap 0x0C (u.qwaitVal s.cur.1 p.toNat)
    else .next ((u.holdPlaces s.cur.1 s.cur.2 (portNeeds (portUses [(.g, b)]) (portUses [(.g, d)]))).updTh fun t =>
      { t with waiting := some (s.tick, p.toNat, x.1.toNat), waited := none }) := by
  have hcur : u.cur = s.cur := by rw [← hu, State.issued_cur]
  have htick : u.tick = s.tick := by rw [← hu, State.issued_tick]
  have hwait : u.th.waiting = none := by rw [← hu, State.issued_waiting, hw]
  show execQwait d p b s = _
  simp only [execQwait, hlink, withIssue_of_readyFor hr, hu, hx, hcur, h, hwait, htick]
  exact answer_congr (by rw [Nat.sub_self, Nat.le_zero, ← BitVec.toNat_inj]; rfl) rfl rfl

end

theorem State.thOf_issued_waits (rds : List (Cls × Opnd)) (s : State) :
    ((s.issued rds).thOf s.cur.1 s.cur.2).waiting = s.th.waiting ∧ ((s.issued rds).thOf s.cur.1 s.cur.2).waited = s.th.waited := by
  have hth : (s.issued rds).thOf s.cur.1 s.cur.2 = (s.issued rds).th := by rw [State.th, State.issued_cur]
  rw [hth]
  exact ⟨s.issued_waiting rds, s.issued_waited rds⟩

section
variable {le k t0 port limit : Nat} {s : State} (hw : (s.thOf le k).waiting = some (t0, port, limit)) (hd : (s.thOf le k).waited = none)
include hw hd

theorem State.closeWait_over (hn : 0 < s.qwaitCount le port) :
    s.closeWait le k = s.updThOf le k (fun t => { t with waited := some (s.qwaitCount le port) }) := by
  simp only [State.closeWait, hw, State.waitEnds_some (.inr hd) hn]

theorem State.closeWait_goesOn (hn : s.qwaitCount le port = 0) : s.closeWait le k = s.expireWait le k := by
  simp only [State.closeWait, hw, State.waitEnds_none (.inr hd) hn]

theorem State.expireWait_empty (hn : s.qwaitCount le port = 0) :
    s.expireWait le k = if limit ≤ s.tick - t0 then s.trapAt le k 0x0C (s.qwaitVal le port) none else s := by
  simp only [State.expireWait, hw, State.waitEnds_none (.inr hd) hn, Option.isNone_none, Bool.true_and, decide_eq_true_eq]

end

theorem exec_qwaitExpiry (le k : Nat) (s : State) : exec (.qwaitExpiry le k) s = .next (if s.ctx.stopped then s else s.expireWait le k) := rfl

/-- A blocked set whose ports can all serve it is blocked no longer (R180). -/
theorem exec_portUnblock {le k : Nat} {s : State} (h : (s.thOf le k).blocked.all (fun nd => s.portReady le k nd.1 nd.2.1 nd.2.2) = true) :
    exec (.portUnblock le k) s = .next (s.updThOf le k fun t => { t with blocked := [] }) :=
  if_pos h

/-! ### Settling O48 -/

/-- Settles O48: one equation for each way these instructions, and the steps that answer them, can end. -/
theorem threadsCountersAndWaits : Obligations.ThreadsCountersAndWaits := by
  unfold Obligations.ThreadsCountersAndWaits
  refine ⟨fun d a b c s hr => ?spawn, fun k target who pc args s hf hs =>
      ⟨exec_spawnAtTarget_refused hf hs, fun a j => exec_spawnAtTarget_starts hf hs⟩, fun k who v s => exec_spawnReply,
    fun d a s hr => ⟨exec_rdec_misaligned hr rfl, fun hal hea hroom => exec_rdec_own hr rfl hal hroom hea,
      fun m hal hroom => exec_rdec_quad hr rfl hal hroom, exec_rdec_aperture hr rfl⟩,
    fun k owner off who a s hf hb => ?rdecAtOwner, fun d a s hr => ⟨exec_alw_noPort hr rfl rfl, fun wr rd => exec_alw hr rfl rfl⟩,
    fun d p b s hr hlink => ?qwait, fun le set t0 port limit s hw hd hn hlimit => ?expires, fun le set t0 port limit s hw hd => ?closes,
    fun le set s => exec_portUnblock⟩
  case spawn =>
    intro u x
    rw [exec_spawn hr rfl rfl]
    refine ⟨fun hal => if_pos hal, fun hal hle => ?_, fun hal hle => ?_⟩
    · rw [if_neg (Classical.not_not.2 hal), if_pos hle]
    · rw [if_neg (Classical.not_not.2 hal), if_neg (Nat.not_le.2 hle)]
  case rdecAtOwner =>
    intro r p hcounter hsize c hsound
    rw [exec_rdecAtOwner hf hb rfl hcounter hsize hsound]
    refine ⟨fun hzero => if_pos hzero, fun hmany => ?_, fun hone => ?_⟩
    · rw [if_neg (Nat.ne_of_gt (Nat.zero_lt_of_lt hmany)), if_neg (Nat.ne_of_gt hmany)]
    · rw [if_neg fun hzero => Nat.one_ne_zero (hone.symm.trans hzero), if_pos hone]
      exact ⟨fun v hpush => by rw [hpush]; rfl, fun hfull => by rw [hfull]; rfl⟩
  case qwait =>
    intro u x n
    obtain ⟨hwaiting, hwaited⟩ := s.thOf_issued_waits [(.g, b)]
    have hempty (hn : n = 0) (hw : s.th.waiting = none) := exec_qwait_begins hr hlink rfl rfl (State.waitEnds_none (.inl (hwaiting.trans hw)) hn) hw
    refine ⟨fun w m hw hm => exec_qwait_ends hr hlink rfl rfl (State.waitEnds_waited (hwaiting.trans hw) (hwaited.trans hm) _), fun hn hopen => ?_,
      fun hn hw hlimit => (hempty hn hw).trans (if_pos hlimit), fun hn hw hlimit => (hempty hn hw).trans (if_neg hlimit)⟩
    exact exec_qwait_ends hr hlink rfl rfl (State.waitEnds_some (hopen.imp hwaiting.trans hwaited.trans) hn)
  case expires =>
    have hstrikes := (State.expireWait_empty hw hd hn).trans (if_pos hlimit)
    exact ⟨(State.closeWait_goesOn hw hd hn).trans hstrikes, by rw [exec_qwaitExpiry, hstrikes]⟩
  case closes =>
    refine ⟨State.closeWait_over hw hd, fun hn hlimit => ?_⟩
    have hstill := (State.expireWait_empty hw hd hn).trans (if_neg (Nat.not_le.2 hlimit))
    exact ⟨(State.closeWait_goesOn hw hd hn).trans hstill, by rw [exec_qwaitExpiry, hstill, ite_self]⟩

end Sys2Proof.Machine
end

section
/-! Launch windows, the dispatcher, retirement, donation and budgets (R105, R108, R109, R112, R113, R121, R122, R124, R323, R376 to R378), and O58
from them. -/
namespace Sys2Proof.Machine

/-! ### Windows (R105, R108) -/

theorem exec_launchWindowWrite {w off : Nat} {bytes : List Byte} {s : State} (hw : w < 64) (hready : s.mailbox.ready = true) :
    exec (.launchWindowWrite w off bytes) s = .next (s.setWindow w ((s.window w).put off bytes)) := by
  show execLaunchWindowWrite w off bytes s = _
  rw [execLaunchWindowWrite, if_pos hw, State.windowWrite, if_pos hready]

section
variable {w : Window}

theorem Window.commit_queues (hb : w.bound.isSome = true) (hq : w.queue.length < 16) :
    w.commit = { w with seen := 0, queue := w.queue ++ [w.record], acc := w.acc + 1 } :=
  if_neg (by simp [Option.isSome_iff_ne_none.1 hb, hq])

theorem Window.commit_drops (h : w.bound = none ∨ 16 ≤ w.queue.length) : w.commit = ({ w with seen := 0 } : Window).note 0x41 :=
  if_pos (by simpa using h)

end

@[simp] theorem length_leBytes (n x : Nat) : (leBytes n x).length = n := by
  induction n generalizing x with
  | zero => rfl
  | succ n ih => simp [leBytes, ih]

/-- A list is its entries in turn. -/
theorem map_getD_range {α : Type} (d : α) (xs : List α) : (List.range xs.length).map (fun k => xs.getD k d) = xs := by
  refine List.ext_getElem (by simp) fun i h _ => ?_
  have hi : i < xs.length := by simpa using h
  simp [hi]

/-- The bytes of a window's `lstat`, wherever firmware runs. -/
theorem State.ctlByte_lstat {w k : Nat} {s : State} (hw : w < 64) (hk : k < 8) (hr : s.recovery = false) :
    s.ctlByte (0x10000 + 128 * w + 64 + k) = (leBytes 8 (s.window w).lstat.toNat).getD k 0 := by
  have hwindow : (0x10000 + 128 * w + 64 + k - 0x10000) / 128 = w := by omega
  have hoff : (0x10000 + 128 * w + 64 + k - 0x10000) % 128 = 64 + k := by omega
  have hhigh : ¬ 0x10000 + 128 * w + 64 + k < 0x1000 := by omega
  have hin : (0x10000 ≤ 0x10000 + 128 * w + 64 + k && 0x10000 + 128 * w + 64 + k < 0x12000) = true := by
    rw [Bool.and_eq_true, decide_eq_true_eq, decide_eq_true_eq]
    omega
  have hfield : (64 ≤ 64 + k && 64 + k < 72) = true := by
    rw [Bool.and_eq_true, decide_eq_true_eq, decide_eq_true_eq]
    omega
  simp only [State.ctlByte, hr, hwindow, hoff]
  rw [if_neg hhigh, if_neg (by decide), if_pos hin, if_pos hfield, Nat.add_sub_cancel_left]

theorem State.ctlRead_lstat {w : Nat} {s : State} (hw : w < 64) (hr : s.recovery = false) :
    s.ctlRead (0x10000 + 128 * w + 64) 8 = (leBytes 8 (s.window w).lstat.toNat, s.setWindow w { s.window w with err := false }) := by
  have hbytes : (List.range 8).map (fun k => s.ctlByte (0x10000 + 128 * w + 64 + k)) = leBytes 8 (s.window w).lstat.toNat := by
    refine (List.map_congr_left fun k hk => State.ctlByte_lstat hw (List.mem_range.1 hk) hr).trans ?_
    simpa using map_getD_range 0 (leBytes 8 (s.window w).lstat.toNat)
  have hwindow : (0x10000 + 128 * w + 64 - 0x10000) / 128 = w := by omega
  have htouch : (0x10000 ≤ 0x10000 + 128 * w + 64 && 0x10000 + 128 * w + 64 < 0x12000 &&
      touches ((0x10000 + 128 * w + 64) % 128) 8 64 8) = true := by
    simp only [touches, Bool.and_eq_true, decide_eq_true_eq]
    omega
  rw [State.ctlRead, hbytes, hwindow]
  exact if_pos htouch

theorem exec_lstatRead {w : Nat} {s : State} (hw : w < 64) (hr : s.recovery = false) : exec (.lstatRead w) s =
    .next { s.setWindow w { s.window w with err := false } with hostLog := s.hostLog ++ [leBytes 8 (s.window w).lstat.toNat] } := by
  show execLstatRead w s = _
  rw [execLstatRead, if_pos hw, State.ctlRead_lstat hw hr]

/-! ### The dispatcher (R109, R112, R113) -/

/-- A share is tried again after a release on its chiplet, and at no other time. -/
theorem State.retryShare_bound {w : Nat} {s : State} (hb : (s.window w).bound = some s.ctx.ctxid) (c : Nat) :
    s.retryShare w c = if s.ctx.released.contains c = true then s.tryShare w c else s := by
  simp [State.retryShare, hb]

section
variable {w : Nat} {s : State} (hp : s.ctx.present = true) (hs : s.ctx.stopped = false) (hb : (s.window w).bound = some s.ctx.ctxid)
include hp hs hb

section
variable (hq : (s.window w).queue ≠ []) (hh : (s.window w).head = none)
include hq hh

theorem exec_launchDispatch_refuses {c : Nat} (h : s.launchError (s.headRec w) (s.recTask (s.headRec w)) = some c) :
    exec (.launchDispatch w) s = .next (s.refuseLaunch w c (s.headRec w).cva) := by
  show execLaunchDispatch w s = _
  simp only [execLaunchDispatch, h]
  exact if_neg (by simp [hp, hs, hb, hq, hh])

theorem exec_launchDispatch_accepts {tt : TaskType} (h : s.launchError (s.headRec w) (s.recTask (s.headRec w)) = none)
    (ht : s.recTask (s.headRec w) = some tt) : exec (.launchDispatch w) s = .next (s.acceptLaunch w (s.headRec w) tt) := by
  rw [ht] at h
  show execLaunchDispatch w s = _
  simp only [execLaunchDispatch, ht, h]
  exact if_neg (by simp [hp, hs, hb, hq, hh])

end

theorem exec_launchShareRetry (c : Nat) :
    exec (.launchShareRetry w c) s = .next (if s.ctx.released.contains c = true then s.tryShare w c else s) := by
  rw [← State.retryShare_bound hb c]
  exact if_neg (by simp [hp, hs])

end

/-- A retry is due on the chiplet of an element with a release. -/
theorem State.noteReleased_contains (le : Nat) (s : State) : (s.noteReleased le).ctx.released.contains (s.chipletOf le) = true := by
  unfold State.noteReleased
  split
  · next h => exact h
  · simp

theorem State.chipletOf_of_seat {s t : State} (h : t.seat = s.seat) (le : Nat) : t.chipletOf le = s.chipletOf le := by
  simp only [State.chipletOf, State.tileOf, State.physOf, State.ctx_of_seat h]

theorem State.retryShares_idle {s : State} (h : s.ctx.stopped = true ∨ s.ctx.released = []) : s.retryShares = s := by
  rcases h with h | h <;> exact if_pos (by simp [h])

theorem State.retryShares_released {s : State} (hp : s.ctx.present = true) (hs : s.ctx.stopped = false) : s.retryShares.ctx.released = [] := by
  by_cases hr : s.ctx.released = []
  · rw [State.retryShares_idle (.inr hr), hr]
  · rw [State.retryShares, if_neg (by simp [hp, hs, hr])]

/-- With one window, bound to the running context, and one release, its head is tried once. -/
theorem State.retryShares_one {w c : Nat} {v : Window} {s : State} (hp : s.ctx.present = true) (hs : s.ctx.stopped = false)
    (hw : s.windows = [(w, v)]) (hb : v.bound = some s.ctx.ctxid) (hr : s.ctx.released = [c]) :
    s.retryShares = { s.tryShare w c with ctx := { (s.tryShare w c).ctx with released := [] } } := by
  have hwindow : s.window w = v := by simp [State.window, hw, Map.get, Map.find]
  have hretry : s.retryShare w c = s.tryShare w c := by
    rw [State.retryShare_bound (by rw [hwindow, hb]), if_pos (by simp [hr])]
  rw [State.retryShares, if_neg (by simp [hp, hs, hr]), hr]
  simp only [List.foldl_cons, List.foldl_nil, hw, hretry]

/-! ### Retirement (R376, R377) -/

theorem State.id_of_allotOf {le k : Nat} {a : Allot} {s : State} (h : s.allotOf le k = some a) : a.id = k := by
  simpa using List.find?_some h

/-- The entry and the stage of channel `ch` removed, where allotment `id` owns it. -/
def Element.freeChan (id : Nat) (e : Element) (ch : Nat) : Element :=
  if e.owns id ch then { e.unbind ch with stages := Map.drop ch e.stages } else e

/-- The element with allotment `id`, of channels `chans`, released. -/
def Element.release (id : Nat) (chans : List Nat) (e : Element) : Element :=
  { chans.foldl (Element.freeChan id) e with
    allots := (chans.foldl (Element.freeChan id) e).allots.filter fun x => x.id != id
    subOwners := (chans.foldl (Element.freeChan id) e).subOwners.filter fun o => o.2.2 != id }

theorem State.releaseAllot_of_allotOf {le id : Nat} {a : Allot} {s : State} (h : s.allotOf le id = some a) :
    s.releaseAllot le id = ((s.noteRunnable le).noteReleased le).updEl le (·.release id a.chans) := by
  simp only [State.releaseAllot, h]
  rfl

theorem Element.find_freeChan_other {id ch c : Nat} (h : ch ≠ c) (e : Element) :
    Map.find ch (e.freeChan id c).handlers = Map.find ch e.handlers := by
  unfold Element.freeChan
  split
  · exact Map.find_drop_other h _
  · rfl

/-- A channel with no entry gets none. -/
theorem Element.find_foldl_freeChan_of_none {id ch : Nat} {e : Element} (h : Map.find ch e.handlers = none) (chans : List Nat) :
    Map.find ch (chans.foldl (Element.freeChan id) e).handlers = none := by
  induction chans generalizing e with
  | nil => exact h
  | cons c cs ih =>
    rw [List.foldl_cons]
    refine ih ?_
    by_cases hc : ch = c
    · subst hc
      rw [Element.freeChan, if_neg (by simp [Element.owns, h])]
      exact h
    · rw [Element.find_freeChan_other hc, h]

theorem Element.find_foldl_freeChan {id ch : Nat} {chans : List Nat} (hm : ch ∈ chans) {e : Element} (h : e.owns id ch = true) :
    Map.find ch (chans.foldl (Element.freeChan id) e).handlers = none := by
  induction chans generalizing e with
  | nil => cases hm
  | cons c cs ih =>
    rw [List.foldl_cons]
    by_cases hc : ch = c
    · subst hc
      refine Element.find_foldl_freeChan_of_none ?_ cs
      rw [Element.freeChan, if_pos h]
      exact Map.find_drop_same ..
    · refine ih ((List.mem_cons.1 hm).resolve_left hc) ?_
      rwa [Element.owns, Element.find_freeChan_other hc]

@[simp] theorem State.el_noteReleased (le : Nat) (s : State) (m : Nat) : (s.noteReleased le).el m = s.el m := by
  unfold State.noteReleased
  split <;> rfl

@[simp] theorem State.noteReleased_mem (le : Nat) (s : State) : (s.noteReleased le).mem = s.mem := by
  unfold State.noteReleased
  split <;> rfl

section
variable {le k : Nat} {a : Allot} {s : State} (h : s.allotOf le k = some a)
include h

theorem State.el_releaseAllot : (s.releaseAllot le k).el le = (s.el le).release k a.chans := by
  rw [State.releaseAllot_of_allotOf h, State.el_updEl_same, State.el_noteReleased, State.el_noteRunnable]

/-- A release on an element calls for a retry on its chiplet. -/
theorem State.releaseAllot_released : (s.releaseAllot le k).ctx.released.contains (s.chipletOf le) = true := by
  rw [State.releaseAllot_of_allotOf h, ← State.chipletOf_of_seat (s.noteRunnable_seat le)]
  exact (s.noteRunnable le).noteReleased_contains le

/-- A released allotment stands no longer, its channels have no entries, and memory is as it was. -/
theorem State.releaseAllot_frame : (s.releaseAllot le k).allotOf le k = none ∧
    (∀ ch, ch ∈ a.chans → (s.el le).owns k ch = true → Map.find ch ((s.releaseAllot le k).el le).handlers = none) ∧
    (s.releaseAllot le k).mem = s.mem := by
  refine ⟨?_, fun ch hm ho => ?_, ?_⟩
  · rw [State.allotOf, State.el_releaseAllot h]
    simp [Element.release]
  · rw [State.el_releaseAllot h]
    exact Element.find_foldl_freeChan hm ho
  · rw [State.releaseAllot_of_allotOf h]
    simp

theorem State.retire_of_allotOf : s.retire le a = a.launch.elim (s.releaseAllot le k)
    fun id => (s.releaseAllot le k).leaveLaunch id le ((s.el le).opsOf a) := by
  rw [State.retire, State.id_of_allotOf h]
  cases a.launch <;> rfl

theorem State.retire_frame : (s.retire le a).allotOf le k = none ∧
    (∀ ch, ch ∈ a.chans → (s.el le).owns k ch = true → Map.find ch ((s.retire le a).el le).handlers = none) ∧
    (s.retire le a).mem = s.mem := by
  have hframe := State.releaseAllot_frame h
  rw [State.retire_of_allotOf h]
  cases a.launch with
  | none => exact hframe
  | some id => exact hframe

theorem exec_allotmentRetire : exec (.allotmentRetire le k) s = .next (if s.live le a then s else s.retire le a) := by
  show execAllotmentRetire le k s = _
  rw [execAllotmentRetire, h]

end

theorem State.retireDead_one {le : Nat} {e : Element} {a : Allot} {s : State} (he : s.ctx.elems = [(le, e)]) (ha : e.allots = [a]) :
    s.retireDead = if s.live le a = true then s else s.retire le a := by
  rw [State.retireDead, he]
  simp only [List.foldl_cons, List.foldl_nil, ha]

/-! ### The end of a launch (R378) -/

section
variable {k : Nat} {l : Launch} {s : State} (hl : s.ctx.launches.find? (fun l => l.id == k) = some l)
include hl

theorem exec_launchCompletion_waits (h : l.elems ≠ [] ∨ s.ctx.elems.any (fun e => e.2.ops.any fun o => l.ops.contains o.id) = true) :
    exec (.launchCompletion k) s = .next s := by
  show execLaunchCompletion k s = _
  simp only [execLaunchCompletion, hl]
  refine if_pos ?_
  rcases h with h | h
  · simp [h]
  · rw [h, Bool.or_true]

theorem exec_launchCompletion_ends (he : l.elems = []) (hw : s.ctx.elems.any (fun e => e.2.ops.any fun o => l.ops.contains o.id) = false) :
    let v : State := { s with ctx := { s.ctx with launches := s.ctx.launches.filter fun x => x.id != k } }
    let u := s.ctx.tiles.foldl (fun w t => w.drain t) v
    exec (.launchCompletion k) s = .next (if l.cva = 0 then u else u.completionPut l.cva l.tag) := by
  intro v u
  show execLaunchCompletion k s = _
  simp only [execLaunchCompletion, hl]
  exact if_neg (by rw [hw, he]; decide)

end

/-! ### Donation (R121, R122) -/

@[simp] theorem State.launchFlight_tile (f : Flight) (s : State) (t : Nat) : (s.launchFlight f).tile t = s.tile t := rfl

theorem exec_tileIdle {tile v : Nat} {s : State} (hs : s.ctx.stopped = false) (ht : s.ctx.tiles.contains tile = true) (hi : s.idle tile = true)
    (hn : s.stealing tile = false) (hv : s.victim tile = some v) : exec (.tileIdle tile) s =
      .next ((s.updTile tile fun tl => { tl with lastVictim := v }).launchFlight (.stealReq tile v)) := by
  show execTileIdle tile s = _
  simp only [execTileIdle, hv]
  exact if_neg (by rw [hs, ht, hi, hn]; decide)

theorem exec_stealRequest {k thief victim : Nat} {s : State} (hf : s.flight k = some (.stealReq thief victim)) (hs : s.ctx.stopped = false) :
    exec (.stealRequest k) s =
      .next ((s.dropFlight k).launchFlight (.stealAns thief victim (((s.lesOf victim).filter s.offers).take 8))) := by
  show execStealRequest k s = _
  simp only [execStealRequest, hf, hs]
  rfl

/-- What a victim offers: at most 8 of its elements, each with a block to give. -/
theorem State.offered (s : State) (victim : Nat) : (((s.lesOf victim).filter s.offers).take 8).length ≤ 8 ∧
    ∀ le ∈ ((s.lesOf victim).filter s.offers).take 8, s.offers le = true ∧ le ∈ s.lesOf victim :=
  ⟨List.length_take_le .., fun _ h => (List.mem_filter.1 (List.mem_of_mem_take h)).symm⟩

theorem exec_stealAnswer {k thief victim : Nat} {les : List Nat} {s : State} (hf : s.flight k = some (.stealAns thief victim les))
    (hs : s.ctx.stopped = false) : exec (.stealAnswer k) s = .next (les.foldl (fun s le => s.moveLe thief le)
      ((s.dropFlight k).updTile thief fun tl => { tl with idleFrom := s.tick })) := by
  show execStealAnswer k s = _
  simp only [execStealAnswer, hf, hs]
  rfl

/-! ### Budgets (R124, R323, R329) -/

theorem exec_budgetShareWrite (shares : Vector ClassShare 6) (s : State) : exec (.budgetShareWrite shares) s =
    if sharesOk shares = true then .next { s with ctx := { s.ctx with nextShares := some shares } } else .next s := rfl

/-- The period of the tick has begun: the shares that waited are in force, and the contested cycles are counted anew. -/
def State.enterPeriod (s : State) : State :=
  { s with
    period := s.tick / 512, free := s.free + 1
    ctx := { s.ctx with
      shares := s.ctx.nextShares.getD s.ctx.shares, nextShares := none, borrowed := (Config.freeByte s.free 0).setWidth 6
      elems := s.ctx.elems.map fun e => (e.1, { e.2 with won3 := 0, won0 := 0 }) } }

theorem State.boundaryDue_eq_true {s : State} : s.boundaryDue = true ↔ s.tick % 512 = 0 ∧ s.tick / 512 ≠ s.period := by
  simp [State.boundaryDue]

/-- A period that begins samples the stages that stood before it, in a stopped partition none. -/
theorem State.beginPeriod_due {s : State} (h : s.boundaryDue = true) : s.beginPeriod = if s.ctx.stopped then s.enterPeriod else
    (s.ctx.elems.flatMap fun e => e.2.stages.map fun st => (e.1, st.1)).foldl (fun v p => v.sampleStage p.1 p.2) s.enterPeriod := by
  rw [State.beginPeriod, h]
  refine if_neg (by decide) |>.trans (ite_congr rfl (fun _ => rfl) fun _ => ?_)
  rw [List.flatMap_map]
  rfl

theorem exec_budgetPeriodBoundary (s : State) : exec .budgetPeriodBoundary s = .next s.beginPeriod := rfl

section
variable {le ch : Nat} {s : State} {st : Stage} {h : Handler} (hst : s.stage le ch = some st) (hh : Map.find ch (s.el le).handlers = some h)
include hst hh

theorem State.sampleStage_home (ht : st.twinHome = none) : s.sampleStage le ch = ((s.noteRunnable le).setStage le ch { st with
    overloads := if h.hiw ≤ (s.el le).occupancy ch then st.overloads + 1 else 0 }).cloneIfReady le ch := by
  simp only [State.sampleStage, hst, hh, ht]

theorem State.sampleStage_twin (ht : st.twinHome.isSome = true) : s.sampleStage le ch = (s.setStage le ch { st with
    lowCount := if (s.el le).occupancy ch ≤ h.low then st.lowCount + 1 else 0 }).mergeIfReady le ch := by
  obtain ⟨home, ht⟩ := Option.isSome_iff_exists.1 ht
  simp only [State.sampleStage, hst, hh, ht]

end

/-! ### Settling O58 -/

/-- Settles O58: one equation for each way a step of a launch's course can end, and what stands after a release or at a new period. -/
theorem launchesRunTheirCourse : Obligations.LaunchesRunTheirCourse := by
  unfold Obligations.LaunchesRunTheirCourse
  refine ⟨fun w off bytes s hw hready => ⟨_, exec_launchWindowWrite hw hready, State.window_setWindow_same ..,
      fun v => State.window_setWindow_other _ _, rfl, rfl⟩,
    fun w => ⟨fun hb hq => ?commits, fun h => ?drops⟩, fun w s hw hr => ⟨_, exec_lstatRead hw hr, ?lstat⟩,
    fun w s hp hs hb hq hh => ⟨fun c => exec_launchDispatch_refuses hp hs hb hq hh, fun tt => exec_launchDispatch_accepts hp hs hb hq hh⟩,
    fun w c s hp hs hb => ?retry, fun le id a s => State.releaseAllot_released,
    fun s => ⟨State.retryShares_idle, State.retryShares_released, fun w v c => State.retryShares_one⟩, fun le e a s => State.retireDead_one,
    fun le k s a h => ?retire, fun k s l hl => ⟨exec_launchCompletion_waits hl, exec_launchCompletion_ends hl⟩,
    fun tile v s hs ht hi hn hv => ⟨_, exec_tileIdle hs ht hi hn hv, rfl, ?victim⟩,
    fun k thief victim s hf hs => ?request, fun k thief victim les s => exec_stealAnswer, fun shares s => ?shares, fun s => ?period,
    fun le ch s st h hst hh => ⟨State.sampleStage_home hst hh, State.sampleStage_twin hst hh⟩⟩
  case commits =>
    rw [Window.commit_queues hb hq]
    exact ⟨rfl, rfl, rfl⟩
  case drops =>
    rw [Window.commit_drops h]
    exact ⟨rfl, rfl, rfl, rfl⟩
  case lstat =>
    have hwindow := State.window_setWindow_same s w { s.window w with err := false }
    exact ⟨(congrArg Window.err hwindow).trans rfl, rfl, (congrArg Window.queue hwindow).trans rfl⟩
  case retry =>
    rw [exec_launchShareRetry hp hs hb]
    exact ⟨fun hc => by rw [if_pos hc], fun hc => by rw [if_neg (by rw [hc]; decide)]⟩
  case retire =>
    rw [exec_allotmentRetire h]
    refine ⟨fun hl => by rw [if_pos hl], fun hl => ?_⟩
    rw [if_neg (by rw [hl]; decide)]
    refine ⟨?_, _, rfl, State.retire_frame h⟩
    rw [State.retire_of_allotOf h]
    cases a.launch <;> rfl
  case victim => rw [State.launchFlight_tile, State.tile_updTile_same]
  case request =>
    obtain ⟨hfew, hoffers⟩ := s.offered victim
    exact ⟨_, _, exec_stealRequest hf hs, hfew, hoffers, rfl⟩
  case shares =>
    rw [exec_budgetShareWrite]
    exact ⟨fun h => if_neg (by rw [h]; decide), fun h => ⟨_, if_pos h, rfl, rfl⟩⟩
  case period =>
    refine ⟨fun h => ?_, fun hmod hdiv => ⟨s.enterPeriod, rfl, rfl, rfl, rfl, rfl, rfl, rfl, rfl, ?_⟩⟩
    · have hnot : s.boundaryDue = false := by
        rw [← Bool.not_eq_true, State.boundaryDue_eq_true]
        omega
      rw [exec_budgetPeriodBoundary, State.beginPeriod_once hnot]
    · rw [exec_budgetPeriodBoundary, State.beginPeriod_due (State.boundaryDue_eq_true.2 ⟨hmod, hdiv⟩)]

end Sys2Proof.Machine
end

section
/-! Moves, choices, comparisons and conversions of scalar floating point (R199 to R202, R206 to R209): what each row runs, and O37 and O38 from
them. -/
namespace Sys2Proof.Machine

/-! ### What issue keeps of the issuing set -/

@[simp] theorem State.issued_rf (rds : List (Cls × Opnd)) (s : State) (n : RegNo) : (s.issued rds).rf n = s.rf n := by
  obtain ⟨bad, toks, h⟩ := s.issued_th rds
  rw [State.rf, h]; rfl

@[simp] theorem State.issued_rv (rds : List (Cls × Opnd)) (s : State) (n : RegNo) : (s.issued rds).rv n = s.rv n := by
  obtain ⟨bad, toks, h⟩ := s.issued_th rds
  rw [State.rv, h]; rfl

/-- The mode of a conversion is that of the state before issue (R207). -/
@[simp] theorem State.issued_cvtMode (rds : List (Cls × Opnd)) (s : State) (m : RmField) :
    (s.issued rds).th.cvtMode m = s.th.cvtMode m := by
  obtain ⟨bad, toks, h⟩ := s.issued_th rds
  rw [h]; rfl

/-! ### Bits and signs of a pattern (R61, R200) -/

theorem viewF_bits_lt (f : Fmt) (x : FReg) : (viewF f x).bits < 2 ^ f.w := Nat.mod_lt _ (Nat.two_pow_pos _)

theorem ftypeFmt_w_pos (t : FType) : 0 < (ftypeFmt t).w := by cases t <;> decide

theorem Fmt.setSign_false (f : Fmt) (x : Nat) : f.setSign false x = if (f.val x).isNaN then x else x % 2 ^ (f.w - 1) := by
  simp [Fmt.setSign, Fmt.signed, Fmt.mag]

/-- The sign bit of a pattern turned over is that bit added, without its carry. -/
theorem add_half_mod_double {x p : Nat} (hx : x < 2 * p) : (x / p % 2 == 0).toNat * p + x % p = (x + p) % (2 * p) := by
  obtain hlow | hhigh := Nat.lt_or_ge x p
  · have hs : (x + p) % (2 * p) = x + p := Nat.mod_eq_of_lt (by omega)
    rw [Nat.div_eq_of_lt hlow, Nat.mod_eq_of_lt hlow, hs]
    simp [Nat.add_comm]
  · have hq : x / p = 1 := Nat.div_eq_of_lt_le (by omega) (by omega)
    have hr : x % p = x - p := by rw [Nat.mod_eq_sub_mod hhigh, Nat.mod_eq_of_lt (by omega)]
    have hs : (x + p) % (2 * p) = x - p := by rw [Nat.mod_eq_sub_mod (by omega), Nat.mod_eq_of_lt (by omega)]; omega
    rw [hq, hr, hs]
    simp

theorem Fmt.setSign_flipped {f : Fmt} (hw : 0 < f.w) {x : Nat} (hx : x < 2 ^ f.w) :
    f.setSign (f.sign x == 0) x = if (f.val x).isNaN then x else (x + 2 ^ (f.w - 1)) % 2 ^ f.w := by
  have hdouble : 2 ^ f.w = 2 * 2 ^ (f.w - 1) := by rw [← Nat.pow_succ', Nat.succ_eq_add_one, Nat.sub_add_cancel hw]
  rw [hdouble] at hx ⊢
  rw [Fmt.setSign, Fmt.signed, Fmt.mag, Fmt.sign, add_half_mod_double hx]

theorem Fmt.setSign_copied (f : Fmt) (x y : Nat) : f.setSign (f.sign y == 1) x =
    if (f.val x).isNaN then x else x % 2 ^ (f.w - 1) + y / 2 ^ (f.w - 1) % 2 * 2 ^ (f.w - 1) := by
  have hbit : (f.sign y == 1).toNat = y / 2 ^ (f.w - 1) % 2 := by
    rw [Fmt.sign]
    obtain h | h := Nat.mod_two_eq_zero_or_one (y / 2 ^ (f.w - 1)) <;> rw [h] <;> rfl
  rw [Fmt.setSign, Fmt.signed, Fmt.mag, hbit, Nat.add_comm]

/-! ### The rows -/

/-- Only what a move does to a pattern of its format counts. -/
theorem fpMove1_congr {f : Fmt} {k k' : Nat → Nat} (h : ∀ x < 2 ^ f.w, k x = k' x) (d a : Opnd) (s : State) :
    fpMove1 f k d a s = fpMove1 f k' d a s := by
  simp only [fpMove1, h _ (viewF_bits_lt f _)]

theorem fpMove2_congr {f : Fmt} {k k' : Opv → Opv → Nat × Nat} (h : ∀ x y : Opv, x.f = f → k x y = k' x y) (d a b : Opnd) (s : State) :
    fpMove2 f k d a b s = fpMove2 f k' d a b s := by
  simp only [fpMove2, h (viewF f _) _ rfl]

theorem exec_of_floatMoves1 {i : Instr} {f : Fmt} {k : Nat → Nat} {d a : Opnd} (h : floatMoves1 i = some (f, k, d, a)) (s : State) :
    exec i s = fpMove1 f k d a s := by
  unfold floatMoves1 at h
  split at h <;> cases h
  next t => exact fpMove1_congr (fun x _ => Fmt.setSign_false _ x) d a s
  next t => exact fpMove1_congr (fun x hx => Fmt.setSign_flipped (ftypeFmt_w_pos t) hx) d a s
  next t => rfl

theorem exec_fsgn (t : FType) (d a b : Opnd) (s : State) : exec (.fsgn t d a b) s = execFsgn t d a b s := rfl

theorem exec_of_floatMoves2 {i : Instr} {f : Fmt} {k : Opv → Opv → Nat × Nat} {d a b : Opnd}
    (h : floatMoves2 i = some (f, k, d, a, b)) (s : State) : exec i s = fpMove2 f k d a b s := by
  unfold floatMoves2 at h
  split at h <;> cases h
  next t => rfl
  next t => rfl
  next t =>
    rw [exec_fsgn, execFsgn]
    refine fpMove2_congr (fun x y hx => ?_) d a b s
    simp only [Fmt.setSign_copied, Opv.v, hx]
    split <;> rfl

theorem exec_fclass (t : FType) (d a : Opnd) (s : State) : exec (.fclass t d a) s = execFclass t d a s := rfl
theorem exec_fcmp (t : FType) (c : FCond) (d a b : Opnd) (s : State) : exec (.fcmp t c d a b) s = execFcmp t c d a b s := rfl
theorem exec_fcvt (dst src : CvtType) (m : RmField) (d a : Opnd) (s : State) : exec (.fcvt dst src m d a) s = execFcvt dst src m d a s := rfl
theorem exec_fmovi (d : Opnd) (x : BitVec 12) (s : State) : exec (.fmovi d x) s = execFmovi d x s := rfl
theorem exec_ftc (d : Opnd) (a : RegNo) (v : Bool) (l : BitVec 2) (s : State) : exec (.ftc d a v l) s = execFtc d a v l s := rfl
theorem exec_fstc (d : RegNo) (a : Opnd) (v : Bool) (l : BitVec 2) (s : State) : exec (.fstc d a v l) s = execFstc d a v l s := rfl

/-- Settles O37: what is ready acts in the issued state, each row as its table says. -/
theorem floatMovesKeepBitsAndCounts : Obligations.FloatMovesKeepBitsAndCounts := by
  refine ⟨fun i f k d a s hi hr => ?_, fun i f k d a b s hi hr => ?_, fun t d a s hr => ?_, fun t c d a b s hr => ?_, fun d x s hr => ?_,
    fun d a v l s hr => ?_, fun d a v l s hr => ?_⟩
  · rw [exec_of_floatMoves1 hi, fpMove1, withIssue_of_readyFor hr]
  · rw [exec_of_floatMoves2 hi, fpMove2, withIssue_of_readyFor hr]
  · rw [exec_fclass, execFclass, withIssue_of_readyFor hr]
  · rw [exec_fcmp, execFcmp, withIssue_of_readyFor hr]
  · rw [exec_fmovi, execFmovi, withIssue_of_readyFor hr]
  · rw [exec_ftc, execFtc, withIssue_of_readyFor hr, State.issued_rf, State.issued_rv]
  · rw [exec_fstc, execFstc, withIssue_of_readyFor hr]
    cases v <;> rfl

/-- Settles O38: one case for each kind of source and destination; a floating destination is checked as every checked result is. -/
theorem conversionsRoundUnderTheirMode : Obligations.ConversionsRoundUnderTheirMode := by
  refine fun dst src m d a s => ⟨fun fs fd hs hd hr => ?_, fun fd hs hd hr => ?_, fun fs hs hd hr => ?_⟩
  all_goals simp only [exec_fcvt, execFcvt, hs, hd, withIssue_of_readyFor hr, State.issued_cvtMode]
  · exact ⟨fpRetire_of_passes, fpRetire_of_fails⟩
  · exact ⟨fpRetire_of_passes, fpRetire_of_fails⟩

end Sys2Proof.Machine
end

section
/-! States that differ only in which untouched elements they list (R165), and what issue, draws and a change of the issuing set are up to
that. -/
namespace Sys2Proof.Machine

/-- `t` is `s`, except that elements may be listed in `t` that `s` leaves as at context start, or the reverse. -/
def State.Alike (s t : State) : Prop :=
  (∃ es, t = { s with ctx := { s.ctx with elems := es } }) ∧ ∀ le, t.el le = s.el le

namespace State.Alike

theorem refl (s : State) : s.Alike s := ⟨⟨_, rfl⟩, fun _ => rfl⟩

theorem symm {s t : State} (h : s.Alike t) : t.Alike s := by
  obtain ⟨⟨es, rfl⟩, hel⟩ := h
  exact ⟨⟨s.ctx.elems, rfl⟩, fun le => (hel le).symm⟩

theorem trans {s t u : State} (h : s.Alike t) (h' : t.Alike u) : s.Alike u := by
  obtain ⟨⟨es, rfl⟩, hel⟩ := h
  obtain ⟨⟨fs, rfl⟩, hel'⟩ := h'
  exact ⟨⟨fs, rfl⟩, fun le => (hel' le).trans (hel le)⟩

variable {s t : State} (h : s.Alike t)
include h

theorem el (le : Nat) : t.el le = s.el le := h.2 le

theorem cur : t.cur = s.cur := by
  obtain ⟨⟨es, rfl⟩, -⟩ := h
  rfl

theorem mem : t.mem = s.mem := by
  obtain ⟨⟨es, rfl⟩, -⟩ := h
  rfl

theorem th : t.th = s.th := by
  rw [State.th, State.thOf, h.cur, h.el]
  rfl

theorem drawLe : t.drawLe = s.drawLe := by
  have hth := h.th
  obtain ⟨⟨es, rfl⟩, -⟩ := h
  rw [State.drawLe, hth]
  rfl

theorem updEl (le : Nat) (f : Element → Element) : (s.updEl le f).Alike (t.updEl le f) := by
  refine ⟨?_, fun m => ?_⟩
  · obtain ⟨⟨es, rfl⟩, -⟩ := h
    exact ⟨_, rfl⟩
  · obtain rfl | hm := Decidable.em (m = le)
    · rw [State.el_updEl_same, State.el_updEl_same, h.el]
    · rw [State.el_updEl_other _ _ hm, State.el_updEl_other _ _ hm, h.el]

theorem updTh (f : ThreadSet → ThreadSet) : (s.updTh f).Alike (t.updTh f) := by
  rw [State.updTh, State.updTh, h.cur]
  exact h.updEl _ _

end State.Alike

/-- A change that leaves its element as it was. -/
theorem State.updEl_alike_self {s : State} {le : Nat} {f : Element → Element} (h : f (s.el le) = s.el le) : s.Alike (s.updEl le f) := by
  refine ⟨⟨_, rfl⟩, fun m => ?_⟩
  obtain rfl | hm := Decidable.em (m = le)
  · rw [State.el_updEl_same, h]
  · rw [State.el_updEl_other _ _ hm]

/-- Two changes of one element are one. -/
theorem State.updEl_updEl_alike (s : State) (le : Nat) (f g : Element → Element) :
    (s.updEl le fun e => g (f e)).Alike ((s.updEl le f).updEl le g) := by
  refine ⟨⟨_, rfl⟩, fun m => ?_⟩
  obtain rfl | hm := Decidable.em (m = le)
  · simp only [State.el_updEl_same]
  · simp only [State.el_updEl_other _ _ hm]

/-- Two changes that do not touch the same part of an element may be made in either order. -/
theorem State.updEl_comm_alike (s : State) (le m : Nat) {f g : Element → Element} (h : ∀ e, f (g e) = g (f e)) :
    ((s.updEl m g).updEl le f).Alike ((s.updEl le f).updEl m g) := by
  refine ⟨⟨_, rfl⟩, fun j => ?_⟩
  obtain rfl | hl := Decidable.em (j = le)
  · obtain rfl | hm := Decidable.em (j = m)
    · simp only [State.el_updEl_same, h]
    · simp only [State.el_updEl_same, State.el_updEl_other _ _ hm]
  · obtain rfl | hm := Decidable.em (j = m)
    · simp only [State.el_updEl_same, State.el_updEl_other _ _ hl]
    · simp only [State.el_updEl_other _ _ hl, State.el_updEl_other _ _ hm]

theorem vset_vset {α : Type} {n : Nat} (v : Vector α (n + 1)) (k : Nat) (x y : α) : vset (vset v k x) k y = vset v k y := by
  simp [vset]

/-- Two changes of the issuing set are one. -/
theorem State.updTh_updTh_alike (s : State) (f g : ThreadSet → ThreadSet) : (s.updTh fun t => g (f t)).Alike ((s.updTh f).updTh g) := by
  have h := s.updEl_updEl_alike s.cur.1 (fun e => { e with sets := vset e.sets s.cur.2 (f (vget e.sets s.cur.2)) })
    (fun e => { e with sets := vset e.sets s.cur.2 (g (vget e.sets s.cur.2)) })
  simp only [vget_vset_same, vset_vset] at h
  exact h

/-- A change that leaves the issuing set as it was. -/
theorem State.updTh_alike_self {s : State} {f : ThreadSet → ThreadSet} (h : f s.th = s.th) : s.Alike (s.updTh f) := by
  rw [State.updTh, State.updThOf]
  refine State.updEl_alike_self ?_
  have hset : vset (s.el s.cur.1).sets s.cur.2 (vget (s.el s.cur.1).sets s.cur.2) = (s.el s.cur.1).sets := by simp [vset, vget]
  exact congrArg (fun v => { s.el s.cur.1 with sets := v }) ((congrArg (vset _ _) h).trans hset)

/-- What is `s` with its issuing set made `u` differs from `s` in that set only. -/
theorem State.Alike.onlySet {s t : State} {u : ThreadSet} (h : (s.updTh fun _ => u).Alike t) : s.onlySet t u := by
  have hth : t.th = u := h.th.trans (s.th_updTh _)
  obtain ⟨⟨es, rfl⟩, hel⟩ := h
  refine ⟨rfl, hth, fun le k hne => ?_, fun le => ?_, rfl⟩
  · have hother : le ≠ s.cur.1 ∨ k % 4 ≠ s.cur.2 % 4 := by
      rw [← Decidable.not_and_iff_not_or_not]
      exact fun ⟨hl, hk⟩ => hne (by rw [hl, hk])
    rw [State.thOf, hel]
    exact State.thOf_updThOf_other s _ hother
  · rw [hel]
    obtain rfl | hm := Decidable.em (le = s.cur.1)
    · rw [State.updTh, State.updThOf, State.el_updEl_same]
    · rw [State.updTh, State.updThOf, State.el_updEl_other _ _ hm]

/-! ### Issue (R340, R352) -/

/-- Issue leaves a state alone in which nothing read is damaged and no token read is new. -/
theorem State.issued_alike {s : State} {rds wrs : List (Cls × Opnd)} (h : s.clearFor rds wrs = true) : s.Alike (s.issued rds) := by
  simp only [State.clearFor, Bool.and_eq_true, List.all_eq_true] at h
  obtain ⟨⟨-, hsound⟩, htoks⟩ := h
  have hbad : s.th.badRegs.filter (fun r => (s.th.readsOf rds).contains r) = [] := by
    refine List.filter_eq_nil_iff.2 fun r hr hread => ?_
    have := hsound r (List.contains_iff_mem.1 hread)
    simp [hr] at this
  have hkept : s.th.badRegs.filter (fun r => !(s.th.readsOf rds).contains r) = s.th.badRegs := by
    refine List.filter_eq_self.2 fun r hr => ?_
    simpa using List.filter_eq_nil_iff.1 hbad r hr
  have hmended : s.Alike (s.mended rds) := by
    rw [State.mended]
    rw [hbad]
    exact State.updTh_alike_self (by rw [hkept])
  have hread : s.th.barTok.filter (fun b => b.1 == s.th.inSup && rds.contains (.g, .reg b.2)) = [] := by
    refine List.filter_eq_nil_iff.2 fun b hb hnew => ?_
    simp only [Bool.and_eq_true, beq_iff_eq, List.contains_iff_mem] at hnew
    have := htoks _ hnew.2
    rw [← hnew.1] at this
    simp [hb] at this
  rw [State.issued, State.barRead]
  rw [hmended.th, hread]
  exact hmended

/-! ### Draws (R71, R73) -/

/-- The generator of element `le` at `x`. -/
def State.reseed (le : Nat) (x : Word) (s : State) : State := s.updEl le (fun e => { e with srseed := x })

/-- Draws move the generator drawn from; no draw, or another mode than 5, leaves it. -/
theorem State.draws_alike (m n : Nat) (s : State) :
    ∃ x, (s.reseed s.drawLe x).Alike (s.draws m n).2 ∧ (m ≠ 5 ∨ n = 0 → x = (s.el s.drawLe).srseed) := by
  obtain rfl | hm := Decidable.em (m = 5)
  · refine ⟨_, .refl _, fun h => ?_⟩
    obtain rfl := h.resolve_left (fun h => h rfl)
    rfl
  · refine ⟨_, ?_, fun _ => rfl⟩
    rw [State.draws, if_neg hm]
    exact (State.updEl_alike_self rfl).symm

@[simp] theorem State.draws_th (m n : Nat) (s : State) : (s.draws m n).2.th = s.th := by
  obtain ⟨x, h, -⟩ := s.draws_alike m n
  exact h.th.trans (State.th_updEl_of_sets _ _ fun _ => rfl)

/-- With the generator put back, draws and then a change of the issuing set are that change. -/
theorem State.draws_updTh_reseed_alike (m n : Nat) (f : ThreadSet → ThreadSet) (s : State) :
    (s.updTh f).Alike (((s.draws m n).2.updTh f).reseed s.drawLe (s.el s.drawLe).srseed) := by
  obtain ⟨x, h, -⟩ := s.draws_alike m n
  have hback : s.Alike ((s.reseed s.drawLe x).reseed s.drawLe (s.el s.drawLe).srseed) :=
    (State.updEl_alike_self rfl).trans (State.updEl_updEl_alike ..)
  have hcomm : (((s.reseed s.drawLe x).reseed s.drawLe (s.el s.drawLe).srseed).updTh f).Alike
      (((s.reseed s.drawLe x).updTh f).reseed s.drawLe (s.el s.drawLe).srseed) := by
    unfold State.updTh State.updThOf State.reseed
    exact State.updEl_comm_alike _ _ _ fun _ => rfl
  exact ((hback.updTh f).trans hcomm).trans ((h.updTh f).updEl _ _)

/-- What draws nothing is the change alone. -/
theorem State.draws_updTh_alike {m n : Nat} (hmn : m ≠ 5 ∨ n = 0) (f : ThreadSet → ThreadSet) (s : State) :
    (s.updTh f).Alike ((s.draws m n).2.updTh f) := by
  obtain ⟨x, h, hx⟩ := s.draws_alike m n
  rw [hx hmn] at h
  exact ((State.updEl_alike_self rfl).trans h).updTh f

end Sys2Proof.Machine
end

section
/-! What a retiring instruction leaves of its thread set: one register, the flags and the pc (R34, R67, R196, R352). -/
namespace Sys2Proof.Machine

/-- The write goes to register `d` of class `c`. -/
inductive RegWrite.Names : Cls → RegNo → RegWrite → Prop
  | g (d : RegNo) (x : Word) : Names .g d (.g d x)
  | f (d : RegNo) (x : FReg) : Names .f d (.f d x)
  | v (d : RegNo) (x : VReg) : Names .v d (.v d x)

/-- A write of a register in its thread set; a push at a port is none. -/
def ThreadSet.put (t : ThreadSet) : RegWrite → ThreadSet
  | .g n x => t.wg n x
  | .f n x => t.wf n x
  | .v n x => t.wv n x
  | .port _ _ => t

/-- A retirement in its thread set: the write, the flags and the pc. -/
def ThreadSet.settle (w : RegWrite) (fl : FpFlags) (t : ThreadSet) : ThreadSet := ((t.put w).raise fl).advance

/-- The retirement of the issuing set's instruction with write `w` and flags `fl`. -/
def State.settle (w : RegWrite) (fl : FpFlags) (s : State) : State := ((s.write w).updTh (·.raise fl)).advance

@[simp] theorem ThreadSet.raise_zero (t : ThreadSet) : t.raise 0 = t := by simp [ThreadSet.raise]

theorem State.write_eq_updTh {c : Cls} {d : RegNo} {w : RegWrite} (hw : w.Names c d) (s : State) : s.write w = s.updTh (·.put w) := by
  cases hw <;> rfl

theorem State.settle_alike {c : Cls} {d : RegNo} {w : RegWrite} (hw : w.Names c d) (fl : FpFlags) (s : State) :
    (s.updTh (·.settle w fl)).Alike (s.settle w fl) := by
  rw [State.settle, State.write_eq_updTh hw]
  exact (State.updTh_updTh_alike s (fun t => (t.put w).raise fl) _).trans ((s.updTh_updTh_alike (·.put w) _).updTh _)

/-- What raises no flag settles without them. -/
theorem State.write_advance_alike {c : Cls} {d : RegNo} {w : RegWrite} (hw : w.Names c d) (s : State) :
    (s.updTh (·.settle w 0)).Alike (s.write w).advance := by
  rw [State.write_eq_updTh hw]
  have h := s.updTh_updTh_alike (·.put w) (·.advance)
  simp only [ThreadSet.settle, ThreadSet.raise_zero]
  exact h

/-! ### Flags (R67) -/

/-- Flags raised stand in bits 3 to 7 of `fcsr`. -/
theorem raised_bits (fl : FpFlags) : (fl.setWidth 64 <<< 3 : Word) ||| 0xF8 = 0xF8 := by
  revert fl
  decide

theorem ThreadSet.raise_outside (fl : FpFlags) (t : ThreadSet) : (t.raise fl).fcsr ||| 0xF8 = t.fcsr ||| 0xF8 := by
  rw [ThreadSet.raise, BitVec.or_assoc, raised_bits]

theorem ThreadSet.raise_keeps (fl : FpFlags) (t : ThreadSet) : t.fcsr &&& 0xF8 &&& ~~~(t.raise fl).fcsr = 0 := by
  have hdisjoint : t.fcsr &&& ~~~t.fcsr = 0#64 := BitVec.and_not_self _
  rw [ThreadSet.raise, BitVec.not_or, ← BitVec.and_assoc, BitVec.and_assoc t.fcsr, BitVec.and_comm (0xF8 : Word), ← BitVec.and_assoc, hdisjoint,
    BitVec.zero_and, BitVec.zero_and]
  rfl

/-! ### The registers of each class (R34, R352) -/

/-- A write takes its own register out of those in error, and no other. -/
theorem contains_filter_ne {α : Type} [BEq α] [LawfulBEq α] {key r : α} (h : r ≠ key) (rs : List α) :
    (rs.filter (· != key)).contains r = rs.contains r := by
  simp [List.contains_eq_mem, h]

theorem ThreadSet.put_frame (t : ThreadSet) (w : RegWrite) : (t.put w).frame = t.frame := by
  cases w <;> simp [ThreadSet.put]

theorem ThreadSet.put_pc (t : ThreadSet) (w : RegWrite) : (t.put w).pc = t.pc := by
  cases w <;> simp [ThreadSet.put]

theorem ThreadSet.put_fcsr (t : ThreadSet) (w : RegWrite) : (t.put w).fcsr = t.fcsr := by
  cases w <;> simp [ThreadSet.put]

/-- A write of `g0` leaves the set, and another one its register of the bank in use. -/
theorem ThreadSet.wg_cases (d : RegNo) (x : Word) (t : ThreadSet) : t.wg d x = t ∨
    (t.inSup = true ∧ t.wg d x = { t with sg := rset t.sg d x }.logWrite (true, .g d)) ∨
    (t.inSup = false ∧ t.wg d x = { t with g := rset t.g d x }.logWrite (false, .g d)) := by
  unfold ThreadSet.wg ThreadSet.wgIn
  split
  · exact .inl rfl
  · cases hs : t.inSup
    · exact .inr (.inr ⟨rfl, rfl⟩)
    · exact .inr (.inl ⟨rfl, rfl⟩)

theorem ThreadSet.wg_onlyG (d : RegNo) (x : Word) (t : ThreadSet) : t.onlyG (t.wg d x) d := by
  refine ⟨fun m hm => t.rg_wg_other x hm, ?_⟩
  obtain h | ⟨hs, h⟩ | ⟨hs, h⟩ := t.wg_cases d x <;> rw [h]
  · exact ⟨by split <;> rfl, fun _ _ => rfl, rfl⟩
  · exact ⟨by rw [hs]; rfl, fun r hr => contains_filter_ne (hs ▸ hr) _, rfl⟩
  · exact ⟨by rw [hs]; rfl, fun r hr => contains_filter_ne (hs ▸ hr) _, rfl⟩

section
variable {t : ThreadSet} (hframe : t.frame = none)
include hframe

/-- Outside a repeat frame a retirement is the write, the flags and the next address. -/
theorem ThreadSet.settle_of_none (w : RegWrite) (fl : FpFlags) :
    t.settle w fl = { t.put w with fcsr := (t.raise fl).fcsr, pc := t.pc + 4, frame := none } := by
  have hnone : ((t.put w).raise fl).frame = none := (t.put_frame w).trans hframe
  rw [ThreadSet.settle, ThreadSet.advance, hnone]
  simp only [ThreadSet.raise, ThreadSet.put_pc, ThreadSet.put_fcsr]

theorem ThreadSet.settle_pc (w : RegWrite) (fl : FpFlags) : (t.settle w fl).pc = t.pc + 4 := by
  rw [ThreadSet.settle_of_none hframe]

theorem ThreadSet.settle_fcsr (w : RegWrite) : (t.settle w 0).fcsr = t.fcsr := by
  rw [ThreadSet.settle_of_none hframe, ThreadSet.raise_zero]

theorem ThreadSet.settle_onlyGFlags (d : RegNo) (x : Word) (fl : FpFlags) : t.onlyGFlags (t.settle (.g d x) fl) d := by
  rw [ThreadSet.settle_of_none hframe]
  obtain ⟨hother, hbank, hbad, hrest⟩ := t.wg_onlyG d x
  rw [ThreadSet.wg_fcsr] at hrest
  exact ⟨⟨hother, hbank, hbad, hrest⟩, t.raise_outside fl, t.raise_keeps fl⟩

theorem ThreadSet.settle_onlyF (d : RegNo) (x : FReg) (fl : FpFlags) : t.onlyF (t.settle (.f d x) fl) d := by
  rw [ThreadSet.settle_of_none hframe]
  exact ⟨fun m hm => rget_rset_other t.f x hm, t.raise_outside fl, t.raise_keeps fl, fun r hr => contains_filter_ne hr _, rfl⟩

theorem ThreadSet.settle_onlyV (d : RegNo) (x : VReg) (fl : FpFlags) : t.onlyV (t.settle (.v d x) fl) d := by
  rw [ThreadSet.settle_of_none hframe]
  exact ⟨fun m hm => rget_rset_other t.v x hm, t.raise_outside fl, t.raise_keeps fl, fun r hr => contains_filter_ne hr _, rfl⟩

end

end Sys2Proof.Machine
end

section
/-! Floating-point and vector rows on registers: each retires with one write, its flags and its draws (R200 to R209, R240 to R243), and O41 from
that. -/
namespace Sys2Proof.Machine

/-! ### A row and what it leaves -/

/-- The conditions under which a row acts at once: its operands are registers and ready, its result is not checked, and the quad's unit is free. -/
structure FvRow.Clear (r : FvRow) (d : RegNo) (s : State) : Prop where
  dest : r.d = .reg d
  regs : ∀ x ∈ r.rds, ∃ n, x.2 = .reg n
  ready : s.readyFor r.rds [(r.cls, .reg d)] = true
  unchecked : ∀ k, r.checked = some k → s.th.sigctl.getLsbD k = false
  unit : r.vec = true → (Map.get Quad.start s.quads (s.quadOf s.cur.1)).wops = []

/-- `t` is what a row leaves: `n` draws under mode `m`, the write of its destination, and its flags. -/
structure FvRow.Leaves (r : FvRow) (d : RegNo) (s t : State) (m n : Nat) (w : RegWrite) (fl : FpFlags) : Prop where
  state : (((s.issued r.rds).draws m n).2.updTh (·.settle w fl)).Alike t
  names : w.Names r.cls d
  mode : ∀ k, r.rounds = some k → m = s.th.cvtMode k
  still : r.rounds = none → n = 0
  quiet : r.flags = false → fl = 0

/-- The outcome is that of the row. -/
def FvRow.Answers (r : FvRow) (d : RegNo) (s : State) (o : Host.Outcome State Fault Refusal) : Prop :=
  ∃ t m n w fl, o = .next t ∧ r.Leaves d s t m n w fl

section
variable {r : FvRow} {d : RegNo} {s : State} {k : State → Host.Outcome State Fault Refusal} {w : RegWrite} {fl : FpFlags}

theorem State.draws_none (s : State) : (s.draws 0 0).2 = s := rfl

/-- What is ready acts in the issued state. -/
theorem FvRow.Clear.issues (h : r.Clear d s) (hk : r.Answers d s (k (s.issued r.rds))) :
    r.Answers d s (withIssue r.rds [(r.cls, .reg d)] k s) := by
  rwa [withIssue_of_readyFor h.ready]

theorem FvRow.Clear.takesUnit (h : r.Clear d s) (hv : r.vec = true) (hk : r.Answers d s (k (s.issued r.rds))) :
    r.Answers d s (withVec r.rds [(r.cls, .reg d)] k s) := by
  rw [withVec, h.unit hv]
  exact h.issues hk

/-- A row that draws under its mode, writes and raises. -/
theorem FvRow.answers_settled {md n : Nat} (hm : ∀ m, r.rounds = some m → md = (s.issued r.rds).th.cvtMode m) (hn : r.rounds = none → n = 0)
    (hf : r.flags = false → fl = 0) (hw : w.Names r.cls d) : r.Answers d s (.next (((s.issued r.rds).draws md n).2.settle w fl)) :=
  ⟨_, md, n, w, fl, rfl, State.settle_alike hw fl _, hw, fun m h => (hm m h).trans (s.issued_cvtMode _ m), hn, hf⟩

/-- A row that rounds, once its result passes. -/
theorem FvRow.answers_rounded {m : RmField} {md n : Nat} (hr : r.rounds = some m) (hm : md = (s.issued r.rds).th.cvtMode m)
    (hf : r.flags = true) (hw : w.Names r.cls d) : r.Answers d s (.next (((s.issued r.rds).draws md n).2.settle w fl)) :=
  FvRow.answers_settled (fun _ h => by rw [← Option.some.inj (hr.symm.trans h), hm]) (fun h => nomatch hr.symm.trans h)
    (fun h => nomatch hf.symm.trans h) hw

/-- A row that rounds nothing and raises flags. -/
theorem FvRow.answers_raised (hr : r.rounds = none) (hf : r.flags = false → fl = 0) (hw : w.Names r.cls d) :
    r.Answers d s (.next ((s.issued r.rds).settle w fl)) := by
  have h : r.Answers d s (.next (((s.issued r.rds).draws 0 0).2.settle w fl)) :=
    FvRow.answers_settled (fun _ h => nomatch hr.symm.trans h) (fun _ => rfl) hf hw
  rwa [State.draws_none] at h

/-- A row that rounds nothing and raises none. -/
theorem FvRow.answers_written (hm : r.rounds = none) (hw : w.Names r.cls d) :
    r.Answers d s (.next ((s.issued r.rds).write w).advance) := by
  refine ⟨_, 0, 0, w, 0, rfl, ?_, hw, fun _ hk => (nomatch hm.symm.trans hk), fun _ => rfl, fun _ => rfl⟩
  rw [State.draws_none]
  exact State.write_advance_alike hw _

end

/-! ### Results put in registers -/

theorem State.retireF_reg (x : FpRes × Nat) (n : RegNo) (s : State) :
    s.retireF x (.reg n) = s.settle (.f n ⟨BitVec.ofNat 64 x.1.bits, x.2⟩) x.1.fl := rfl

theorem State.retireV_reg (t : LaneType) (rs : List LaneRes) (n : RegNo) (s : State) :
    s.retireV t rs (.reg n) = s.settle (.v n (laneReg t rs)) (laneFlags rs) := rfl

theorem State.putV_raise (n : RegNo) (x : VReg) (fl : FpFlags) (s : State) :
    ((s.putV (.reg n) x).updTh (·.raise fl)).advance = s.settle (.v n x) fl := rfl

/-! ### Scalar rows -/

theorem State.issued_sigctl (rds : List (Cls × Opnd)) (s : State) : (s.issued rds).th.sigctl = s.th.sigctl := by
  obtain ⟨bad, toks, h⟩ := s.issued_th rds
  rw [h]

theorem ThreadSet.fails_of_unchecked {t : ThreadSet} (h : t.sigctl.getLsbD 8 = false) (c : Nat) : t.fails c = false := by
  rw [ThreadSet.fails, h, Bool.and_false, Bool.false_and]

section
variable {s : State} {n : RegNo} {d a b c : Opnd} {f : Fmt}

/-- A checked scalar result with its check off retires. -/
theorem FvRow.Clear.scalar {rds : List (Cls × Opnd)} {m : RmField} (h : (FvRow.arith rds (.reg n) m).Clear n s) {md : Nat}
    (hm : md = (s.issued rds).th.cvtMode m) (ts : Nat × Nat × Nat) (x : FpRes × Nat) :
    (FvRow.arith rds (.reg n) m).Answers n s
      (fpRetire rds (.reg n) ts x ((s.issued rds).draws md 1).2 ((s.issued rds).draws md 1).2) := by
  have hsig : ((s.issued rds).draws md 1).2.th.sigctl.getLsbD 8 = false := by
    rw [State.draws_th, State.issued_sigctl]
    exact h.unchecked 8 rfl
  rw [fpRetire_of_passes (ThreadSet.fails_of_unchecked hsig _), State.retireF_reg]
  exact FvRow.answers_rounded rfl hm rfl (.f n _)

theorem fpOp1_answers {k : Nat → Nat → Opv → FpRes × Nat} (h : (FvRow.arith [(.f, a)] d .dyn).Clear n s) :
    (FvRow.arith [(.f, a)] d .dyn).Answers n s (fpOp1 f k d a s) := by
  obtain rfl : d = .reg n := h.dest
  obtain ⟨a, rfl⟩ : ∃ n, a = .reg n := h.regs (.f, a) (.head _)
  refine h.issues ?_
  dsimp only [FvRow.arith, State.takeF_reg]
  exact h.scalar rfl _ _

theorem fpOp2_answers {k : Nat → Nat → Opv → Opv → FpRes × Nat} (h : (FvRow.arith [(.f, a), (.f, b)] d .dyn).Clear n s) :
    (FvRow.arith [(.f, a), (.f, b)] d .dyn).Answers n s (fpOp2 f k d a b s) := by
  obtain rfl : d = .reg n := h.dest
  obtain ⟨a, rfl⟩ : ∃ n, a = .reg n := h.regs (.f, a) (.head _)
  obtain ⟨b, rfl⟩ : ∃ n, b = .reg n := h.regs (.f, b) (.tail _ (.head _))
  refine h.issues ?_
  dsimp only [FvRow.arith, State.takeF_reg]
  exact h.scalar rfl _ _

theorem execFfma_answers {dbl : Bool} (h : (FvRow.arith [(.f, a), (.f, b), (.f, c)] d .dyn).Clear n s) :
    (FvRow.arith [(.f, a), (.f, b), (.f, c)] d .dyn).Answers n s (execFfma dbl d a b c s) := by
  obtain rfl : d = .reg n := h.dest
  obtain ⟨a, rfl⟩ : ∃ n, a = .reg n := h.regs (.f, a) (.head _)
  obtain ⟨b, rfl⟩ : ∃ n, b = .reg n := h.regs (.f, b) (.tail _ (.head _))
  obtain ⟨c, rfl⟩ : ∃ n, c = .reg n := h.regs (.f, c) (.tail _ (.tail _ (.head _)))
  refine h.issues ?_
  dsimp only [FvRow.arith, State.takeF_reg]
  exact h.scalar rfl _ _

theorem execFcvt_answers {r : FvRow} {dst src : CvtType} {m : RmField} (hr : fvTable (.fcvt dst src m d a) = some r) (h : r.Clear n s) :
    r.Answers n s (execFcvt dst src m d a s) := by
  unfold fvTable at hr
  dsimp only at hr
  unfold execFcvt
  cases hs : cvtFmt src <;> cases hd : cvtFmt dst <;> rw [hs, hd] at hr <;> cases hr
  case none.some fd =>
    obtain rfl : d = .reg n := h.dest
    obtain ⟨a, rfl⟩ : ∃ n, a = .reg n := h.regs (.g, a) (.head _)
    refine h.issues ?_
    dsimp only [FvRow.arith, State.takeG_reg]
    exact h.scalar rfl _ _
  case some.none fs =>
    obtain rfl : d = .reg n := h.dest
    obtain ⟨a, rfl⟩ : ∃ n, a = .reg n := h.regs (.f, a) (.head _)
    refine h.issues ?_
    dsimp only [State.takeF_reg]
    exact FvRow.answers_rounded rfl rfl rfl (.g n _)
  case some.some fs fd =>
    obtain rfl : d = .reg n := h.dest
    obtain ⟨a, rfl⟩ : ∃ n, a = .reg n := h.regs (.f, a) (.head _)
    refine h.issues ?_
    dsimp only [FvRow.arith, State.takeF_reg]
    exact h.scalar rfl _ _

theorem fpMove1_answers {k : Nat → Nat} (h : (FvRow.move [(.f, a)] .f d false).Clear n s) :
    (FvRow.move [(.f, a)] .f d false).Answers n s (fpMove1 f k d a s) := by
  obtain rfl : d = .reg n := h.dest
  obtain ⟨a, rfl⟩ : ∃ n, a = .reg n := h.regs (.f, a) (.head _)
  refine h.issues ?_
  dsimp only [State.takeF_reg]
  exact FvRow.answers_written rfl (.f n _)

theorem fpMove2_answers {k : Opv → Opv → Nat × Nat} (h : (FvRow.move [(.f, a), (.f, b)] .f d false).Clear n s) :
    (FvRow.move [(.f, a), (.f, b)] .f d false).Answers n s (fpMove2 f k d a b s) := by
  obtain rfl : d = .reg n := h.dest
  obtain ⟨a, rfl⟩ : ∃ n, a = .reg n := h.regs (.f, a) (.head _)
  obtain ⟨b, rfl⟩ : ∃ n, b = .reg n := h.regs (.f, b) (.tail _ (.head _))
  refine h.issues ?_
  dsimp only [State.takeF_reg]
  exact FvRow.answers_written rfl (.f n _)

theorem execFclass_answers {t : FType} (h : (FvRow.move [(.f, a)] .g d false).Clear n s) :
    (FvRow.move [(.f, a)] .g d false).Answers n s (execFclass t d a s) := by
  obtain rfl : d = .reg n := h.dest
  obtain ⟨a, rfl⟩ : ∃ n, a = .reg n := h.regs (.f, a) (.head _)
  refine h.issues ?_
  dsimp only [State.takeF_reg]
  exact FvRow.answers_written rfl (.g n _)

theorem execFcmp_answers {t : FType} {cond : FCond} (h : (FvRow.move [(.f, a), (.f, b)] .g d true).Clear n s) :
    (FvRow.move [(.f, a), (.f, b)] .g d true).Answers n s (execFcmp t cond d a b s) := by
  obtain rfl : d = .reg n := h.dest
  obtain ⟨a, rfl⟩ : ∃ n, a = .reg n := h.regs (.f, a) (.head _)
  obtain ⟨b, rfl⟩ : ∃ n, b = .reg n := h.regs (.f, b) (.tail _ (.head _))
  refine h.issues ?_
  dsimp only [State.takeF_reg]
  exact FvRow.answers_raised rfl nofun (.g n _)

theorem execFmovi_answers {x : BitVec 12} (h : (FvRow.move [] .f d false).Clear n s) :
    (FvRow.move [] .f d false).Answers n s (execFmovi d x s) := by
  obtain rfl : d = .reg n := h.dest
  exact h.issues (FvRow.answers_written rfl (.f n _))

theorem execFtc_answers {x : RegNo} {v : Bool} {l : BitVec 2} (h : (FvRow.move [(if v then .v else .f, .reg x)] .g d false).Clear n s) :
    (FvRow.move [(if v then .v else .f, .reg x)] .g d false).Answers n s (execFtc d x v l s) := by
  obtain rfl : d = .reg n := h.dest
  exact h.issues (FvRow.answers_written rfl (.g n _))

theorem execFstc_answers {x : RegNo} {v : Bool} {l : BitVec 2} (h : (FvRow.move [(.g, a)] (if v then .v else .f) (.reg x) false).Clear n s) :
    (FvRow.move [(.g, a)] (if v then .v else .f) (.reg x) false).Answers n s (execFstc x a v l s) := by
  obtain rfl : x = n := Opnd.reg.inj h.dest
  obtain ⟨a, rfl⟩ : ∃ n, a = .reg n := h.regs (.g, a) (.head _)
  cases v with
  | false =>
    refine h.issues ?_
    dsimp only [State.takeG_reg, Bool.false_eq_true, if_false]
    exact FvRow.answers_written (w := .f x _) rfl (.f x _)
  | true =>
    refine h.issues ?_
    dsimp only [State.takeG_reg, if_true]
    exact FvRow.answers_written (w := .v x _) rfl (.v x _)

end

/-! ### Vector rows -/

/-- A vector result with its check off retires. -/
theorem vRetire_of_unchecked {t : LaneType} {rds : List (Cls × Opnd)} {d : Opnd} {rs : List LaneRes} {s0 s1 : State}
    (h : s0.th.sigctl.getLsbD 9 = false) : vRetire t rds d rs s0 s1 = .next (s1.retireV t rs d) := by
  unfold vRetire
  dsimp only
  split
  · next q hq =>
    have hbad := List.find?_some hq
    split at hbad
    · rw [h, Bool.false_and] at hbad
      cases hbad
    · cases hbad
  · rfl

/-- A scalar operand in a register is read without a pop. -/
theorem State.takeScalar_reg (t : LaneType) (n : RegNo) (s : State) : (s.takeScalar t (.reg n)).2 = s := by
  unfold State.takeScalar
  split <;> rfl

/-- The row of `vcvt` by its types (R243). -/
def vcvtRow (dst src : LaneType) (d a : Opnd) : FvRow :=
  if (laneFmt dst).isSome || (laneFmt src).isSome
    then ⟨[(.v, a)], .v, d, some .dyn, if (laneFmt dst).isSome then some 9 else none, true, true⟩ else .lanes [(.v, a)] .v d true

section
variable {s : State} {n : RegNo} {d a b c : Opnd} {t : LaneType}

/-- A checked vector result with its check off retires, whatever its lane type. -/
theorem FvRow.Clear.lanes {rds : List (Cls × Opnd)} (h : (FvRow.laneArith true rds (.reg n)).Clear n s) {md : Nat}
    (hm : md = (s.issued rds).th.cvtMode .dyn) (t : LaneType) (rs : List LaneRes) (k : Nat) :
    (FvRow.laneArith true rds (.reg n)).Answers n s
      (vRetire t rds (.reg n) rs ((s.issued rds).draws md k).2 ((s.issued rds).draws md k).2) := by
  have hsig : ((s.issued rds).draws md k).2.th.sigctl.getLsbD 9 = false := by
    rw [State.draws_th, State.issued_sigctl]
    exact h.unchecked 9 rfl
  rw [vRetire_of_unchecked hsig, State.retireV_reg]
  exact FvRow.answers_rounded rfl hm rfl (.v n _)

theorem vArith_answers {kf : Fmt → Nat → Nat → Opv → Opv → FpRes × Nat} {ki : Int → Int → Int}
    (h : (FvRow.laneArith (laneFmt t).isSome [(.v, a), (.v, b)] d).Clear n s) :
    (FvRow.laneArith (laneFmt t).isSome [(.v, a), (.v, b)] d).Answers n s (vArith t kf ki d a b s) := by
  unfold vArith
  revert h
  cases laneFmt t with
  | none =>
    intro h
    obtain rfl : d = .reg n := h.dest
    obtain ⟨a, rfl⟩ : ∃ n, a = .reg n := h.regs (.v, a) (.head _)
    obtain ⟨b, rfl⟩ : ∃ n, b = .reg n := h.regs (.v, b) (.tail _ (.head _))
    refine h.takesUnit rfl ?_
    dsimp only [State.takeV_reg]
    exact FvRow.answers_written rfl (.v n _)
  | some f =>
    intro h
    obtain rfl : d = .reg n := h.dest
    obtain ⟨a, rfl⟩ : ∃ n, a = .reg n := h.regs (.v, a) (.head _)
    obtain ⟨b, rfl⟩ : ∃ n, b = .reg n := h.regs (.v, b) (.tail _ (.head _))
    refine h.takesUnit rfl ?_
    dsimp only [State.takeV_reg]
    exact h.lanes rfl ..

theorem execVred_answers (h : (FvRow.laneArith (laneFmt t).isSome [(.v, a)] d).Clear n s) :
    (FvRow.laneArith (laneFmt t).isSome [(.v, a)] d).Answers n s (execVred t d a s) := by
  unfold execVred
  revert h
  cases laneFmt t with
  | none =>
    intro h
    obtain rfl : d = .reg n := h.dest
    obtain ⟨a, rfl⟩ : ∃ n, a = .reg n := h.regs (.v, a) (.head _)
    refine h.takesUnit rfl ?_
    dsimp only [State.takeV_reg]
    exact FvRow.answers_written rfl (.v n _)
  | some f =>
    intro h
    obtain rfl : d = .reg n := h.dest
    obtain ⟨a, rfl⟩ : ∃ n, a = .reg n := h.regs (.v, a) (.head _)
    refine h.takesUnit rfl ?_
    dsimp only [State.takeV_reg]
    exact h.lanes rfl ..

theorem execVdot_answers (h : (FvRow.laneArith (laneFmt t).isSome [(.v, a), (.v, b)] d).Clear n s) :
    (FvRow.laneArith (laneFmt t).isSome [(.v, a), (.v, b)] d).Answers n s (execVdot t d a b s) := by
  unfold execVdot
  revert h
  cases laneFmt t with
  | none =>
    intro h
    obtain rfl : d = .reg n := h.dest
    obtain ⟨a, rfl⟩ : ∃ n, a = .reg n := h.regs (.v, a) (.head _)
    obtain ⟨b, rfl⟩ : ∃ n, b = .reg n := h.regs (.v, b) (.tail _ (.head _))
    refine h.takesUnit rfl ?_
    dsimp only [State.takeV_reg]
    exact FvRow.answers_written rfl (.v n _)
  | some f =>
    intro h
    obtain rfl : d = .reg n := h.dest
    obtain ⟨a, rfl⟩ : ∃ n, a = .reg n := h.regs (.v, a) (.head _)
    obtain ⟨b, rfl⟩ : ∃ n, b = .reg n := h.regs (.v, b) (.tail _ (.head _))
    refine h.takesUnit rfl ?_
    dsimp only [State.takeV_reg]
    exact h.lanes rfl ..

theorem vfmaOp_answers {f : Fmt} (h : (FvRow.laneArith true [(.v, a), (.v, b), (.v, c)] d).Clear n s) :
    (FvRow.laneArith true [(.v, a), (.v, b), (.v, c)] d).Answers n s (vfmaOp t f d a b c s) := by
  obtain rfl : d = .reg n := h.dest
  obtain ⟨a, rfl⟩ : ∃ n, a = .reg n := h.regs (.v, a) (.head _)
  obtain ⟨b, rfl⟩ : ∃ n, b = .reg n := h.regs (.v, b) (.tail _ (.head _))
  obtain ⟨c, rfl⟩ : ∃ n, c = .reg n := h.regs (.v, c) (.tail _ (.tail _ (.head _)))
  refine h.takesUnit rfl ?_
  dsimp only [State.takeV_reg]
  exact h.lanes rfl ..

theorem vMove1_answers {k : VReg → Nat → Nat × Nat} (h : (FvRow.lanes [(.v, a)] .v d false).Clear n s) :
    (FvRow.lanes [(.v, a)] .v d false).Answers n s (vMove1 t k d a s) := by
  obtain rfl : d = .reg n := h.dest
  obtain ⟨a, rfl⟩ : ∃ n, a = .reg n := h.regs (.v, a) (.head _)
  refine h.takesUnit rfl ?_
  dsimp only [State.takeV_reg]
  exact FvRow.answers_written rfl (.v n _)

theorem vMove2_answers {k : VReg → VReg → Nat → Nat × Nat} {fl : VReg → VReg → FpFlags} {raises : Bool}
    (hfl : raises = false → ∀ x y, fl x y = 0) (h : (FvRow.lanes [(.v, a), (.v, b)] .v d raises).Clear n s) :
    (FvRow.lanes [(.v, a), (.v, b)] .v d raises).Answers n s (vMove2 t k fl d a b s) := by
  obtain rfl : d = .reg n := h.dest
  obtain ⟨a, rfl⟩ : ∃ n, a = .reg n := h.regs (.v, a) (.head _)
  obtain ⟨b, rfl⟩ : ∃ n, b = .reg n := h.regs (.v, b) (.tail _ (.head _))
  refine h.takesUnit rfl ?_
  dsimp only [State.takeV_reg]
  exact FvRow.answers_raised rfl (fun hr => hfl hr _ _) (.v n _)

theorem execVcmp_answers (h : (FvRow.lanes [(.v, a), (.v, b)] .v d true).Clear n s) :
    (FvRow.lanes [(.v, a), (.v, b)] .v d true).Answers n s (execVcmp t d a b s) := by
  unfold execVcmp
  split <;> exact vMove2_answers nofun h

theorem execVcvt_answers {dst src : LaneType} (h : (vcvtRow dst src d a).Clear n s) :
    (vcvtRow dst src d a).Answers n s (execVcvt dst src d a s) := by
  unfold execVcvt
  unfold vcvtRow at h ⊢
  cases hd : laneFmt dst with
  | some f =>
    simp only [hd, Option.isSome_some, Bool.true_or, if_true] at h ⊢
    obtain rfl : d = .reg n := h.dest
    obtain ⟨a, rfl⟩ : ∃ n, a = .reg n := h.regs (.v, a) (.head _)
    refine h.takesUnit rfl ?_
    dsimp only [State.takeV_reg]
    exact FvRow.Clear.lanes h rfl ..
  | none =>
    cases hs : laneFmt src with
    | some f =>
      simp only [hd, hs, Option.isSome_some, Option.isSome_none, Bool.or_true, if_true] at h ⊢
      obtain rfl : d = .reg n := h.dest
      obtain ⟨a, rfl⟩ : ∃ n, a = .reg n := h.regs (.v, a) (.head _)
      refine h.takesUnit rfl ?_
      dsimp only [State.takeV_reg]
      rw [State.putV_raise]
      exact FvRow.answers_rounded rfl rfl rfl (.v n _)
    | none =>
      simp only [hd, hs, Option.isSome_none, Bool.or_self, Bool.false_eq_true, if_false] at h ⊢
      obtain rfl : d = .reg n := h.dest
      obtain ⟨a, rfl⟩ : ∃ n, a = .reg n := h.regs (.v, a) (.head _)
      refine h.takesUnit rfl ?_
      dsimp only [State.takeV_reg]
      rw [State.putV_raise]
      exact FvRow.answers_settled nofun (fun _ => rfl) nofun (.v n _)

theorem execVbc_answers (h : (FvRow.lanes [(scalarCls t, a)] .v d false).Clear n s) :
    (FvRow.lanes [(scalarCls t, a)] .v d false).Answers n s (execVbc t d a s) := by
  obtain rfl : d = .reg n := h.dest
  obtain ⟨a, rfl⟩ : ∃ n, a = .reg n := h.regs (scalarCls t, a) (.head _)
  refine h.takesUnit rfl ?_
  dsimp only
  rw [State.takeScalar_reg]
  exact FvRow.answers_written rfl (.v n _)

theorem execVins_answers {x : RegNo} {l : BitVec 6} (h : (FvRow.lanes [(scalarCls t, a), (.v, .reg x)] .v (.reg x) false).Clear n s) :
    (FvRow.lanes [(scalarCls t, a), (.v, .reg x)] .v (.reg x) false).Answers n s (execVins t x a l s) := by
  obtain rfl : x = n := Opnd.reg.inj h.dest
  obtain ⟨a, rfl⟩ : ∃ n, a = .reg n := h.regs (scalarCls t, a) (.head _)
  refine h.takesUnit rfl ?_
  dsimp only
  rw [State.takeScalar_reg]
  exact FvRow.answers_written (w := .v x _) rfl (.v x _)

theorem execVsel_answers {x : RegNo} (h : (FvRow.lanes [(.v, a), (.v, b), (.v, .reg x)] .v (.reg x) false).Clear n s) :
    (FvRow.lanes [(.v, a), (.v, b), (.v, .reg x)] .v (.reg x) false).Answers n s (execVsel t x a b s) := by
  obtain rfl : x = n := Opnd.reg.inj h.dest
  obtain ⟨a, rfl⟩ : ∃ n, a = .reg n := h.regs (.v, a) (.head _)
  obtain ⟨b, rfl⟩ : ∃ n, b = .reg n := h.regs (.v, b) (.tail _ (.head _))
  refine h.takesUnit rfl ?_
  dsimp only [State.takeV_reg]
  exact FvRow.answers_written (w := .v x _) rfl (.v x _)

theorem execVext_answers {l : BitVec 6} (h : (FvRow.lanes [(.v, a)] (scalarCls t) d false).Clear n s) :
    (FvRow.lanes [(.v, a)] (scalarCls t) d false).Answers n s (execVext t d a l s) := by
  obtain rfl : d = .reg n := h.dest
  obtain ⟨a, rfl⟩ : ∃ n, a = .reg n := h.regs (.v, a) (.head _)
  refine h.takesUnit rfl ?_
  dsimp only [State.takeV_reg]
  revert h
  unfold scalarCls
  cases laneFmt t with
  | none =>
    intro h
    exact FvRow.answers_written rfl (.g n _)
  | some f =>
    intro h
    exact FvRow.answers_written rfl (.f n _)

end

/-! ### The rows of the table -/

theorem exec_of_laneArith {i : Instr} {t : LaneType} {kf : Fmt → Nat → Nat → Opv → Opv → FpRes × Nat} {ki : Int → Int → Int}
    {d a b : Opnd} (h : laneArith i = some (t, kf, ki, d, a, b)) (s : State) : exec i s = vArith t kf ki d a b s := by
  unfold laneArith at h
  split at h <;> cases h <;> rfl

theorem exec_of_laneTable2 {i : Instr} {t : LaneType} {k : VReg → VReg → Nat → Nat × Nat} {fl : VReg → VReg → FpFlags} {d a b : Opnd}
    (h : laneTable2 i = some (t, k, fl, d, a, b)) (s : State) : exec i s = vMove2 t k fl d a b s := by
  unfold laneTable2 at h
  split at h <;> cases h <;> rfl

/-- What a row of the table runs is what the row says. -/
theorem exec_answers_of_fvTable {i : Instr} {r : FvRow} {d : RegNo} {s : State} (hi : fvTable i = some r) (h : r.Clear d s) :
    r.Answers d s (exec i s) := by
  cases i
  case fcvt => exact execFcvt_answers hi h
  case fadd | fsub | fmul | fdiv =>
    obtain rfl := Option.some.inj hi
    rw [exec_of_floatTable2 rfl]
    exact fpOp2_answers h
  case fsqrt | frnd =>
    obtain rfl := Option.some.inj hi
    rw [exec_of_floatTable1 rfl]
    exact fpOp1_answers h
  case ffma => obtain rfl := Option.some.inj hi; exact execFfma_answers h
  case fmin | fmax | fsgn =>
    obtain rfl := Option.some.inj hi
    rw [exec_of_floatMoves2 rfl]
    exact fpMove2_answers h
  case fabs | fneg | fmov =>
    obtain rfl := Option.some.inj hi
    rw [exec_of_floatMoves1 rfl]
    exact fpMove1_answers h
  case fcmp => obtain rfl := Option.some.inj hi; exact execFcmp_answers h
  case fclass => obtain rfl := Option.some.inj hi; exact execFclass_answers h
  case fmovi => obtain rfl := Option.some.inj hi; exact execFmovi_answers h
  case ftc => obtain rfl := Option.some.inj hi; exact execFtc_answers h
  case fstc => obtain rfl := Option.some.inj hi; exact execFstc_answers h
  case vadd | vsub | vmul =>
    obtain rfl := Option.some.inj hi
    rw [exec_of_laneArith rfl]
    exact vArith_answers h
  case vdot => obtain rfl := Option.some.inj hi; exact execVdot_answers h
  case vred => obtain rfl := Option.some.inj hi; exact execVred_answers h
  case vfmaF32 | vfmaBf16 => obtain rfl := Option.some.inj hi; exact vfmaOp_answers h
  case vcvt => obtain rfl := Option.some.inj hi; exact execVcvt_answers h
  case vmin | vmax | vand | vor | vxor | vshl | vshr | vperm =>
    obtain rfl := Option.some.inj hi
    rw [exec_of_laneTable2 rfl]
    exact vMove2_answers (fun _ _ _ => rfl) h
  case vabs | vneg => obtain rfl := Option.some.inj hi; exact vMove1_answers h
  case vcmp => obtain rfl := Option.some.inj hi; exact execVcmp_answers h
  case vsel => obtain rfl := Option.some.inj hi; exact execVsel_answers h
  case vbc => obtain rfl := Option.some.inj hi; exact execVbc_answers h
  case vins => obtain rfl := Option.some.inj hi; exact execVins_answers h
  case vext => obtain rfl := Option.some.inj hi; exact execVext_answers h
  all_goals exact nomatch hi

/-! ### The frame -/

section
variable {s : State} {rds wrs : List (Cls × Opnd)} (h : s.clearFor rds wrs = true)
include h

/-- Where nothing is to mend, draws and then a change of the issuing set are the change, but for the generator drawn from. -/
theorem State.issued_draws_reseed_alike (m n : Nat) (f : ThreadSet → ThreadSet) :
    (s.updTh f).Alike ((((s.issued rds).draws m n).2.updTh f).reseed s.drawLe (s.el s.drawLe).srseed) := by
  have hissued := State.issued_alike h
  have hdraws := (s.issued rds).draws_updTh_reseed_alike m n f
  rw [hissued.drawLe, hissued.el] at hdraws
  exact (hissued.updTh f).trans hdraws

theorem State.issued_draws_alike {m n : Nat} (hmn : m ≠ 5 ∨ n = 0) (f : ThreadSet → ThreadSet) :
    (s.updTh f).Alike (((s.issued rds).draws m n).2.updTh f) :=
  ((State.issued_alike h).updTh f).trans (State.draws_updTh_alike hmn f _)

end

/-- A generator put to another value leaves the issuing set. -/
theorem State.reseed_th (le : Nat) (x : Word) (s : State) : (s.reseed le x).th = s.th := State.th_updEl_of_sets s le fun _ => rfl

/-- Settles O41: a row leaves its draws and one retirement, whose registers, flags and pc are those of `ThreadSet.settle`. -/
theorem floatAndVectorFrame : Obligations.FloatAndVectorFrame := by
  intro i r d s hi hd hrds hclear hframe hchecked hunit
  have hready : s.readyFor r.rds [(r.cls, .reg d)] = true := by
    simp only [State.clearFor, Bool.and_eq_true] at hclear
    exact hclear.1.1
  obtain ⟨t, m, n, w, fl, ho, hl⟩ := exec_answers_of_fvTable hi ⟨hd, hrds, hready, hchecked, hunit⟩
  have hback : (s.updTh (·.settle w fl)).Alike (t.reseed s.drawLe (s.el s.drawLe).srseed) :=
    (State.issued_draws_reseed_alike hclear m n _).trans (hl.state.updEl _ _)
  have hth : t.th = s.th.settle w fl := (t.reseed_th _ _).symm.trans (hback.th.trans (s.th_updTh _))
  refine ⟨t, ho, ?drawn, ?undrawn, ?regs, ?flags, ?pc, ?mem⟩
  case drawn =>
    rw [hth]
    exact hback.onlySet
  case undrawn =>
    intro hmode
    have hmn : m ≠ 5 ∨ n = 0 := by
      cases hr : r.rounds with
      | none => exact .inr (hl.still hr)
      | some k => exact .inl (hl.mode k hr ▸ hmode k hr)
    rw [hth]
    exact ((State.issued_draws_alike hclear hmn _).trans hl.state).onlySet
  case regs =>
    have hnames := hl.names
    rw [hth]
    generalize r.cls = c at hnames ⊢
    cases hnames with
    | g d x => exact ThreadSet.settle_onlyGFlags hframe d x fl
    | f d x => exact ThreadSet.settle_onlyF hframe d x fl
    | v d x => exact ThreadSet.settle_onlyV hframe d x fl
  case flags =>
    intro hq
    rw [hth, hl.quiet hq, ThreadSet.settle_fcsr hframe]
  case pc => rw [hth, ThreadSet.settle_pc hframe]
  case mem =>
    intro p
    exact congrArg (Mem.read p) hback.mem

end Sys2Proof.Machine
end

section
/-! The masks of a tile and the carousel instructions (R214, R220, R226 to R230), and O51 from them. -/
namespace Sys2Proof.Machine

/-! ### Masks (R220) -/

theorem Map.get_drop_same {α : Type} (d : α) (k : Nat) (m : Map α) : Map.get d (Map.drop k m) k = d := by
  rw [Map.get, Map.find_drop_same, Option.getD_none]

/-- The mask replaced, before any notification. -/
def State.storeMask (t car seg : Nat) (m : BitVec 64) (s : State) : State :=
  let key := s.maskKey t car seg
  { s with ctx := { s.ctx with masks := if m = 0 then Map.drop key s.ctx.masks else Map.set key m s.ctx.masks } }

section
variable (t car seg : Nat) (m : BitVec 64) (s : State)

theorem State.maskOf_storeMask : (s.storeMask t car seg m).maskOf t car seg = m := by
  show Map.get 0 (if m = 0 then Map.drop (s.maskKey t car seg) s.ctx.masks else Map.set (s.maskKey t car seg) m s.ctx.masks)
    (s.maskKey t car seg) = m
  split
  · next hm => rw [Map.get_drop_same, hm]
  · rw [Map.get_set_same]

/-- The arbiter is notified exactly of a change between zero and nonzero. -/
theorem State.setMask_eq : s.setMask t car seg m =
    if s.maskOf t car seg = 0 ↔ m = 0 then s.storeMask t car seg m
    else (s.storeMask t car seg m).launchFlight (.notify car seg t (m != 0)) := by
  have hzero : ((s.maskOf t car seg == 0) == (m == 0)) = true ↔ (s.maskOf t car seg = 0 ↔ m = 0) := by
    rw [beq_iff_eq, Bool.eq_iff_iff, beq_iff_eq, beq_iff_eq]
  exact ite_congr (propext hzero) (fun _ => rfl) fun _ => rfl

theorem State.maskOf_setMask : (s.setMask t car seg m).maskOf t car seg = m := by
  rw [State.setMask_eq]
  split
  · exact s.maskOf_storeMask ..
  · exact s.maskOf_storeMask ..

theorem State.setMask_flights : (s.setMask t car seg m).ctx.flights =
    if s.maskOf t car seg = 0 ↔ m = 0 then s.ctx.flights else s.ctx.flights ++ [(s.nextId, .notify car seg t (m != 0))] := by
  rw [State.setMask_eq, apply_ite State.ctx, apply_ite Ctx.flights]
  rfl

end

/-! ### `csub`, `cskip` and `cprom` (R226 to R229) -/

section
variable {a b : RegNo} {s u : State} (hu : s.issued [(.g, .reg a), (.g, .reg b)] = u)
include hu

section
variable {d : Opnd} (hr : s.readyFor [(.g, .reg a), (.g, .reg b)] [(.g, d)] = true)
include hr

theorem exec_csub_fails {v : Word} (hv : u.carFails (s.rg a) (some (s.rg b)) = some v) : exec (.csub d a b) s = u.trap 0x07 v := by
  subst hu
  show execCsub d a b s = _
  simp only [execCsub, withIssue_of_readyFor hr, State.issued_rg, hv]

theorem exec_cskip_fails {v : Word} (hv : u.carFails (s.rg a) (some (s.rg b)) = some v) : exec (.cskip d a b) s = u.trap 0x07 v := by
  subst hu
  show execCskip d a b s = _
  simp only [execCskip, withIssue_of_readyFor hr, State.issued_rg, hv]

variable (hv : u.carFails (s.rg a) (some (s.rg b)) = none)
include hv

theorem exec_csub_invalid (hseg : (u.car (s.rg a).toNat).hasSeg (s.rg b).toNat = false) :
    exec (.csub d a b) s = .next (u.putG d 2).advance := by
  subst hu
  show execCsub d a b s = _
  simp only [execCsub, withIssue_of_readyFor hr, State.issued_rg, hv, hseg, Bool.not_false, if_true]

/-- A valid segment is subscribed to, giving `m`, and its resident buffer is pinned. -/
theorem exec_csub_valid {t c seg : Nat} {m : State} (ht : u.tileOf s.cur.1 = t) (hc : (s.rg a).toNat = c) (hg : (s.rg b).toNat = seg)
    (hm : (u.setMask t c seg (u.maskOf t c seg ||| u.maskBit s.cur.1)).own c seg = m) (hseg : (u.car c).hasSeg seg = true) :
    (m.residentIn t c seg = none → exec (.csub d a b) s = .next (m.putG d 0).advance) ∧
    ∀ k, m.residentIn t c seg = some k → exec (.csub d a b) s = .next ((m.pinSub k).putG d 1).advance := by
  subst hu ht hc hg hm
  have hrun : exec (.csub d a b) s = execCsub d a b s := rfl
  simp only [hrun, execCsub, withIssue_of_readyFor hr, State.issued_rg, State.issued_cur, hv, hseg, Bool.not_true, Bool.false_eq_true, if_false]
  exact ⟨fun hnone => by rw [hnone], fun k hk => by rw [hk]⟩

theorem exec_cskip {t c seg : Nat} (ht : u.tileOf s.cur.1 = t) (hc : (s.rg a).toNat = c) (hg : (s.rg b).toNat = seg) :
    exec (.cskip d a b) s = .next ((((u.setMask t c seg (u.maskOf t c seg &&& ~~~u.maskBit s.cur.1)).disown c seg).putG d
      (if u.maskOf t c seg &&& u.maskBit s.cur.1 = 0 ∨ (u.car c).hasSeg seg = false then 0 else 1)).advance) := by
  subst hu ht hc hg
  show execCskip d a b s = _
  simp only [execCskip, withIssue_of_readyFor hr, State.issued_rg, State.issued_cur, hv, Bool.or_eq_true, decide_eq_true_eq, Bool.not_eq_true']

end

theorem exec_cprom {d : RegNo} (hr : s.readyFor [(.g, .reg a), (.g, .reg b)] [(.g, .reg d)] = true)
    (hv : u.carFails (s.rg a) (some (s.rg b)) = none) : exec (.cprom d a b) s = .next (((u.newId.2.launchFlight
      (.cprom (u.newId.2.issuer u.nextId) (s.rg a).toNat (s.rg b).toNat)).mark (.g d) u.nextId).advance) := by
  subst hu
  show execCprom d a b s = _
  simp only [execCprom, withIssue_of_readyFor hr, State.issued_rg, hv]
  rfl

end

/-! ### `cstat` (R230) -/

section
variable {d : Opnd} {a : RegNo} {s u : State} (hu : s.issued [(.g, .reg a)] = u) (hr : s.readyFor [(.g, .reg a)] [(.g, d)] = true)
include hu hr

theorem exec_cstat_fails (sel : BitVec 2) {v : Word} (hv : u.carFails (s.rg a) none = some v) :
    exec (.cstat d a sel) s = u.trap 0x07 v := by
  subst hu
  show execCstat d a sel s = _
  simp only [execCstat, withIssue_of_readyFor hr, State.issued_rg, hv]

theorem exec_cstat (sel : BitVec 2) (hv : u.carFails (s.rg a) none = none) :
    let tl := u.tile (u.tileOf s.cur.1)
    exec (.cstat d a sel) s = .next ((u.putG d (if sel = 0 then tl.presence (s.rg a).toNat
      else if sel = 1 then vget tl.lastSlot (s.rg a).toNat else (vget tl.misses (s.rg a).toNat).setWidth 64)).advance) := by
  subst hu
  show execCstat d a sel s = _
  simp only [execCstat, withIssue_of_readyFor hr, State.issued_rg, State.issued_cur, hv]

end

/-- Settles O51: one equation for each answer of the four instructions, and the notification of a mask that crosses zero. -/
theorem carouselInstructionsSubscribe : Obligations.CarouselInstructionsSubscribe := by
  unfold Obligations.CarouselInstructionsSubscribe
  refine ⟨fun d a b s hr => ⟨fun v hv => ⟨exec_csub_fails rfl hr hv, exec_cskip_fails rfl hr hv⟩, fun hv => ?bound⟩,
    fun t car seg m s => ⟨s.maskOf_setMask .., fun h => ?same, fun h => ?crosses⟩, fun d a b s hr => exec_cprom rfl hr,
    fun d a sel s hr => ⟨fun v => exec_cstat_fails rfl hr sel, exec_cstat rfl hr sel⟩⟩
  case bound =>
    refine ⟨exec_csub_invalid rfl hr hv, fun hseg => (exec_csub_valid rfl hr hv rfl rfl rfl rfl hseg).1,
      fun k hseg => (exec_csub_valid rfl hr hv rfl rfl rfl rfl hseg).2 k, fun hseg => ?_, fun hseg => ?_⟩
    · simp only [exec_cskip rfl hr hv rfl rfl rfl, hseg, Bool.true_eq_false, or_false]
    · simp only [exec_cskip rfl hr hv rfl rfl rfl, hseg, or_true, if_true]
  case same => rw [State.setMask_flights, if_pos h]
  case crosses => rw [State.setMask_flights, if_neg h]

end Sys2Proof.Machine
end

section
/-! Carousels at their arbiters and in the tiles' window buffers (R214, R215, R218 to R221, R223 to R225, R229, R384, R398), and O52 from
them. -/
namespace Sys2Proof.Machine

/-! ### What a carousel's operations keep -/

theorem State.car_of_cars {s t : State} (h : t.cars = s.cars) (k : Nat) : t.car k = s.car k := by
  rw [State.car, h, State.car]

/-- The sequencer's reads change only what is logged of memory's errors (R154). -/
theorem State.carSeen_only (car va n : Nat) (s : State) : ∃ l c, s.carSeen car va n = { s with latent := l, corrected := c } := by
  unfold State.carSeen
  split
  · exact ⟨_, _, rfl⟩
  · exact ⟨s.latent, s.corrected, rfl⟩

@[simp] theorem State.carSeen_cars (car va n : Nat) (s : State) : (s.carSeen car va n).cars = s.cars := by
  obtain ⟨l, c, h⟩ := s.carSeen_only car va n
  rw [h]

@[simp] theorem State.carSeen_mem (car va n : Nat) (s : State) : (s.carSeen car va n).mem = s.mem := by
  obtain ⟨l, c, h⟩ := s.carSeen_only car va n
  rw [h]

/-- Reading a table changes no carousel. -/
@[simp] theorem State.copyTable_cars (car va n i : Nat) (s : State) : (State.copyTable car va n i s).2.cars = s.cars := by
  induction n generalizing i s with
  | zero => rfl
  | succ n ih =>
    unfold State.copyTable
    dsimp only
    split
    · rw [ih, State.carSeen_cars]
    · rw [ih, State.logEvent_cars, State.carSeen_cars]

/-- An arbiter that wakes changes in nothing else, and idles no more. -/
theorem State.car_wakeCar (car : Nat) (s : State) :
    ∃ at_, (s.wakeCar car).car car = { s.car car with idle := false, wakeAt := at_ } := by
  rw [State.wakeCar, State.car_updCar_same]
  split
  · exact ⟨_, rfl⟩
  · next h =>
    have hawake : (s.car car).idle = false := by simpa using h
    exact ⟨(s.car car).wakeAt, by rw [← hawake]⟩

/-! ### Tables (R214, R215, R384, R398) -/

theorem State.clenPut_refused {car v : Nat} {s : State} (h : (s.car car).clen ≠ 0 ∨ v = 0 ∨ 4096 < v) : s.clenPut car v = s := by
  refine if_pos ?_
  simp only [Bool.or_eq_true, decide_eq_true_eq]
  tauto

theorem State.car_clenPut {car v : Nat} {s : State} (hc : (s.car car).clen = 0) (h0 : v ≠ 0) (hv : v ≤ 4096) :
    (s.clenPut car v).car car = { s.car car with
      clen := v, table := (State.copyTable car (s.car car).ctab.toNat v 0 s).1, fifo := [], ptr := v / 2, idle := true,
      lastPromoted := none } := by
  have hok : ¬ ((s.car car).clen ≠ 0 || 4096 < v || v = 0) = true := by
    simp only [Bool.or_eq_true, decide_eq_true_eq]
    omega
  rw [State.clenPut, if_neg hok, State.car_updCar_same, State.car_of_cars (State.copyTable_cars ..)]

theorem State.ncmtPut_refused {car v : Nat} {s : State} (h : v ≠ 1 ∨ (s.car car).ncmt = true) : s.ncmtPut car v = s := by
  refine if_neg ?_
  simp only [Bool.and_eq_true, decide_eq_true_eq, Bool.not_eq_true']
  rintro ⟨h1, h2⟩
  simp [h1, h2] at h

/-- The carousel with a commit pending and the descriptors of its copy. -/
def Carousel.committed (tb : Map Desc) (c : Carousel) : Carousel :=
  { c with ncmt := true, copying := some (c.ntab, c.nlen, tb), copied := false }

theorem State.car_ncmtPut {car : Nat} {s : State} (h : (s.car car).ncmt = false) :
    ∃ tb at_, (s.ncmtPut car 1).car car = { (s.car car).committed tb with idle := false, wakeAt := at_ } := by
  let r := State.copyTable car (s.car car).ntab.toNat (s.car car).nlen 0 s
  have hput : s.ncmtPut car 1 = (r.2.updCar car (·.committed r.1)).wakeCar car := if_pos (by simp [h])
  obtain ⟨at_, hwake⟩ := State.car_wakeCar car (r.2.updCar car (·.committed r.1))
  refine ⟨r.1, at_, ?_⟩
  rw [hput, hwake, State.car_updCar_same, State.car_of_cars (State.copyTable_cars ..)]

theorem exec_tableCopyComplete {car : Nat} {s : State} (h : (s.car car).copying ≠ none) :
    exec (.tableCopyComplete car) s = .next ((s.updCar car (fun c => { c with copied := true })).wakeCar car) :=
  if_neg (by simpa using h)

/-! ### Notifications (R220) -/

/-- The arbiter's record of which tiles want a segment, after a notification of tile `tile`. -/
def Carousel.notified (seg tile : Nat) (nz : Bool) (c : Carousel) : Carousel :=
  let ts := (c.wanted seg).filter (· != tile)
  let ts := if nz then ts ++ [tile] else ts
  { c with counts := if ts.isEmpty then Map.drop seg c.counts else Map.set seg ts c.counts }

theorem Carousel.wanted_notified (seg tile : Nat) (nz : Bool) (c : Carousel) : (c.notified seg tile nz).wanted seg =
    if nz then (c.wanted seg).filter (· != tile) ++ [tile] else (c.wanted seg).filter (· != tile) := by
  show Map.get [] (if (if nz then (c.wanted seg).filter (· != tile) ++ [tile] else (c.wanted seg).filter (· != tile)).isEmpty
    then Map.drop seg c.counts else Map.set seg _ c.counts) seg = _
  generalize (if nz then (c.wanted seg).filter (· != tile) ++ [tile] else (c.wanted seg).filter (· != tile)) = ts
  split
  · next h => rw [Map.get_drop_same, List.isEmpty_iff.1 h]
  · rw [Map.get_set_same]

theorem Carousel.contains_wanted_notified (seg tile : Nat) (nz : Bool) (c : Carousel) (u : Nat) :
    ((c.notified seg tile nz).wanted seg).contains u = if u = tile then nz else (c.wanted seg).contains u := by
  rw [Carousel.wanted_notified]
  by_cases hu : u = tile <;> cases nz <;> simp [hu, List.contains_eq_mem]

theorem exec_maskNotification {k car seg tile : Nat} {nz : Bool} {s : State} (hf : s.flight k = some (.notify car seg tile nz))
    (hs : s.ctx.stopped = false)
    (hfirst : (s.ctx.flights.takeWhile (fun f => f.1 != k)).any (fun f => sameTile f.2 (.notify car seg tile nz)) = false) :
    exec (.maskNotification k) s = .next (((s.dropFlight k).updCar car (·.notified seg tile nz)).wakeCar car) := by
  show execMaskNotification k s = _
  simp only [execMaskNotification, hf, hs, hfirst, Bool.or_self, Bool.false_eq_true, if_false]
  rfl

/-! ### Promotions (R229) -/

theorem exec_cpromAtArbiter {k car seg : Nat} {who : Issuer} {s u : State} (hu : s.dropFlight k = u)
    (hf : s.flight k = some (.cprom who car seg)) (hs : s.ctx.stopped = false) :
    exec (.cpromAtArbiter k) s = .next (
      if (s.car car).hasSeg seg = false then u.token who (tokErr 0x34)
      else ((s.car car).fifo.findIdx? (· == seg)).elim
        (if Config.promoPlaces ≤ (s.car car).fifo.length then u.token who (tokErr 0x33)
          else (u.updCar car (fun c => { c with fifo := c.fifo ++ [seg] })).token who (BitVec.ofNat 64 ((s.car car).fifo.length + 1)))
        fun i => u.token who (BitVec.ofNat 64 (i + 1))) := by
  subst hu
  have hcar : (s.dropFlight k).car car = s.car car := State.car_of_cars (State.dropFlight_cars ..) car
  show execCpromAtArbiter k s = _
  simp only [execCpromAtArbiter, hf, hs, hcar, Bool.not_eq_true', Bool.false_eq_true, if_false]
  cases (s.car car).fifo.findIdx? (· == seg) <;> rfl

/-! ### Turns and slots (R218, R221) -/

theorem exec_arbiterTurn {car : Nat} {s : State} (hc : car < 4) (hr : s.carReady car = true) (hp : s.planeFor car = true) :
    exec (.arbiterTurn car) s = .next ((s.car car).turn.1.elim (s.updCar car fun _ => (s.car car).turn.2)
      fun x => (s.updCar car fun _ => (s.car car).turn.2).openSlot car x.1 x.2) := by
  have hdue : ¬ (3 < car || !s.carReady car || !s.planeFor car) = true := by
    simp only [hr, hp, Bool.not_true, Bool.or_false, decide_eq_true_eq]
    omega
  show execArbiterTurn car s = _
  rw [execArbiterTurn, State.takeTurn, if_neg hdue]
  generalize (s.car car).turn = r
  obtain ⟨_ | _, _⟩ := r <;> rfl

theorem State.openSlot_cars (car seg : Nat) (p : Bool) (s : State) : (s.openSlot car seg p).cars = (s.updCar car fun c => { c with
    slot := some ⟨seg, ((Map.find seg (s.car car).table).getD ⟨0, 0, 0⟩).frames, c.cslots, 0, none⟩, cslots := c.cslots + 1,
    lastOpen := some s.tick, lastPromoted := some p }).cars :=
  foldl_keeps State.cars _ (fun _ _ => State.updTile_cars ..) _ _

theorem State.openSlot_planeUntil (car seg : Nat) (p : Bool) (s : State) :
    (s.openSlot car seg p).planeUntil = s.tick + ((Map.find seg (s.car car).table).getD ⟨0, 0, 0⟩).frames :=
  foldl_keeps State.planeUntil _ (fun _ _ => State.updTile_planeUntil ..) _ _

/-- What stands once a slot has opened. -/
theorem State.openSlot_opens (car seg : Nat) (p : Bool) (s : State) : ((s.openSlot car seg p).car car).cslots = (s.car car).cslots + 1 ∧
    ((s.openSlot car seg p).car car).lastOpen = some s.tick ∧ ((s.openSlot car seg p).car car).slot.isSome = true ∧
    (s.openSlot car seg p).planeUntil = s.tick + ((Map.find seg (s.car car).table).getD ⟨0, 0, 0⟩).frames := by
  rw [State.car_of_cars (s.openSlot_cars ..), State.car_updCar_same]
  exact ⟨rfl, rfl, rfl, s.openSlot_planeUntil ..⟩

/-! ### Announcements (R223, R224) -/

theorem State.tile_updBuf_same (t b : Nat) (f : WinBuf → WinBuf) (s : State) :
    (s.updBuf t b f).tile t = { s.tile t with bufs := vset (s.tile t).bufs b (f (vget (s.tile t).bufs b)) } :=
  State.tile_updTile_same ..

/-- The lowest of three buffers that is free. -/
theorem find_range_three_eq_some {p : Nat → Bool} {b : Nat} (hb : b < 3) (hp : p b = true) (hlow : ∀ j, j < b → p j = false) :
    (List.range 3).find? p = some b := by
  rw [List.find?_range_eq_some]
  exact ⟨hp, List.mem_range.2 hb, fun j hj => by rw [hlow j hj]; rfl⟩

theorem find_range_three_eq_none {p : Nat → Bool} (h : ∀ b, b < 3 → p b = false) : (List.range 3).find? p = none := by
  rw [List.find?_eq_none]
  exact fun b hb => Bool.eq_false_iff.1 (h b (List.mem_range.1 hb))

/-- The tile with its oldest announcement, of slot `number` of `car`, taken. -/
def Tile.hears (car number : Nat) (rest : List (Nat × Nat × Nat × Nat)) (tl : Tile) : Tile :=
  { tl with heard := rest, lastSlot := vset tl.lastSlot car (BitVec.ofNat 64 (number + 1)) }

section
variable {tile car seg frames number : Nat} {rest : List (Nat × Nat × Nat × Nat)} {s : State}
  (h : (s.tile tile).heard = (car, seg, frames, number) :: rest)
include h

theorem State.tile_hearSlot : (s.hearSlot tile).tile tile =
    if s.maskOf tile car seg = 0 then (s.tile tile).hears car number rest
    else match (List.range 3).find? (fun b => (vget (s.tile tile).bufs b).free) with
      | some b => { (s.tile tile).hears car number rest with
          bufs := vset (s.tile tile).bufs b { vget (s.tile tile).bufs b with
            resident := none, capture := some ⟨car, seg, frames, BitVec.ofNat 64 number, false, none⟩ } }
      | none => { (s.tile tile).hears car number rest with
          misses := vset (s.tile tile).misses car (vget (s.tile tile).misses car + 1) } := by
  have hears : (s.updTile tile (·.hears car number rest)).tile tile = (s.tile tile).hears car number rest := State.tile_updTile_same ..
  have hbufs : ((s.updTile tile (·.hears car number rest)).tile tile).bufs = (s.tile tile).bufs := by rw [hears]; rfl
  unfold State.hearSlot
  rw [h]
  show State.tile (if s.maskOf tile car seg = 0 then s.updTile tile (·.hears car number rest)
    else match (List.range 3).find? (fun b => (vget ((s.updTile tile (·.hears car number rest)).tile tile).bufs b).free) with
      | some b => _
      | none => _) tile = _
  rw [hbufs, apply_ite (State.tile · tile), hears]
  refine ite_congr rfl (fun _ => rfl) fun _ => ?_
  cases (List.range 3).find? (fun b => (vget (s.tile tile).bufs b).free) with
  | none => simp only [State.tile_updTile_same]; rfl
  | some b => simp only [State.tile_updBuf_same, State.tile_updTile_same]; rfl

/-- Whatever the tile does, the announcement is taken and its slot is the last one heard. -/
theorem State.hearSlot_takes : ((s.hearSlot tile).tile tile).heard = rest ∧
    vget ((s.hearSlot tile).tile tile).lastSlot car = BitVec.ofNat 64 (number + 1) := by
  rw [State.tile_hearSlot h]
  repeat' split
  all_goals exact ⟨rfl, vget_vset_same ..⟩

theorem State.tile_hearSlot_unwanted (hm : s.maskOf tile car seg = 0) :
    (s.hearSlot tile).tile tile = (s.tile tile).hears car number rest := by
  rw [State.tile_hearSlot h, if_pos hm]

variable (hm : s.maskOf tile car seg ≠ 0)
include hm

theorem State.misses_hearSlot (hb : ∀ b, b < 3 → (vget (s.tile tile).bufs b).free = false) :
    vget ((s.hearSlot tile).tile tile).misses car = vget (s.tile tile).misses car + 1 := by
  rw [State.tile_hearSlot h, if_neg hm, find_range_three_eq_none hb]
  exact vget_vset_same ..

theorem State.capture_hearSlot {b : Nat} (hb : b < 3) (hfree : (vget (s.tile tile).bufs b).free = true)
    (hlow : ∀ j, j < b → (vget (s.tile tile).bufs j).free = false) :
    (vget ((s.hearSlot tile).tile tile).bufs b).capture = some ⟨car, seg, frames, BitVec.ofNat 64 number, false, none⟩ := by
  rw [State.tile_hearSlot h, if_neg hm, find_range_three_eq_some (p := fun b => (vget (s.tile tile).bufs b).free) hb hfree hlow]
  exact congrArg WinBuf.capture (vget_vset_same ..)

end

/-! ### Frames (R217, R219, R223) -/

/-- Of its carousel, a frame read changes the open slot only. -/
theorem State.readFrame_of_slot {car : Nat} {s : State} {sl : Slot} (h : (s.car car).slot = some sl) :
    ∃ failed, (s.readFrame car).car car = { s.car car with
      slot := if sl.frames ≤ sl.next + 1 then none else some { sl with next := sl.next + 1, failed := failed } } := by
  unfold State.readFrame
  rw [h]
  dsimp only
  rw [State.car_updCar_same, State.car_of_cars (s := s)]
  · simp only [decide_eq_true_eq]
    exact ⟨_, rfl⟩
  · refine (foldl_keeps State.cars _ (fun u p => ?_) _ _).trans (s.carSeen_cars ..)
    rw [State.updBuf, State.updTile_cars, State.poke_cars]

/-- The buffers lie above every other place of memory. -/
theorem State.readFrame_mem {p : Nat} (hp : p < 2 ^ 50) (car : Nat) (s : State) :
    Mem.read p (s.readFrame car).mem = Mem.read p s.mem := by
  unfold State.readFrame
  split
  · rfl
  · dsimp only
    rw [State.updCar_mem]
    refine (foldl_keeps (fun u : State => Mem.read p u.mem) _ (fun u q => ?_) _ _).trans (by rw [State.carSeen_mem])
    rw [State.updBuf, State.updTile_mem]
    exact Mem.read_writeN_off _ (.inl (by unfold winPlace; omega)) _

/-! ### Captures (R225) -/

/-- The pass of capture `c` in buffer `buf` sent to `le`, which it pins the buffer for. -/
def State.sendPass (tile buf : Nat) (c : Capture) (s : State) (le : Nat) : State :=
  (s.launchFlight (.msg (2 ^ 21 + tile) le (passMsg le (buf % 3) c))).updBuf tile buf (fun w => { w with
    passPins := w.passPins ++ [(le, passKey s.nextId)] })

theorem State.sendPass_buf (tile buf : Nat) (c : Capture) (s : State) (le : Nat) :
    ((vget ((s.sendPass tile buf c le).tile tile).bufs buf).resident, (vget ((s.sendPass tile buf c le).tile tile).bufs buf).capture) =
      ((vget (s.tile tile).bufs buf).resident, (vget (s.tile tile).bufs buf).capture) := by
  rw [State.sendPass, State.tile_updBuf_same, vget_vset_same, State.launchFlight_tile]

theorem State.foldl_sendPass_flights (tile buf : Nat) (c : Capture) (les : List Nat) (s : State) :
    (les.foldl (State.sendPass tile buf c) s).ctx.flights.map (·.2) =
      s.ctx.flights.map (·.2) ++ les.map fun le => .msg (2 ^ 21 + tile) le (passMsg le (buf % 3) c) := by
  induction les generalizing s with
  | nil => simp
  | cons le les ih =>
    rw [List.foldl_cons, ih]
    simp [State.sendPass, State.updBuf, State.launchFlight]

/-- The elements of a tile whose bits a mask sets. -/
def State.lesOfMask (s : State) (tile : Nat) (m : BitVec 64) : List Nat :=
  (List.range 64).filterMap (fun i => if m.getLsbD i then s.leAt (64 * tile + i) else none)

theorem exec_captureComplete {tile buf : Nat} {s : State} {c : Capture} (hc : (vget (s.tile tile).bufs buf).capture = some c)
    (hfull : c.full = true) : exec (.captureComplete tile buf) s = .next ((s.lesOfMask tile (s.maskOf tile c.car c.seg)).foldl
      (State.sendPass tile buf c) (s.updBuf tile buf (fun w => { w with capture := none, resident := some (c.car, c.seg) }))) := by
  show execCaptureComplete tile buf s = _
  simp only [execCaptureComplete, hc, hfull, Bool.not_true, Bool.false_eq_true, if_false]
  rfl

/-- What stands once the passes of a full capture have been sent. -/
theorem State.captureComplete_frame {tile buf : Nat} {s : State} {c : Capture} (les : List Nat) :
    let t := les.foldl (State.sendPass tile buf c)
      (s.updBuf tile buf (fun w => { w with capture := none, resident := some (c.car, c.seg) }))
    (vget (t.tile tile).bufs buf).resident = some (c.car, c.seg) ∧ (vget (t.tile tile).bufs buf).capture = none ∧
      (t.ctx.flights.drop s.ctx.flights.length).map (·.2) = les.map fun le => .msg (2 ^ 21 + tile) le (passMsg le (buf % 3) c) := by
  intro t
  have hbuf := foldl_keeps (fun s : State => ((vget (s.tile tile).bufs buf).resident, (vget (s.tile tile).bufs buf).capture)) _
    (State.sendPass_buf tile buf c) les (s.updBuf tile buf (fun w => { w with capture := none, resident := some (c.car, c.seg) }))
  have hsame := State.tile_updBuf_same tile buf (fun w => { w with capture := none, resident := some (c.car, c.seg) }) s
  rw [hsame, vget_vset_same, Prod.mk.injEq] at hbuf
  refine ⟨hbuf.1, hbuf.2, ?_⟩
  rw [List.map_drop, State.foldl_sendPass_flights]
  exact List.drop_left' (List.length_map _)

/-- Settles O52: one equation for each step of an arbiter or a tile, and what stands after it. -/
theorem carouselTablesSlotsAndWindows : Obligations.CarouselTablesSlotsAndWindows := by
  unfold Obligations.CarouselTablesSlotsAndWindows
  refine ⟨fun car v w s hs => ⟨congrArg _ (if_pos hs), congrArg _ (if_pos hs)⟩,
    fun car v s => ⟨fun hs => congrArg _ (if_neg (Bool.eq_false_iff.1 hs)),
      fun h => State.clenPut_refused (h.imp_right (.imp_left (congrArg BitVec.toNat))), fun hc h0 hv => ?clen⟩,
    fun car v s => ⟨fun hs => congrArg _ (if_neg (Bool.eq_false_iff.1 hs)),
      fun h => State.ncmtPut_refused (h.imp_left fun hv h1 => hv (BitVec.eq_of_toNat_eq h1)), fun h1 hn => ?ncmt⟩, fun car s h => ?copied,
    fun k car seg tile nz s hf hs hfirst => ?notified, fun k car seg who s hf hs => ?promoted, fun car s hc hr hp => ?turn,
    fun car seg p s => s.openSlot_opens car seg p, fun tile car seg frames number rest s h => ?heard, fun car s sl h hheard => ?frame,
    fun tile buf s c hc hfull => ⟨_, exec_captureComplete hc hfull, State.captureComplete_frame _⟩⟩
  case clen =>
    have hpos : v.toNat ≠ 0 := fun h => h0 (BitVec.eq_of_toNat_eq h)
    rw [State.car_clenPut hc hpos hv]
    exact ⟨rfl, rfl, rfl, rfl, rfl⟩
  case ncmt =>
    obtain ⟨tb, at_, hput⟩ := State.car_ncmtPut hn
    subst h1
    rw [show (1 : Byte).toNat = 1 from rfl, hput]
    exact ⟨rfl, rfl⟩
  case copied =>
    obtain ⟨at_, hwake⟩ := State.car_wakeCar car (s.updCar car (fun c => { c with copied := true }))
    rw [State.car_updCar_same] at hwake
    exact ⟨_, exec_tableCopyComplete h, congrArg Carousel.copied hwake, (congrArg Carousel.table hwake).trans rfl, rfl⟩
  case notified =>
    obtain ⟨at_, hwake⟩ := State.car_wakeCar car ((s.dropFlight k).updCar car (·.notified seg tile nz))
    rw [State.car_updCar_same, State.car_of_cars (State.dropFlight_cars ..)] at hwake
    have hwanted (u : Nat) := (congrArg (fun c : Carousel => (c.wanted seg).contains u) hwake).trans
      ((s.car car).contains_wanted_notified seg tile nz u)
    exact ⟨_, exec_maskNotification hf hs hfirst, (hwanted tile).trans (if_pos rfl), fun u hu => (hwanted u).trans (if_neg hu),
      congrArg Carousel.idle hwake⟩
  case promoted =>
    have hrun := exec_cpromAtArbiter rfl hf hs
    refine ⟨fun hseg => ?_, fun i hseg hi => ?_, fun hseg hi => ⟨fun hfull => ?_, fun hroom => ?_⟩⟩
    · rw [hrun, if_pos hseg]
    · simp only [hrun, hseg, Bool.true_eq_false, if_false, hi, Option.elim_some]
    · simp only [hrun, hseg, Bool.true_eq_false, if_false, hi, Option.elim_none, if_pos hfull]
    · simp only [hrun, hseg, Bool.true_eq_false, if_false, hi, Option.elim_none, if_neg (Nat.not_le.2 hroom)]
  case turn =>
    have hrun := exec_arbiterTurn hc hr hp
    exact ⟨fun h => by rw [hrun, h, Option.elim_none], fun seg p h => by rw [hrun, h, Option.elim_some]⟩
  case heard =>
    obtain ⟨htaken, hlast⟩ := State.hearSlot_takes h
    refine ⟨s.hearSlot tile, rfl, htaken, hlast, fun hm => ?_, State.misses_hearSlot h,
      fun b hm hb hfree hlow => ⟨_, State.capture_hearSlot h hm hb hfree hlow, rfl, rfl, rfl, rfl⟩⟩
    rw [State.tile_hearSlot_unwanted h hm]
    exact ⟨rfl, rfl⟩
  case frame =>
    obtain ⟨failed, hread⟩ := State.readFrame_of_slot h
    refine ⟨s.readFrame car, congrArg _ (if_neg (Bool.eq_false_iff.1 hheard)), fun hlast => ?_, fun hmore => ?_,
      fun p hp => State.readFrame_mem hp car s⟩
    · rw [hread, if_pos hlast]
    · rw [hread, if_neg (Nat.not_le.2 hmore)]
      exact ⟨_, rfl, rfl, rfl, rfl⟩

end Sys2Proof.Machine
end

section
/-! The instructions of slot 0 (R233 to R237, R291 to R298, R309), and O53 from them. -/
namespace Sys2Proof.Machine

/-! ### Migration (R233) -/

theorem withSlot0_on {s : State} (h : s.onSlot0 = true) (i : Instr) (k : State → Host.Outcome State Fault Refusal) :
    withSlot0 i k s = k s :=
  if_pos h

section
variable {i : Instr} (hi : slot0Instr i = true)
include hi

/-- Every row of slot 0 is one effect behind the check of the slot. -/
theorem exec_of_slot0Instr : ∃ k, ∀ s, exec i s = withSlot0 i k s := by
  unfold slot0Instr at hi
  split at hi
  iterate 12 exact ⟨_, fun _ => rfl⟩
  cases hi

variable {s : State} (h : s.onSlot0 = false)
include h

theorem exec_slot0_off : exec i s =
    if Config.slot0Fused (s.quadOf s.cur.1) then s.trap 0x03 (instrVal i)
    else if (s.el s.cur.1).sets.toList.any (·.migrated) then .next s else .next (s.updTh (fun t => { t with migrated := true })) := by
  obtain ⟨k, hk⟩ := exec_of_slot0Instr hi
  rw [hk, withSlot0]
  exact if_neg (Bool.eq_false_iff.1 h)

end

/-! ### Structures in memory (R155, R156) -/

section
variable {s t : State} {ea n m al : Nat}

theorem withStruct_of_structAt {bs : List Byte} (h : s.structAt ea n m al bs t) (k : List Byte → State → Host.Outcome State Fault Refusal) :
    withStruct ea n m al k s = k bs t := by
  obtain ⟨hal, g, u, hcheck, hbehind, hread⟩ := h
  simp only [withStruct, hal, ne_eq, not_true_eq_false, if_false, hcheck, hbehind, Bool.false_eq_true, hread]

theorem withStruct_of_structFails {cause : Nat} {tval : Word} (h : s.structFails ea n m al cause tval t)
    (k : List Byte → State → Host.Outcome State Fault Refusal) : withStruct ea n m al k s = t.trap cause tval := by
  obtain ⟨hal, rfl, rfl, rfl⟩ | ⟨hal, hcheck, rfl⟩ | ⟨hal, g, u, a, hcheck, hbehind, hread, rfl⟩ := h
  · exact if_pos hal
  · simp only [withStruct, hal, ne_eq, not_true_eq_false, if_false, hcheck]
    rfl
  · simp only [withStruct, hal, ne_eq, not_true_eq_false, if_false, hcheck, hbehind, Bool.false_eq_true, hread]
    rfl

end

/-! ### What issue keeps of the issuing set -/

@[simp] theorem State.issued_stack (rds : List (Cls × Opnd)) (s : State) : (s.issued rds).th.stack = s.th.stack := by
  obtain ⟨bad, toks, h⟩ := s.issued_th rds
  rw [h]

@[simp] theorem State.issued_scnt (rds : List (Cls × Opnd)) (s : State) : (s.issued rds).th.scnt = s.th.scnt := by
  obtain ⟨bad, toks, h⟩ := s.issued_th rds
  rw [h]

@[simp] theorem State.issued_scap (rds : List (Cls × Opnd)) (s : State) : (s.issued rds).th.scap = s.th.scap := by
  obtain ⟨bad, toks, h⟩ := s.issued_th rds
  rw [h]

@[simp] theorem State.issued_sbase (rds : List (Cls × Opnd)) (s : State) : (s.issued rds).th.sbase = s.th.sbase := by
  obtain ⟨bad, toks, h⟩ := s.issued_th rds
  rw [h]

/-! ### Rows that read a structure (R234, R235, R291) -/

section
variable {i : Instr} {rds wrs : List (Cls × Opnd)} {b : RegNo} {n m al : Nat} {k : List Byte → State → Host.Outcome State Fault Refusal}
  {s s1 : State}
  (hrow : exec i s = withSlot0 i (withIssue rds wrs fun s => withStruct (s.rg b).toNat n m al k s) s) (h0 : s.onSlot0 = true)
  (hr : s.readyFor rds wrs = true)
include hrow h0 hr

theorem exec_structRow_reads {bs : List Byte} (h : (s.issued rds).structAt (s.rg b).toNat n m al bs s1) : exec i s = k bs s1 := by
  rw [hrow, withSlot0_on h0, withIssue_of_readyFor hr, State.issued_rg, withStruct_of_structAt h]

theorem exec_structRow_fails {cause : Nat} {tval : Word} (h : (s.issued rds).structFails (s.rg b).toNat n m al cause tval s1) :
    exec i s = s1.trap cause tval := by
  rw [hrow, withSlot0_on h0, withIssue_of_readyFor hr, State.issued_rg, withStruct_of_structFails h]

end

section
variable {a b d w : RegNo} {s s1 : State} {bs : List Byte} (h0 : s.onSlot0 = true)
  (hr : s.readyFor [(.v, .reg a), (.v, .reg (a + 1)), (.g, .reg b)] [(.f, .reg d), (.v, .reg w)] = true)
  (h : (s.issued [(.v, .reg a), (.v, .reg (a + 1)), (.g, .reg b)]).structAt (s.rg b).toNat 36 36 4 bs s1)
include h0 hr h

theorem exec_trit_misses (ht : triTest (structF32 bs) (s1.rv a) (s1.rv (a + 1)) = none) : exec (.trit d a b w) s =
    .next (((s1.putF (.reg d) ⟨0x7F800000, 0⟩).putV (.reg w) (vF32 (List.replicate 4 (0, 0)))).advance) := by
  rw [exec_structRow_reads (i := .trit d a b w) rfl h0 hr h]
  dsimp only
  rw [ht]
  rfl

theorem exec_trit_hits {t : Nat × Nat} {bary : List (Nat × Nat)} (ht : triTest (structF32 bs) (s1.rv a) (s1.rv (a + 1)) = some (t, bary)) :
    exec (.trit d a b w) s = if s1.th.fails t.2 then
        s1.doldrums (doldrumsVal 63 24 ((List.range 3).foldl (fun m q => min m (min (laneF (s1.rv a) q).t (laneF (s1.rv (a + 1)) q).t)) 24)
          t.2 1 0 d.toNat) ⟨[.f d ⟨BitVec.ofNat 64 t.1, t.2⟩, .v w (vF32 bary)], 0, []⟩
      else .next (((s1.putF (.reg d) ⟨BitVec.ofNat 64 t.1, t.2⟩).putV (.reg w) (vF32 bary)).advance) := by
  rw [exec_structRow_reads (i := .trit d a b w) rfl h0 hr h]
  dsimp only
  rw [ht]
  rfl

end

/-! ### The traversal stack (R236, R237) -/

/-- Of two changes of the issuing set, only what they make of it as it stands matters. -/
theorem State.updTh_congr {s : State} {f g : ThreadSet → ThreadSet} (h : f s.th = g s.th) : s.updTh f = s.updTh g := by
  show s.setEl s.cur.1 _ = s.setEl s.cur.1 _
  exact congrArg (fun t => s.setEl s.cur.1 { s.el s.cur.1 with sets := vset (s.el s.cur.1).sets s.cur.2 t }) h

/-- The operand pushed on the traversal stack. -/
def State.pushOn (a : Opnd) (s : State) : State :=
  ((s.takeG a).2.updTh (fun t => { t with stack := t.stack ++ [(s.takeG a).1] })).advance

section
variable {a : Opnd} {s : State} (h0 : s.onSlot0 = true) (hr : s.readyFor [(.g, a)] [] = true)
include h0 hr

theorem exec_spush {u : State} (hu : s.issued [(.g, a)] = u) {ea : Nat} (hea : s.th.sbase.toNat + 8 * s.th.scnt.toNat = ea) : exec (.spush a) s =
    if s.th.stack.length < 8 then .next (u.pushOn a)
    else if s.th.scnt = s.th.scap then u.trap 0x08 (BitVec.ofNat 64 ea)
    else match u.spillCheck true ea with
      | (.error c, s1) => s1.trap c (BitVec.ofNat 64 ea)
      | (.ok tg, s1) =>
        if s1.behind s1.cur.1 s1.cur.2 tg.place 8 then .next s1
        else .next (((s1.storeNow (s1.issuer 0) tg ea (leBytes 8 (s.th.stack.headD 0).toNat)).updTh (fun t =>
          { t with stack := t.stack.drop 1, scnt := t.scnt + 1 })).pushOn a) := by
  subst hu hea
  show execSpush a s = _
  rw [execSpush, withSlot0_on h0, withIssue_of_readyFor hr]
  simp only [State.issued_stack, State.issued_scnt, State.issued_scap, ThreadSet.spillAt, State.issued_sbase]
  rfl

end

section
variable {d : Opnd} {s : State} (h0 : s.onSlot0 = true) (hr : s.readyFor [] [(.g, d)] = true)
include h0 hr

theorem exec_spop_held {x : Word} {xs : List Word} (hx : s.th.stack = xs ++ [x]) :
    exec (.spop d) s = .next ((((s.issued []).updTh (fun t => { t with stack := xs })).putG d x).advance) := by
  have hrest : (s.issued []).updTh (fun t => { t with stack := t.stack.dropLast }) = (s.issued []).updTh (fun t => { t with stack := xs }) := by
    refine State.updTh_congr ?_
    rw [State.issued_stack, hx, List.dropLast_concat]
  rw [← hrest]
  show execSpop d s = _
  simp only [execSpop, withSlot0_on h0, withIssue_of_readyFor hr, State.issued_stack, hx, List.getLast?_concat]

theorem exec_spop_bottom (hx : s.th.stack = []) (hc : s.th.scnt = 0) :
    exec (.spop d) s = .next (((s.issued []).putG d (BitVec.allOnes 64)).advance) := by
  show execSpop d s = _
  simp only [execSpop, withSlot0_on h0, withIssue_of_readyFor hr, State.issued_stack, hx, List.getLast?_nil, State.issued_scnt, if_pos hc]
  rfl

/-- An empty stack is refilled from its spill area. -/
theorem exec_spop_refills {u : State} (hu : s.issued [] = u) {ea : Nat} (hea : s.th.sbase.toNat + 8 * (s.th.scnt.toNat - 1) = ea)
    (hx : s.th.stack = []) (hc : s.th.scnt ≠ 0) : exec (.spop d) s =
    match u.spillCheck false ea with
      | (.error c, s1) => s1.trap c (BitVec.ofNat 64 ea)
      | (.ok tg, s1) =>
        if s1.behind s1.cur.1 s1.cur.2 tg.place 8 then .next s1
        else match s1.loadNow (s1.issuer 0) tg ea 8 with
          | (.error x, s2) => s2.trap 0x0F (BitVec.ofNat 64 x)
          | (.ok bs, s2) => .next (((s2.updTh (fun t => { t with scnt := t.scnt - 1 })).putG d (BitVec.ofNat 64 (leNat bs))).advance) := by
  subst hu hea
  show execSpop d s = _
  rw [execSpop, withSlot0_on h0, withIssue_of_readyFor hr]
  simp only [State.issued_stack, hx, List.getLast?_nil, State.issued_scnt, if_neg hc, ThreadSet.spillAt, State.issued_sbase]
  rfl

end

/-! ### Edges, coverage and derivatives (R291, R292, R294) -/

/-- Where operands that enter every lane hold no NaN and no infinity, only a lane's further ones can (R291). -/
theorem lane_of_further {α : Type} {p : Prop} [Decidable p] (flat ops : List Opv) (nan free val : α) :
    (if flat.any (·.v.isNaN) then nan else if flat.any (·.v.isInf) then free
      else if (if p then flat else flat ++ ops).any (·.v.isNaN) then nan
      else if (if p then flat else flat ++ ops).any (·.v.isInf) then free else val) =
    if flat.any (·.v.isNaN) then nan else if flat.any (·.v.isInf) then free
      else if (if p then [] else ops).any (·.v.isNaN) then nan else if (if p then [] else ops).any (·.v.isInf) then free else val := by
  cases hn : flat.any (·.v.isNaN)
  case true => rfl
  cases hf : flat.any (·.v.isInf)
  case true => rfl
  by_cases hp : p
  · simp only [if_pos hp, hn, hf, List.any_nil]
  · simp only [if_neg hp, List.any_append, hn, hf, Bool.false_or]

/-- The difference that `dfx` and `dfy` put in lane `q`. -/
def laneDiff (rm : Nat) (draws : List Nat) (v : VReg) (hi lo : Nat → Nat) (q : Nat) : Nat × Nat :=
  let r := fpAdd fmtF32 rm (draws.getD q 0) (laneF v (hi q)) (laneF v (lo q)).negate
  (r.1.bits, r.2)

theorem laneDiffs_of_readyFor {d a : RegNo} {s u : State} {dr : List Nat × State} (hu : s.issued [(.v, .reg a)] = u)
    (hdr : u.draws u.th.rm 4 = dr) (hr : s.readyFor [(.v, .reg a)] [(.v, .reg d)] = true) (hi lo : Nat → Nat) :
    laneDiffs hi lo d a s =
      .next ((dr.2.putV (.reg d) (vF32 ((List.range 4).map (laneDiff u.th.rm dr.1 (s.rv a) hi lo)))).advance) := by
  subst hu hdr
  rw [laneDiffs, withIssue_of_readyFor hr]
  dsimp only
  rw [State.issued_rv]
  rfl

theorem laneDiff_congr {hi lo hi' lo' : Nat → Nat} (h : ∀ q, q < 4 → hi q = hi' q ∧ lo q = lo' q) (rm : Nat) (draws : List Nat) (v : VReg) :
    (List.range 4).map (laneDiff rm draws v hi lo) = (List.range 4).map (laneDiff rm draws v hi' lo') := by
  refine List.map_congr_left fun q hq => ?_
  obtain ⟨hhi, hlo⟩ := h q (List.mem_range.1 hq)
  rw [laneDiff, laneDiff, hhi, hlo]

/-! ### Lanes of a register (R238) -/

/-- A register of four lanes has the bits of each, where none is wider than its lane. -/
theorem laneBits_vF32 (f : Nat → Nat × Nat) (hf : ∀ q, q < 4 → (f q).1 < 2 ^ 32) {q : Nat} (hq : q < 4) :
    laneBits .f32 (vF32 ((List.range 4).map f)) q = (f q).1 := by
  have hbits : (vF32 ((List.range 4).map f)).bits.toNat =
      ((f 0).1 + 2 ^ 32 * ((f 1).1 + 2 ^ 32 * ((f 2).1 + 2 ^ 32 * ((f 3).1 + 2 ^ 32 * 0)))) % 2 ^ 128 := BitVec.toNat_ofNat ..
  have h0 := hf 0 (by decide)
  have h1 := hf 1 (by decide)
  have h2 := hf 2 (by decide)
  have h3 := hf 3 (by decide)
  rw [laneBits, hbits]
  simp only [laneW]
  interval_cases q <;> omega

theorem laneCount_vF32 (f : Nat → Nat × Nat) {q : Nat} (hq : q < 4) :
    laneCount .f32 24 (vF32 ((List.range 4).map f)) q = min (f q).2 24 := by
  have hslot : vget (vF32 ((List.range 4).map f)).tc q = min 24 (f q).2 := by
    simp only [vF32, vregOf, slotCounts, laneFmt, vget, Vector.getElem_ofFn]
    interval_cases q <;> rfl
  have hq32 : laneSlot .f32 q = q := Nat.mul_div_cancel q (by decide)
  rw [laneCount, hq32, hslot, Nat.min_comm 24, Nat.min_assoc, Nat.min_self]

theorem laneBits_lt (v : VReg) (q : Nat) : laneBits .f32 v q < 2 ^ 32 := Nat.mod_lt _ (by decide)

theorem laneCount_le (v : VReg) (q : Nat) : laneCount .f32 24 v q ≤ 24 := Nat.min_le_right ..

/-- Taking 256 from a number whose bit 8 is set clears that bit. -/
theorem testBit_clear_eight (x k : Nat) : (if x / 256 % 2 = 1 then x - 256 else x).testBit k = (x.testBit k && k != 8) := by
  have hbit : x.testBit 8 = decide (x / 256 % 2 = 1) := Nat.testBit_eq_decide_div_mod_eq
  split
  · next h =>
    have hlow : x % 256 < 2 ^ 8 := Nat.mod_lt _ (by decide)
    have hset : x = 2 ^ 9 * (x / 512) + (2 ^ 8 + x % 256) := by omega
    have hclear : x - 256 = 2 ^ 9 * (x / 512) + x % 256 := by omega
    have hx : x.testBit k = _ := (congrArg (Nat.testBit · k) hset).trans (Nat.testBit_two_pow_mul_add _ (by omega) k)
    rw [hx, hclear, Nat.testBit_two_pow_mul_add _ (by omega)]
    obtain hk | rfl | hk : k < 8 ∨ k = 8 ∨ 9 ≤ k := by omega
    · rw [if_pos (by omega), if_pos (by omega), Nat.testBit_two_pow_add_gt hk, bne_iff_ne.2 (by omega), Bool.and_true]
    · rw [if_pos (by decide), Nat.testBit_lt_two_pow hlow]
      exact (Bool.and_false _).symm
    · rw [if_neg (by omega), if_neg (by omega), bne_iff_ne.2 (by omega), Bool.and_true]
  · next h =>
    by_cases hk : k = 8
    · rw [hk, hbit, decide_eq_false h]
      rfl
    · rw [bne_iff_ne.2 hk, Bool.and_true]

/-! ### Merging (R293) -/

/-- Lane `q` of the first register that `qmrg` writes, where the quads merge (`ok`) or do not. -/
def mergedMask (ok : Bool) (a0 b0 : VReg) (q : Nat) : Nat × Nat :=
  let ma := laneBits .f32 a0 0 % 16
  let mb := laneBits .f32 b0 0 % 16
  let x := laneBits .f32 a0 0
  if q ≠ 0 then (laneBits .f32 a0 q, laneCount .f32 24 a0 q)
  else if ok then (256 + mb * 16 + (ma ||| mb), 24)
  else (if x / 256 % 2 = 1 then x - 256 else x, laneCount .f32 24 a0 0)

/-- Lane `q` of the second. -/
def mergedDepth (ok : Bool) (a1 b0 b1 : VReg) (q : Nat) : Nat × Nat :=
  let src := if ok && (laneBits .f32 b0 0 % 16).testBit q then b1 else a1
  (laneBits .f32 src q, laneCount .f32 24 src q)

theorem mergedMask_merged (a0 b0 : VReg) : mergedMask true a0 b0 0 =
    (256 + laneBits .f32 b0 0 % 16 * 16 + (laneBits .f32 a0 0 % 16 ||| laneBits .f32 b0 0 % 16), 24) := rfl

theorem mergedMask_kept (a0 b0 : VReg) : mergedMask false a0 b0 0 =
    (if laneBits .f32 a0 0 / 256 % 2 = 1 then laneBits .f32 a0 0 - 256 else laneBits .f32 a0 0, laneCount .f32 24 a0 0) := rfl

theorem mergedMask_normals (ok : Bool) (a0 b0 : VReg) {q : Nat} (hq : q ≠ 0) :
    mergedMask ok a0 b0 q = (laneBits .f32 a0 q, laneCount .f32 24 a0 q) :=
  if_pos hq

theorem mergedMask_lt (ok : Bool) (a0 b0 : VReg) (q : Nat) : (mergedMask ok a0 b0 q).1 < 2 ^ 32 := by
  have hx := laneBits_lt a0 0
  have hor : laneBits .f32 a0 0 % 16 ||| laneBits .f32 b0 0 % 16 < 2 ^ 4 :=
    Nat.or_lt_two_pow (Nat.mod_lt _ (by decide)) (Nat.mod_lt _ (by decide))
  unfold mergedMask
  dsimp only
  split
  · exact laneBits_lt a0 q
  · split
    · dsimp only
      omega
    · dsimp only
      split <;> omega

theorem getD_lanes4 (v : VReg) {q : Nat} (hq : q < 4) : (lanes4 v).getD q (0, 0) = (laneBits .f32 v q, laneCount .f32 24 v q) := by
  interval_cases q <;> rfl

theorem map_mergedDepth (ok : Bool) (a1 b0 b1 : VReg) :
    (List.range 4).map (fun q => (lanes4 (if (ok && laneBits .f32 b0 0 % 16 / 2 ^ q % 2 == 1) = true then b1 else a1)).getD q (0, 0)) =
      (List.range 4).map (mergedDepth ok a1 b0 b1) := by
  refine List.map_congr_left fun q hq => ?_
  rw [getD_lanes4 _ (List.mem_range.1 hq), mergedDepth, Nat.testBit_eq_decide_div_mod_eq]
  rfl

theorem exec_qmrg {d a b p : RegNo} {s : State} {ok : Bool} (h0 : s.onSlot0 = true)
    (hr : s.readyFor [(.v, .reg a), (.v, .reg (a + 1)), (.v, .reg b), (.v, .reg (b + 1)), (.g, .reg p)]
      [(.v, .reg d), (.v, .reg (d + 1))] = true)
    (hok : (mergeOk (s.rv a) (s.rv (a + 1)) (s.rv b) (s.rv (b + 1)) (f32v ((s.rg p).toNat % 2 ^ 32)) (f32v ((s.rg p).toNat / 2 ^ 32))).getD
      (freeChoice [3, (s.rv a).bits.toNat, (s.rv (a + 1)).bits.toNat, (s.rv b).bits.toNat, (s.rv (b + 1)).bits.toNat, (s.rg p).toNat] 0) = ok) :
    exec (.qmrg d a b p) s =
      .next ((((s.issued [(.v, .reg a), (.v, .reg (a + 1)), (.v, .reg b), (.v, .reg (b + 1)), (.g, .reg p)]).putV (.reg d)
        (vF32 ((List.range 4).map (mergedMask ok (s.rv a) (s.rv b))))).putV (.reg (d + 1))
          (vF32 ((List.range 4).map (mergedDepth ok (s.rv (a + 1)) (s.rv b) (s.rv (b + 1)))))).advance) := by
  show execQmrg d a b p s = _
  rw [execQmrg, withSlot0_on h0, withIssue_of_readyFor hr]
  simp only [State.issued_rv, State.issued_rg, hok]
  rw [map_mergedDepth]
  cases ok <;> rfl

/-! ### Sampling (R296, R298, R309) -/

/-- What a row of the sampler reads: its descriptor's address, the coordinates and what `more` it names. -/
abbrev samplerReads (a b : RegNo) (more : List (Cls × Opnd)) : List (Cls × Opnd) :=
  [(.g, .reg a), (.v, .reg b), (.v, .reg (b + 1))] ++ more

/-- The four registers that it writes. -/
abbrev samplerWrites (d : RegNo) : List (Cls × Opnd) := [(.v, .reg d), (.v, .reg (d + 1)), (.v, .reg (d + 2)), (.v, .reg (d + 3))]

section
variable {d a b : RegNo} {more : List (Cls × Opnd)}
  {px : Sampler → Nat → State → Except (Nat × Nat) (List (Nat × Nat)) × State} {s u : State}
  (hu : s.issued (samplerReads a b more) = u) (hr : s.readyFor (samplerReads a b more) (samplerWrites d) = true)
include hu hr

theorem samplerOp_misaligned (hal : (s.rg a).toNat % 32 ≠ 0) : samplerOp d a b more px s = u.trap 0x04 (s.rg a) := by
  subst hu
  rw [samplerOp, withIssue_of_readyFor hr]
  simp only [State.issued_rg, if_pos hal, State.memTrap, BitVec.ofNat_toNat, BitVec.setWidth_eq]

variable (hal : (s.rg a).toNat % 32 = 0)
include hal

theorem samplerOp_acquiring (hacq : u.acquiring s.cur.1 s.cur.2 = true) : samplerOp d a b more px s = .next u := by
  subst hu
  rw [samplerOp, withIssue_of_readyFor hr]
  simp only [State.issued_rg, State.issued_cur, hal, ne_eq, not_true_eq_false, if_false, hacq, if_true]

variable (hacq : u.acquiring s.cur.1 s.cur.2 = false)
include hacq

theorem samplerOp_unreadable {c x : Nat} {s1 : State} (hread : u.sample (s.rg a).toNat 32 = (.error (c, x), s1)) :
    samplerOp d a b more px s = s1.trap c (BitVec.ofNat 64 x) := by
  subst hu
  rw [samplerOp, withIssue_of_readyFor hr]
  simp only [State.issued_rg, State.issued_cur, hal, ne_eq, not_true_eq_false, if_false, hacq, Bool.false_eq_true, hread, State.memTrap]

variable {bs : List Byte} {s1 : State} (hread : u.sample (s.rg a).toNat 32 = (.ok bs, s1))
include hread

theorem samplerOp_malformed (hbad : (samplerOf bs).malformed = true) : samplerOp d a b more px s = s1.trap 0x07 (s1.rg a) := by
  subst hu
  rw [samplerOp, withIssue_of_readyFor hr]
  simp only [State.issued_rg, State.issued_cur, hal, ne_eq, not_true_eq_false, if_false, hacq, Bool.false_eq_true, hread, hbad, if_true]

variable (hgood : (samplerOf bs).malformed = false) {s2 : State}
include hgood

theorem samplerOp_faults {c x : Nat} (hpx : s1.samplePixels (px (samplerOf bs)) [0, 1, 2, 3] = (.error (c, x), s2)) :
    samplerOp d a b more px s = s2.trap c (BitVec.ofNat 64 x) := by
  subst hu
  rw [samplerOp, withIssue_of_readyFor hr]
  simp only [State.issued_rg, State.issued_cur, hal, ne_eq, not_true_eq_false, if_false, hacq, Bool.false_eq_true, hread, hgood, hpx, State.memTrap]

theorem samplerOp_samples {ps : List (List (Nat × Nat))} (hpx : s1.samplePixels (px (samplerOf bs)) [0, 1, 2, 3] = (.ok ps, s2)) :
    let reg := fun (c : Nat) => vF32 (ps.map (fun p => p.getD c (0, 0)))
    samplerOp d a b more px s = .next (((((s2.putV (.reg d) (reg 0)).putV (.reg (d + 1)) (reg 1)).putV (.reg (d + 2)) (reg 2)).putV
      (.reg (d + 3)) (reg 3)).advance) := by
  subst hu
  rw [samplerOp, withIssue_of_readyFor hr]
  simp only [State.issued_rg, State.issued_cur, hal, ne_eq, not_true_eq_false, if_false, hacq, Bool.false_eq_true, hread, hgood, hpx]
  rfl

end

/-- The rows of the sampler: `smp`, `smpl` and `txl`. -/
def samplerRow (k : Fin 3) (d a b l : RegNo) : Instr :=
  match k with
  | 0 => .smp d a b
  | 1 => .smpl d a b l
  | 2 => .txl d a b

/-- How each row samples pixel `q`, by the registers as they stood at issue. -/
def State.samplerPixel (s : State) (k : Fin 3) (b l : RegNo) (ds : Sampler) (q : Nat) (t : State) :
    Except (Nat × Nat) (List (Nat × Nat)) × State :=
  match k with
  | 0 => t.bilinear ds (smpLevel ds (s.rv b) (s.rv (b + 1))) (laneF (s.rv b) q) (laneF (s.rv (b + 1)) q)
  | 1 => t.bilinear ds (smplLevel ds (viewF fmtF32 (s.rf l))) (laneF (s.rv b) q) (laneF (s.rv (b + 1)) q)
  | 2 => match t.texelAt ds 0 (laneInt .i32 (laneBits .i32 (s.rv b) q)) (laneInt .i32 (laneBits .i32 (s.rv (b + 1)) q)) with
    | (.error e, t) => (.error e, t)
    | (.ok x, t) => (.ok (x.map texelVal), t)

theorem exec_samplerRow {s : State} (h0 : s.onSlot0 = true) (k : Fin 3) (d a b l : RegNo) :
    exec (samplerRow k d a b l) s = samplerOp d a b (if k = 1 then [(.f, .reg l)] else []) (s.samplerPixel k b l) s := by
  match k with
  | 0 =>
    show execSmp d a b s = _
    rw [execSmp, withSlot0_on h0]
    rfl
  | 1 =>
    show execSmpl d a b l s = _
    rw [execSmpl, withSlot0_on h0]
    rfl
  | 2 =>
    show execTxl d a b s = _
    rw [execTxl, withSlot0_on h0]
    rfl

/-- Settles O53: what every row does off slot 0, and on it one equation for each way a row can end. -/
theorem renderingInstructionsRunOnSlotZero : Obligations.RenderingInstructionsRunOnSlotZero := by
  unfold Obligations.RenderingInstructionsRunOnSlotZero
  refine ⟨fun i s hi h => ?off, ?boxt, ?trit, ?fails, ?spush, ?spop, ?edg, ?cov, ?qmrg, ?diffs, ?sampled, ?sampler⟩
  case off =>
    have hrun := exec_slot0_off hi h
    refine ⟨fun hf => ?_, fun hf => ⟨fun hm => ?_, fun hm => ?_⟩⟩
    · rw [hrun, if_pos hf]
    · rw [hrun, hf, if_neg Bool.false_ne_true, if_pos hm]
    · rw [hrun, hf, hm, if_neg Bool.false_ne_true, if_neg Bool.false_ne_true]
  case boxt =>
    intro d a b m s s1 bs h0 rds hr h rs
    exact exec_structRow_reads (i := .boxt d a b m) rfl h0 hr h
  case trit =>
    intro d a b w s s1 bs h0 rds hr h
    refine ⟨exec_trit_misses h0 hr h, fun t bary ht hf => ?_, fun t bary ht hf => ?_⟩
    · rw [exec_trit_hits h0 hr h ht, hf, if_neg Bool.false_ne_true]
    · rw [exec_trit_hits h0 hr h ht, if_pos hf]
  case fails =>
    intro d a b w cause tval s s1 h0 ray ed
    exact ⟨fun hr h => exec_structRow_fails rfl h0 hr h, fun hr h => exec_structRow_fails rfl h0 hr h,
      fun hr h => exec_structRow_fails rfl h0 hr h⟩
  case spush =>
    intro a s s1 tg h0 hr u ea push
    have hrun := exec_spush h0 hr (u := u) rfl (ea := ea) rfl
    have hfull : 8 ≤ s.th.stack.length → ¬ s.th.stack.length < 8 := Nat.not_lt.2
    refine ⟨fun h => ?_, fun h hc => ?_, fun h hc hcheck hbehind => ?_, fun c h hc hcheck => ?_⟩
    · rw [hrun, if_pos h]
      rfl
    · rw [hrun, if_neg (hfull h), if_pos hc]
    · rw [hrun, if_neg (hfull h), if_neg hc, hcheck]
      exact if_neg (Bool.eq_false_iff.1 hbehind)
    · rw [hrun, if_neg (hfull h), if_neg hc, hcheck]
  case spop =>
    intro d s s1 s2 tg bs h0 hr u ea
    refine ⟨fun x xs => exec_spop_held h0 hr, exec_spop_bottom h0 hr, fun h hc hcheck hbehind hload => ?_, fun c h hc hcheck => ?_,
      fun x h hc hcheck hbehind hload => ?_⟩
    · rw [exec_spop_refills h0 hr rfl rfl h hc, hcheck]
      dsimp only
      rw [hbehind, if_neg Bool.false_ne_true, hload]
    · rw [exec_spop_refills h0 hr rfl rfl h hc, hcheck]
    · rw [exec_spop_refills h0 hr rfl rfl h hc, hcheck]
      dsimp only
      rw [hbehind, if_neg Bool.false_ne_true, hload]
  case edg =>
    intro d a b s s1 bs h0 hr h v o x flat lane row
    rw [exec_structRow_reads (i := .edg d a b) rfl h0 hr h]
    dsimp only
    simp only [lane_of_further]
    rfl
  case cov =>
    intro d a b z s h0
    dsimp only
    intro hr
    have hrun : exec (.cov d a b z) s = execCov d a b z s := rfl
    simp only [hrun, execCov, withSlot0_on h0, withIssue_of_readyFor hr, State.issued_rv]
    exact ⟨fun hn => by rw [hn]; rfl, fun hn => by rw [hn]; rfl⟩
  case qmrg =>
    intro d a b p s ok h0 rds hr ma mb test key hok
    have htest : test.getD (freeChoice key 0) = ok := by
      obtain h | ⟨h, hfree⟩ := hok
      · rw [h, Option.getD_some]
      · rw [h, Option.getD_none, hfree]
    have hbits := fun q => laneBits_vF32 (mergedMask ok (s.rv a) (s.rv b)) (fun q _ => mergedMask_lt ..) (q := q)
    have hcount := fun q => laneCount_vF32 (mergedMask ok (s.rv a) (s.rv b)) (q := q)
    refine ⟨_, _, exec_qmrg h0 hr htest, fun hm => ?merged, fun hm => ?kept, fun q hq1 hq => ?normals, fun q hq => ?depths⟩
    case merged =>
      rw [hbits 0 (by decide), hcount 0 (by decide), hm, mergedMask_merged]
      exact ⟨by rw [Nat.mul_comm 16], rfl⟩
    case kept =>
      rw [hcount 0 (by decide), hm, mergedMask_kept]
      refine ⟨fun k => ?_, Nat.min_eq_left (laneCount_le ..)⟩
      rw [← hm, hbits 0 (by decide), hm, mergedMask_kept]
      exact testBit_clear_eight ..
    case normals =>
      rw [hbits q hq, hcount q hq, mergedMask_normals ok _ _ (by omega)]
      exact ⟨rfl, Nat.min_eq_left (laneCount_le ..)⟩
    case depths =>
      rw [laneBits_vF32 _ (fun q _ => laneBits_lt ..) hq, laneCount_vF32 _ hq]
      exact ⟨rfl, Nat.min_eq_left (laneCount_le ..)⟩
  case diffs =>
    intro y d a s h0 hr u dr i
    cases y
    · refine (withSlot0_on h0 ..).trans ((laneDiffs_of_readyFor rfl rfl hr ..).trans ?_)
      rw [laneDiff_congr (hi' := fun q => q / 2 * 2 + 1) (lo' := fun q => q / 2 * 2) fun q hq => by interval_cases q <;> decide]
      rfl
    · refine (withSlot0_on h0 ..).trans ((laneDiffs_of_readyFor rfl rfl hr ..).trans ?_)
      rw [laneDiff_congr (hi' := fun q => q % 2 + 2) (lo' := fun q => q % 2) fun q hq => by interval_cases q <;> decide]
      rfl
  case sampled =>
    intro k d a b l s s1 s2 bs h0 rds hr hal hacq hread hgood ds u v r i
    have hrun : exec i s = _ := exec_samplerRow h0 k d a b l
    exact ⟨fun ps h => hrun.trans (samplerOp_samples rfl hr hal hacq hread hgood h),
      fun c x h => hrun.trans (samplerOp_faults rfl hr hal hacq hread hgood h)⟩
  case sampler =>
    intro k d a b l s h0 rds hr u i
    have hrun : exec i s = _ := exec_samplerRow h0 k d a b l
    exact ⟨fun hal => hrun.trans (samplerOp_misaligned rfl hr hal), fun hal hacq => hrun.trans (samplerOp_acquiring rfl hr hal hacq),
      fun hal hacq => ⟨fun c x s1 hread => hrun.trans (samplerOp_unreadable rfl hr hal hacq hread),
        fun bs s1 hread hbad => hrun.trans (samplerOp_malformed rfl hr hal hacq hread hbad)⟩⟩

end Sys2Proof.Machine
end

section
/-! The turn of a v-instruction at its quad's unit and the lane rows without rounding (R238, R240, R248), and O39 from them. -/
namespace Sys2Proof.Machine

/-! ### The quad's unit (R248) -/

/-- While w-ops hold the unit and the element has no grant, a v-instruction waits. -/
theorem withVec_waits {rds wrs : List (Cls × Opnd)} {k : State → Host.Outcome State Fault Refusal} {s : State}
    (h : s.vecTurn = false) : withVec rds wrs k s = .next s := by
  simp only [State.vecTurn, Bool.or_eq_false_iff] at h
  obtain ⟨hbusy, hgrant⟩ := h
  rw [withVec, hbusy, hgrant]
  rfl

/-- What is ready acts once the unit has a turn for it. -/
theorem withVec_of_readyFor {rds wrs : List (Cls × Opnd)} {k : State → Host.Outcome State Fault Refusal} {s : State}
    (hr : s.readyFor rds wrs = true) (ht : s.vecTurn = true) : withVec rds wrs k s = k (s.vecIssued rds) := by
  rw [withVec, State.vecIssued, withIssue_of_readyFor hr, withIssue_of_readyFor hr]
  split
  · rfl
  · next hbusy =>
    rw [State.vecTurn, Bool.eq_false_iff.2 hbusy, Bool.false_or] at ht
    rw [ht]
    rfl

@[simp] theorem State.takeGrant_th (qd : Nat) (s : State) : (s.takeGrant qd).th = s.th := rfl

@[simp] theorem State.vecIssued_rv (rds : List (Cls × Opnd)) (s : State) (n : RegNo) : (s.vecIssued rds).rv n = s.rv n := by
  unfold State.vecIssued
  split
  · exact s.issued_rv rds n
  · rw [State.rv, State.takeGrant_th]
    exact s.issued_rv rds n

/-! ### Pops change what is read of the payload and no register (R178, R180) -/

/-- `t` has the issuing set of `s`, except that its activation may have read on in its payload. -/
def State.ReadsOn (s t : State) : Prop := ∃ act, t.th = { s.th with act := act }

theorem State.ReadsOn.refl (s : State) : s.ReadsOn s := ⟨_, rfl⟩

theorem State.ReadsOn.trans {s t u : State} (h : s.ReadsOn t) (h' : t.ReadsOn u) : s.ReadsOn u := by
  obtain ⟨_, h⟩ := h
  obtain ⟨_, h'⟩ := h'
  exact ⟨_, by rw [h', h]⟩

theorem State.ReadsOn.rv {s t : State} (h : s.ReadsOn t) (n : RegNo) : t.rv n = s.rv n := by
  obtain ⟨_, h⟩ := h
  rw [State.rv, h]
  rfl

theorem State.ReadsOn.rm {s t : State} (h : s.ReadsOn t) : t.th.rm = s.th.rm := by
  obtain ⟨_, h⟩ := h
  rw [h]
  rfl

theorem State.popPayload_readsOn (s : State) : s.ReadsOn (s.popPayload s.cur.1 s.cur.2).2 := by
  unfold State.popPayload
  split
  · split
    · exact .refl s
    · next a _ _ => exact ⟨some { a with read := a.read + 1 }, s.th_updTh _⟩
  · exact .refl s

/-- What a port's queue becomes leaves every thread set. -/
theorem State.updIn_th (le : Nat) (p : Port) (f : Fifo → Fifo) (s : State) : (s.updIn le p f).th = s.th := by
  unfold State.updIn
  split
  · exact State.th_updEl_of_sets s le fun _ => rfl
  · split
    · exact State.th_updEl_of_sets s le fun _ => rfl
    · rfl

theorem State.popFifo_readsOn (w : Waiter) (le : Nat) (p : Port) (s : State) : s.ReadsOn (s.popFifo w le p).2 := by
  unfold State.popFifo
  split
  · exact ⟨_, State.updIn_th ..⟩
  · exact .refl s

theorem State.popWord_readsOn (p : Port) (s : State) : s.ReadsOn (s.popWord p).2 := by
  cases p with
  | pi => exact s.popPayload_readsOn
  | po => exact .refl s
  | _ => exact s.popFifo_readsOn ..

theorem State.takeG_readsOn (o : Opnd) (s : State) : s.ReadsOn (s.takeG o).2 := by
  cases o with
  | reg => exact .refl s
  | port p => exact s.popWord_readsOn p

theorem State.takeF_readsOn (p : Nat) (o : Opnd) (s : State) : s.ReadsOn (s.takeF p o).2 := by
  cases o with
  | reg => exact .refl s
  | port q => exact s.popWord_readsOn q

theorem State.takeV_readsOn (p : Nat) (o : Opnd) (s : State) : s.ReadsOn (s.takeV p o).2 := by
  cases o with
  | reg => exact .refl s
  | port q => exact (s.popWord_readsOn q).trans (State.popWord_readsOn q _)

theorem State.takeScalar_readsOn (t : LaneType) (o : Opnd) (s : State) : s.ReadsOn (s.takeScalar t o).2 := by
  unfold State.takeScalar
  split
  · exact s.takeF_readsOn ..
  · exact s.takeG_readsOn ..

/-! ### Lanes and their signs (R61, R240) -/

theorem laneW_pos (t : LaneType) : 0 < laneW t := by cases t <;> decide

theorem laneBits_lt_two_pow (t : LaneType) (v : VReg) (q : Nat) : laneBits t v q < 2 ^ laneW t := Nat.mod_lt _ (Nat.two_pow_pos _)

/-- A floating lane is as wide as its format. -/
theorem laneFmt_width {t : LaneType} {f : Fmt} (h : laneFmt t = some f) : f.w = laneW t := by
  cases t <;> cases h <;> rfl

theorem vSignLane_float {t : LaneType} {f : Fmt} (h : laneFmt t = some f) (kf : Fmt → Nat → Nat) (ki : Int → Int) (x : VReg) (q : Nat) :
    vSignLane t kf ki x q = (kf f (laneBits t x q), movedCount t (laneBits t x q) (laneCount t f.p x q)) := by
  simp only [vSignLane, h]

theorem vSignLane_int {t : LaneType} (h : laneFmt t = none) (kf : Fmt → Nat → Nat) (ki : Int → Int) (x : VReg) (q : Nat) :
    vSignLane t kf ki x q = (laneOfInt (laneW t) (ki (laneInt t (laneBits t x q))), 24) := by
  simp only [vSignLane, h]

/-- Lane `q` of `vabs` or `vneg` (R240): a floating lane by `fk` on its bits, except a NaN, and an integer lane by `ik`. -/
def signedLane (t : LaneType) (fk : Nat → Nat) (ik : Int → Int) (x : VReg) (q : Nat) : Nat × Nat :=
  let b := laneBits t x q
  match laneFmt t with
  | some f => (if (f.val b).isNaN then b else fk b, movedCount t b (laneCount t f.p x q))
  | none => (laneOfInt (laneW t) (ik (laneInt t b)), 24)

/-- The sign operation `kf` is `fk` on the bits of a lane, except a NaN. -/
theorem vSignLane_eq_signedLane {t : LaneType} {kf : Fmt → Nat → Nat} {fk : Nat → Nat}
    (h : ∀ f, laneFmt t = some f → ∀ x < 2 ^ laneW t, kf f x = if (f.val x).isNaN then x else fk x) (ki : Int → Int) :
    vSignLane t kf ki = signedLane t fk ki := by
  funext x q
  unfold signedLane
  cases hf : laneFmt t with
  | some f =>
    rw [vSignLane_float hf, h f hf _ (laneBits_lt_two_pow ..)]
  | none => rw [vSignLane_int hf]

theorem vSignLane_abs (t : LaneType) : vSignLane t (fun f x => f.setSign false x) (fun v => v.natAbs) =
    signedLane t (fun b => b % 2 ^ (laneW t - 1)) (fun v => v.natAbs) :=
  vSignLane_eq_signedLane (fun f hf x _ => by rw [f.setSign_false, laneFmt_width hf]) _

theorem vSignLane_neg (t : LaneType) : vSignLane t (fun f x => f.setSign (f.sign x == 0) x) (fun v => -v) =
    signedLane t (fun b => (b + 2 ^ (laneW t - 1)) % 2 ^ laneW t) (fun v => -v) := by
  refine vSignLane_eq_signedLane (fun f hf x hx => ?_) _
  have hw := laneFmt_width hf
  rw [← hw] at hx ⊢
  exact Fmt.setSign_flipped (hw ▸ laneW_pos t) hx

/-! ### The rows -/

section
variable {t : LaneType} {d a b : Opnd} {s : State}

theorem vMove1_of_readyFor {k : VReg → Nat → Nat × Nat} (hr : s.readyFor [(.v, a)] [(.v, d)] = true) (ht : s.vecTurn = true) :
    vMove1 t k d a s =
      let x := (s.vecIssued [(.v, a)]).takeV (laneFull t) a
      .next ((x.2.putV d (vregOf t ((List.range (laneN t)).map (k x.1)))).advance) :=
  withVec_of_readyFor hr ht

theorem vMove2_of_readyFor {k : VReg → VReg → Nat → Nat × Nat} {fl : VReg → VReg → FpFlags}
    (hr : s.readyFor [(.v, a), (.v, b)] [(.v, d)] = true) (ht : s.vecTurn = true) :
    vMove2 t k fl d a b s =
      let x := (s.vecIssued [(.v, a), (.v, b)]).takeV (laneFull t) a
      let y := x.2.takeV (laneFull t) b
      .next (((y.2.putV d (vregOf t ((List.range (laneN t)).map (k x.1 y.1)))).updTh (·.raise (fl x.1 y.1))).advance) :=
  withVec_of_readyFor hr ht

end

theorem exec_vabs (t : LaneType) (d a : Opnd) (s : State) : exec (.vabs t d a) s = execVabs t d a s := rfl
theorem exec_vneg (t : LaneType) (d a : Opnd) (s : State) : exec (.vneg t d a) s = execVneg t d a s := rfl
theorem exec_vbc (t : LaneType) (d a : Opnd) (s : State) : exec (.vbc t d a) s = execVbc t d a s := rfl
theorem exec_vins (t : LaneType) (d : RegNo) (a : Opnd) (l : BitVec 6) (s : State) : exec (.vins t d a l) s = execVins t d a l s := rfl
theorem exec_vext (t : LaneType) (d a : Opnd) (l : BitVec 6) (s : State) : exec (.vext t d a l) s = execVext t d a l s := rfl
theorem exec_vcmp (t : LaneType) (d a b : Opnd) (s : State) : exec (.vcmp t d a b) s = execVcmp t d a b s := rfl
theorem exec_vsel (t : LaneType) (d : RegNo) (a b : Opnd) (s : State) : exec (.vsel t d a b) s = execVsel t d a b s := rfl

/-- Lane `q` of floating `vcmp` (R240): all ones for below, 1 for equal, 0 for above and for a NaN. -/
def orderedLane (t : LaneType) (f : Fmt) (x y : VReg) (q : Nat) : Nat × Nat :=
  let p := (laneOpv t f x q).v
  let r := (laneOpv t f y q).v
  (if p.isNaN || r.isNaN then 0 else if fpOrd p r = some true then 2 ^ laneW t - 1 else if fpOrd p r = none then 1 else 0, 0)

theorem execVcmp_float {t : LaneType} {f : Fmt} (h : laneFmt t = some f) (d a b : Opnd) (s : State) :
    execVcmp t d a b s = vMove2 t (orderedLane t f)
      (fun x y => if (List.range (laneN t)).any (fun q => (laneOpv t f x q).v.isNaN || (laneOpv t f y q).v.isNaN) then flNV else 0) d a b s := by
  simp only [execVcmp, h]
  congr 1
  funext x y q
  unfold orderedLane
  dsimp only
  rcases fpOrd (laneOpv t f x q).v (laneOpv t f y q).v with _ | _ | _ <;> rfl

theorem execVcmp_int {t : LaneType} (h : laneFmt t = none) (d a b : Opnd) (s : State) :
    execVcmp t d a b s = vMove2 t (fun x y q =>
      let p := laneInt t (laneBits t x q)
      let r := laneInt t (laneBits t y q)
      (if p < r then 2 ^ laneW t - 1 else if p = r then 1 else 0, 24)) (fun _ _ => 0) d a b s := by
  simp only [execVcmp, h]

/-- Settles O39: each row acts in the issued state once the unit has a turn, and what it keeps of `v[d]` no pop has changed. -/
theorem vectorLaneMoves : Obligations.VectorLaneMoves := by
  refine ⟨?two, ?signs, ?vbc, ?vins, ?vext, ?vcmp, ?vsel⟩
  case two =>
    intro i t k fl d a b s hi
    rw [exec_of_laneTable2 hi]
    exact ⟨withVec_waits, vMove2_of_readyFor⟩
  case signs =>
    intro t d a s hr ht x moved
    constructor
    · rw [exec_vabs, execVabs, vSignLane_abs]
      exact vMove1_of_readyFor hr ht
    · rw [exec_vneg, execVneg, vSignLane_neg]
      exact vMove1_of_readyFor hr ht
  case vbc =>
    intro t d a s hr ht x
    rw [exec_vbc, execVbc, withVec_of_readyFor hr ht]
  case vins =>
    intro t d a l s hr ht x
    rw [exec_vins, execVins, withVec_of_readyFor hr ht]
    dsimp only
    rw [(State.takeScalar_readsOn ..).rv, State.vecIssued_rv]
    rfl
  case vext =>
    intro t d a l s hr ht x
    rw [exec_vext, execVext, withVec_of_readyFor hr ht]
    cases laneFmt t <;> rfl
  case vcmp =>
    intro t d a b s hr ht x y ones
    rw [exec_vcmp]
    cases h : laneFmt t with
    | some f =>
      rw [execVcmp_float h, vMove2_of_readyFor hr ht]
      rfl
    | none =>
      rw [execVcmp_int h, vMove2_of_readyFor hr ht]
  case vsel =>
    intro t d a b s hr ht x y
    rw [exec_vsel, execVsel, withVec_of_readyFor hr ht]
    dsimp only
    refine congrArg (fun lanes => Host.Outcome.next ((y.2.putV (.reg d) (vregOf t ((List.range (laneN t)).map lanes))).advance)) (funext fun q => ?_)
    rw [((State.takeV_readsOn ..).trans (State.takeV_readsOn ..)).rv, State.vecIssued_rv]
    exact (apply_ite (laneMoved t · q) ..).symm

end Sys2Proof.Machine
end

section
/-! Checked lane results (R82, R84, R240 to R243), and O40 from them. -/
namespace Sys2Proof.Machine

/-! ### The check of a vector result (R82, R241) -/

/-- The least index whose entry is found is the one that a search of the list itself finds. -/
theorem find?_range_eq_findIdx? {α : Type} {p : α → Bool} {rs : List α} {g : Nat → Bool} (hg : ∀ q, g q = rs[q]?.any p) :
    (List.range rs.length).find? g = rs.findIdx? p := by
  obtain rfl : g = fun q => rs[q]?.any p := funext hg
  clear hg
  induction rs with
  | nil => rfl
  | cons x xs ih =>
    rw [List.length_cons, List.range_succ_eq_map, List.find?_cons, List.findIdx?_cons, List.find?_map, ← ih]
    simp only [List.getElem?_cons_zero, Option.any_some]
    cases p x <;> rfl

section
variable {t : LaneType} {rds : List (Cls × Opnd)} {d : Opnd} {rs : List LaneRes} {s0 s1 : State}

theorem vRetire_of_passes (h : rs.findIdx? (laneBad s0.th) = none) : vRetire t rds d rs s0 s1 = .next (s1.retireV t rs d) := by
  unfold vRetire
  dsimp only
  rw [find?_range_eq_findIdx? (p := laneBad s0.th) fun q => by cases rs[q]? <;> rfl, h]
  rfl

/-- The trap names the lowest lane that fails and is taken in the state before any pop. -/
theorem vRetire_of_fails {q : Nat} {l : LaneRes} (h : rs.findIdx? (laneBad s0.th) = some q) (hl : rs[q]? = some l) :
    vRetire t rds d rs s0 s1 = s0.laneTrap t rds d rs q l := by
  unfold vRetire
  dsimp only
  rw [find?_range_eq_findIdx? (p := laneBad s0.th) fun q => by cases rs[q]? <;> rfl, h]
  dsimp only
  rw [List.getD_eq_getElem?_getD, hl]
  rfl

/-- A checked result retires, or is held by the trap. -/
theorem vRetire_cases : (rs.findIdx? (laneBad s0.th) = none → vRetire t rds d rs s0 s1 = .next (s1.retireV t rs d)) ∧
    (∀ q l, rs.findIdx? (laneBad s0.th) = some q → rs[q]? = some l → vRetire t rds d rs s0 s1 = s0.laneTrap t rds d rs q l) :=
  ⟨vRetire_of_passes, fun _ _ => vRetire_of_fails⟩

end

theorem exec_vred (t : LaneType) (d a : Opnd) (s : State) : exec (.vred t d a) s = execVred t d a s := rfl
theorem exec_vdot (t : LaneType) (d a b : Opnd) (s : State) : exec (.vdot t d a b) s = execVdot t d a b s := rfl
theorem exec_vcvt (dst src : LaneType) (d a : Opnd) (s : State) : exec (.vcvt dst src d a) s = execVcvt dst src d a s := rfl

theorem exec_vfma (bf : Bool) (d a b c : Opnd) (s : State) : exec (if bf then .vfmaBf16 d a b c else .vfmaF32 d a b c) s =
    vfmaOp (if bf then .bf16 else .f32) (if bf then fmtBf16 else fmtF32) d a b c s := by
  cases bf <;> rfl

/-- Settles O40: each row acts in the issued state once the unit has a turn; its floating result passes the check or is held by the trap, and
its integer result is written. -/
theorem vectorLaneArithmetic : Obligations.VectorLaneArithmetic := by
  refine ⟨?two, ?vfma, ?vred, ?vdot, ?vcvt⟩
  case two =>
    intro i t kf ki d a b s hi hr ht u
    rw [exec_of_laneArith hi, vArith, withVec_of_readyFor hr ht]
    constructor
    · intro f hf dr x y rs
      simp only [hf]
      exact vRetire_cases
    · intro hf x y
      simp only [hf]
      rfl
  case vfma =>
    intro bf d a b c s hr ht t f u dr x y z rs i
    have hrun : exec i s = _ := (exec_vfma bf d a b c s).trans (withVec_of_readyFor hr ht)
    rw [hrun]
    exact vRetire_cases
  case vred =>
    intro t d a s hr ht u
    rw [exec_vred, execVred, withVec_of_readyFor hr ht]
    constructor
    · intro f hf dr x rs
      simp only [hf]
      exact vRetire_cases
    · intro hf x
      simp only [hf]
      rfl
  case vdot =>
    intro t d a b s hr ht u
    rw [exec_vdot, execVdot, withVec_of_readyFor hr ht]
    constructor
    · intro f hf dr x y z rs
      simp only [hf]
      exact vRetire_cases
    · intro hf x y
      simp only [hf]
      rfl
  case vcvt =>
    intro dst src d a s hr ht
    rw [exec_vcvt, execVcvt, withVec_of_readyFor hr ht]
    cases hd : laneFmt dst with
    | some f => exact ⟨fun _ => vRetire_of_passes, fun _ q l => vRetire_of_fails, nofun⟩
    | none => exact ⟨nofun, nofun, fun _ => rfl⟩

end Sys2Proof.Machine
end

section
/-! Commands of the copy engines and group contributions (R252 to R257), and O45 from them. -/
namespace Sys2Proof.Machine

/-! ### Commands that leave with their operands (R252 to R256) -/

/-- The counter of call ids stands as before issue (R253). -/
@[simp] theorem State.issued_callctr (rds : List (Cls × Opnd)) (s : State) : (s.issued rds).th.callctr = s.th.callctr := by
  obtain ⟨bad, toks, h⟩ := s.issued_th rds
  rw [h]

section
variable {a b : RegNo} {c d : Opnd} {s : State}

theorem execCpy_of_readyFor {d : RegNo} (hr : s.readyFor [(.g, .reg a), (.g, .reg b), (.g, c)] [(.g, .reg d)] = true) :
    execCpy d a b c s =
      let u := s.issued [(.g, .reg a), (.g, .reg b), (.g, c)]
      let n := u.takeG c
      if u.copyFull then .next u
      else .next (((n.2.newId.2.queueCopy ⟨{ n.2.newId.2.issuer n.2.nextId with ownDst := ownCopy (s.rg a) n.1 },
        .cpy (s.rg a) (s.rg b) n.1⟩).mark (.g d) n.2.nextId).advance) := by
  rw [execCpy, withIssue_of_readyFor hr, State.issued_rg, State.issued_rg]
  rfl

/-- A copy that reports by message takes its issue id from the counter of call ids (R253, R254). -/
theorem copyByMessage_of_readyFor {kind : Word → Word → Word → Word → CopyKind}
    (hr : s.readyFor [(.g, .reg a), (.g, .reg b), (.g, c)] [(.g, d)] = true) :
    copyByMessage kind d a b c s =
      let u := s.issued [(.g, .reg a), (.g, .reg b), (.g, c)]
      let n := u.takeG c
      let issue : Word := s.th.callctr.setWidth 64
      if u.copyFull then .next u
      else .next ((((n.2.newId.2.queueCopy ⟨{ n.2.newId.2.issuer n.2.nextId with ownDst := ownCopy (s.rg a) n.1 },
        kind (s.rg a) (s.rg b) n.1 issue⟩).updTh (fun t => { t with callctr := t.callctr + 1 })).putG d issue).advance) := by
  rw [copyByMessage, withIssue_of_readyFor hr, State.issued_rg, State.issued_rg, State.issued_callctr]
  rfl

/-- A gather or scatter waits for a place and for the earlier operations on its destination record (R255). -/
theorem indexedCopy_of_readyFor {kind : Word → Word → Word → CopyKind} {c d : RegNo}
    (hr : s.readyFor [(.g, .reg a), (.g, .reg b), (.g, .reg c)] [(.g, .reg d)] = true) :
    indexedCopy kind d a b c s =
      let u := s.issued [(.g, .reg a), (.g, .reg b), (.g, .reg c)]
      let who := u.newId.2.issuer u.nextId
      let r := u.newId.2.peekRecord who (s.rg b)
      if u.copyFull || u.recordWaits (s.rg b) then .next u
      else .next (((r.2.queueCopy ⟨{ who with ownDst := (r.1.map Shape.inOwn).getD false },
        kind (s.rg a) (s.rg b) (s.rg c)⟩).mark (.g d) u.nextId).advance) := by
  rw [indexedCopy, withIssue_of_readyFor hr, State.issued_rg, State.issued_rg, State.issued_rg]
  rfl

theorem execColl_of_readyFor {d : RegNo} {op : CollOp} (hr : s.readyFor [(.g, .reg a), (.g, .reg b)] [(.g, .reg d)] = true) :
    execColl d a b op s =
      let u := s.issued [(.g, .reg a), (.g, .reg b)]
      if (s.rg b).toNat % 32 ≠ 0 then u.trap 0x04 (s.rg b)
      else if u.copyFull then .next u
      else .next (((u.newId.2.queueCopy ⟨u.newId.2.issuer u.nextId, .coll (s.rg a).toNat (s.rg b) op⟩).mark (.g d) u.nextId).advance) := by
  rw [execColl, withIssue_of_readyFor hr, State.issued_rg, State.issued_rg]
  rfl

end

theorem exec_cpy (d a b : RegNo) (c : Opnd) (s : State) : exec (.cpy d a b c) s = execCpy d a b c s := rfl
theorem exec_coll (d a b : RegNo) (op : CollOp) (s : State) : exec (.coll d a b op) s = execColl d a b op s := rfl

theorem exec_rbr_cpym (own : Bool) (d : Opnd) (a b : RegNo) (c : Opnd) (s : State) :
    exec (if own then .rbr d a b c else .cpym d a b c) s =
      copyByMessage (fun x y n issue => if own then .rbr x y n issue else .cpym x y n issue) d a b c s := by
  cases own <;> rfl

theorem exec_scat_gath (scatter : Bool) (d a b c : RegNo) (s : State) :
    exec (if scatter then .scat d a b c else .gath d a b c) s =
      indexedCopy (fun x y z => if scatter then .scat x y z else .gath x y z) d a b c s := by
  cases scatter <;> rfl

/-! ### Commands performed (R252, R253) -/

theorem exec_copyCommandComplete (tile k : Nat) (s : State) :
    exec (.copyCommandComplete tile k) s = execCopyCommandComplete tile k s := rfl

/-- A command that its engine runs, once the set's earlier operations have completed, leaves and is performed. -/
theorem execCopyCommandComplete_performs {tile k : Nat} {s : State} {c : CopyCmd}
    (hf : (s.copyRunners tile).find? (fun c => c.who.id == k) = some c) (hc : c.isColl = false) (hd : s.storesDone c.who = true) :
    execCopyCommandComplete tile k s = .next ((s.dropCopy tile k).copyPerform c) := by
  simp [execCopyCommandComplete, hf, hc, hd]

section
variable {who : Issuer} {own : Bool} {dst src n : Word} {s : State}

theorem State.copyResult_tooLong (h : 2 ^ 32 ≤ n.toNat) : s.copyResult who own dst src n = (tokErr 0x24, s) := if_pos h

theorem State.copyResult_inAperture (hn : n.toNat < 2 ^ 32) (ha : inAperture dst.toNat n.toNat = true) :
    s.copyResult who own dst src n = (tokErr 0x07, s) := by
  rw [State.copyResult, if_neg (Nat.not_le.2 hn), ha, Bool.true_or, if_pos rfl]

/-- A copy of no byte touches nothing. -/
theorem State.copyRun_zero : s.copyRun who dst src 0 = (0, s) := rfl

theorem State.copyResult_zero : s.copyResult who false dst src 0 = (0, s) := State.copyRun_zero

end

/-! ### Contributions (R257) -/

theorem exec_collContribution (k : Nat) (s : State) : exec (.collContribution k) s = execCollContribution k s := rfl

section
variable {k t g : Nat} {who : Issuer} {block : Word} {op : CollOp} {s : State}

theorem execCollContribution_waits (h : s.copyAt k = some (t, ⟨who, .coll g block op⟩))
    (hr : (s.copyRunners t).all (fun c => c.who.id != k) = true) : execCollContribution k s = .next s := by
  have hnot : (s.copyRunners t).any (fun c => c.who.id == k) = false := by
    rw [List.any_eq_false]
    intro c hc hk
    have hne := List.all_eq_true.1 hr c hc
    rw [bne, hk] at hne
    exact nomatch hne
  simp [execCollContribution, h, hnot]

/-- A contribution that its engine runs leaves it: one of a member is performed, any other ends with error 0x26. -/
theorem execCollContribution_runs (h : s.copyAt k = some (t, ⟨who, .coll g block op⟩))
    (hr : (s.copyRunners t).any (fun c => c.who.id == k) = true) (hd : s.storesDone who = true) : execCollContribution k s =
      let ms := if 255 < g then [] else s.members g
      let u := if 255 < g then s.dropCopy t k else (s.dropCopy t k).membersSeen g
      .next (if ms.contains who.le then u.collRun who g ms block op else u.token who (tokErr 0x26)) := by
  simp only [execCollContribution, h, hr, hd]
  rfl

theorem execCollContribution_outside (h : s.copyAt k = some (t, ⟨who, .coll g block op⟩))
    (hr : (s.copyRunners t).any (fun c => c.who.id == k) = true) (hd : s.storesDone who = true)
    (hout : 255 < g ∨ (s.members g).contains who.le = false) : execCollContribution k s =
      .next ((if 255 < g then s.dropCopy t k else (s.dropCopy t k).membersSeen g).token who (tokErr 0x26)) := by
  rw [execCollContribution_runs h hr hd]
  dsimp only
  by_cases hg : 255 < g
  · rw [if_pos hg]
    rfl
  · rw [if_neg hg, hout.resolve_left hg]
    rfl

theorem execCollContribution_member (h : s.copyAt k = some (t, ⟨who, .coll g block op⟩))
    (hr : (s.copyRunners t).any (fun c => c.who.id == k) = true) (hd : s.storesDone who = true) (hg : g ≤ 255)
    (hm : (s.members g).contains who.le = true) : execCollContribution k s =
      .next (((s.dropCopy t k).membersSeen g).collRun who g (s.members g) block op) := by
  rw [execCollContribution_runs h hr hd]
  dsimp only
  rw [if_neg (Nat.not_lt.2 hg), if_neg (Nat.not_lt.2 hg), hm, if_pos rfl]

/-- A member's further contribution waits at its group's engine, and no runner does. -/
theorem State.not_mem_copyRunners_of_collWaits {c : CopyCmd} (h : s.collWaits c = true) : c ∉ s.copyRunners t := by
  intro hc
  have hheld : c ∈ s.copyHeld t := List.mem_of_mem_take hc
  have hgoes := (List.mem_filter.1 hheld).2
  rw [h] at hgoes
  exact nomatch hgoes

end

/-- Settles O45: what is ready leaves in the issued state with its operands, and what an engine runs is performed. -/
theorem copyEngineCommands : Obligations.CopyEngineCommands := by
  refine ⟨?cpy, ?message, ?indexed, ?complete, ?result, ?coll, ?contribution, ?waiting⟩
  case cpy =>
    intro d a b c s hr u
    rw [exec_cpy, execCpy_of_readyFor hr]
    exact ⟨fun hfull => if_pos hfull, fun hroom => if_neg (Bool.eq_false_iff.1 hroom)⟩
  case message =>
    intro own d a b c s hr u i
    have hrun : exec i s = _ := (exec_rbr_cpym own d a b c s).trans (copyByMessage_of_readyFor hr)
    rw [hrun]
    exact ⟨fun hfull => if_pos hfull, fun hroom => if_neg (Bool.eq_false_iff.1 hroom)⟩
  case indexed =>
    intro scatter d a b c s hr u who r i
    have hrun : exec i s = _ := (exec_scat_gath scatter d a b c s).trans (indexedCopy_of_readyFor hr)
    rw [hrun]
    exact ⟨fun hwait => if_pos (Bool.or_eq_true .. ▸ hwait), fun hroom hrec => if_neg (by rw [hroom, hrec]; decide)⟩
  case complete =>
    intro tile k s c hf hc hd
    exact (exec_copyCommandComplete tile k s).trans (execCopyCommandComplete_performs hf hc hd)
  case result =>
    intro who own dst src n s
    refine ⟨State.copyResult_tooLong, State.copyResult_inAperture, ?_⟩
    rintro rfl rfl
    exact State.copyResult_zero
  case coll =>
    intro d a b op s hr u
    rw [exec_coll, execColl_of_readyFor hr]
    refine ⟨fun hal => if_pos hal, fun hal hfull => ?_, fun hal hroom => ?_⟩
    · exact (if_neg (not_not.2 hal)).trans (if_pos hfull)
    · exact (if_neg (not_not.2 hal)).trans (if_neg (Bool.eq_false_iff.1 hroom))
  case contribution =>
    intro k t g who block op s h
    rw [exec_collContribution]
    exact ⟨execCollContribution_waits h, fun hr hd =>
      ⟨execCollContribution_outside h hr hd, execCollContribution_member h hr hd⟩⟩
  case waiting =>
    intro t g who block op s hg hm hin
    refine State.not_mem_copyRunners_of_collWaits ?_
    simp only [State.collWaits, decide_eq_true hg, hin, hm, Bool.and_self]

end Sys2Proof.Machine
end

section
/-! The w-ops at issue and at their run (R244, R246 to R250, R375). -/
namespace Sys2Proof.Machine

/-! ### Issue (R244, R248) -/

@[simp] theorem State.issued_quadOf (rds : List (Cls × Opnd)) (s : State) (le : Nat) : (s.issued rds).quadOf le = s.quadOf le := by
  simp only [State.quadOf, State.issued_physOf]

@[simp] theorem State.issued_rm (rds : List (Cls × Opnd)) (s : State) : (s.issued rds).th.rm = s.th.rm := by
  obtain ⟨bad, toks, h⟩ := s.issued_th rds
  rw [h]
  rfl

theorem State.readShapes_seat (who : Issuer) (ea n : Nat) (s : State) : (s.readShapes who ea n).2.seat = s.seat := by
  have h := s.readStruct_seat who ea 8 (8 * n)
  unfold State.readShapes
  split
  · next hread => rw [hread] at h; exact h
  · next hread => rw [hread] at h; exact h

/-- What is read of a block is as many records as were asked for. -/
theorem State.readShapes_length {who : Issuer} {ea n : Nat} {s t : State} {hs : List Shape} (h : s.readShapes who ea n = (.ok hs, t)) :
    hs.length = n := by
  unfold State.readShapes at h
  split at h
  · cases h
  · cases h
    rw [List.length_map, List.length_range]

/-- The records read; none where the block cannot be read. -/
def shapesRead : Except Nat (List Shape) → List Shape
  | .ok hs => hs
  | .error _ => []

/-- The records are there, and those used are well-formed (R102). -/
def WSub.sound (op : WSub) (ds : List Shape) : Bool :=
  !ds.isEmpty && (if op.usesY then ds else ds.take 2).all (fun h => h.error.isNone)

/-- The draws that a w-op reserves at issue: one for each rounding of each element of D (R73). -/
def WSub.reserved (op : WSub) (ds : List Shape) : Nat :=
  let h := fun (k : Nat) => ds.getD k (shapeOf [])
  if op.sound ds then (h 0).count * op.roundings (h 0) (h 1) (h 2) else 0

/-- `done` waits for the command: its destination lies in the element's own memory (R375). -/
def WSub.ownDst (op : WSub) (ds : List Shape) : Bool := op.sound ds && (ds.getD 0 (shapeOf [])).inOwn

/-- The same as issue works it out from what it read: the draws, and whether `done` waits. -/
def WSub.reserve (op : WSub) : Except Nat (List Shape) → Nat × Bool
  | .error _ => (0, false)
  | .ok hs =>
    if (if op.usesY then hs else hs.take 2).any (fun h => h.error.isSome) then (0, false)
    else ((hs.getD 0 (shapeOf [])).count * op.roundings (hs.getD 0 (shapeOf [])) (hs.getD 1 (shapeOf [])) (hs.getD 2 (shapeOf [])),
      (hs.getD 0 (shapeOf [])).inOwn)

/-- The records that a command keeps (R250). -/
def WSub.kept (op : WSub) : Except Nat (List Shape) → List Shape
  | .ok hs => hs.take (if op.usesY then 3 else 2)
  | .error _ => []

theorem WSub.reserve_eq {op : WSub} {r : Except Nat (List Shape)} (h : ∀ hs, r = .ok hs → hs ≠ []) :
    op.reserve r = (op.reserved (shapesRead r), op.ownDst (shapesRead r)) := by
  cases r with
  | error c => rfl
  | ok hs =>
    have hsound : op.sound hs = !(if op.usesY then hs else hs.take 2).any (fun h => h.error.isSome) := by
      rw [WSub.sound, List.isEmpty_eq_false_iff.2 (h hs rfl), List.not_any_eq_all_not]
      simp only [Option.not_isSome, Bool.not_false, Bool.true_and]
    rw [WSub.reserved, WSub.ownDst, WSub.reserve, shapesRead, hsound]
    cases (if op.usesY then hs else hs.take 2).any (fun h => h.error.isSome) <;> rfl

theorem WSub.kept_eq (op : WSub) (r : Except Nat (List Shape)) : op.kept r = (shapesRead r).take (if op.usesY then 3 else 2) := by
  cases r with
  | error c => exact List.take_nil.symm
  | ok hs => rfl

/-- The scalar of a w-op, if it has one (R250). -/
def State.takeScale (b : List Opnd) (s : State) : FReg × State :=
  match b with
  | o :: _ => s.takeF 53 o
  | [] => (⟨0, 53⟩, s)

theorem State.takeScale_readsOn (b : List Opnd) (s : State) : s.ReadsOn (s.takeScale b).2 := by
  cases b with
  | nil => exact .refl s
  | cons o _ => exact s.takeF_readsOn 53 o

/-- The w-op with scalar `x` enters the queue of quad `qd`, in the state after its scalar has been read (R244, R248, R250). -/
def State.enterWop (op : WSub) (d : RegNo) (ea : Nat) (b : List Opnd) (qd : Nat) (x : FReg) (s : State) : State :=
  let who := s.newId.2.issuer s.nextId
  let r := s.newId.2.readShapes who ea 3
  let seed := (r.2.el r.2.drawLe).srseed
  let v := if s.th.rm = 5 then r.2.updEl r.2.drawLe (fun e => { e with srseed := drawsAfter seed (op.reserve r.1).1 }) else r.2
  let c : WCmd := ⟨{ who with ownDst := (op.reserve r.1).2 }, op, ea, x, s.th.rm, seed, 0, 0, [], b.findSome? (fun o => match o with
    | .reg n => some n
    | .port _ => none), op.kept r.1, [], [], false, none⟩
  ((v.queueWop qd { c with recSnap := v.wopRecords c, snap := v.wopSources c }).mark (.g d) s.nextId).advance

/-- A w-op runs in the rounding mode of the state before its issue (R244). -/
theorem State.takeScale_issued_rm (b : List Opnd) (rds : List (Cls × Opnd)) (s : State) : ((s.issued rds).takeScale b).2.th.rm = s.th.rm :=
  ((s.issued rds).takeScale_readsOn b).rm.trans (s.issued_rm rds)

/-- What a w-op does once its conditions of issue hold (R244, R248). -/
theorem wopIssue_of_readyFor {op : WSub} {d a : RegNo} {b : List Opnd} {s : State}
    (hr : s.readyFor ((.g, .reg a) :: b.map (fun o => (.f, o))) [(.g, .reg d)] = true) : wopIssue op d a b s =
      let u := s.issued ((.g, .reg a) :: b.map (fun o => (.f, o)))
      let qd := s.quadOf s.cur.1
      let ea := (s.rg a).toNat
      if ea % 64 ≠ 0 then u.trap 0x04 (s.rg a)
      else if Config.wopPlaces ≤ (Map.get Quad.start u.quads qd).wops.length then .next u
      else if u.structBehind ea 192 then .next u
      else .next ((u.takeScale b).2.enterWop op d ea b qd (u.takeScale b).1) := by
  rw [wopIssue, withIssue_of_readyFor hr, State.issued_rg, State.issued_cur, State.issued_quadOf]
  rfl

/-- The command as it stands in the queue: its rounding mode is that of the state before, and the generator has stepped once for each rounding. -/
theorem State.enterWop_eq {rm : Nat} {s : State} (hrm : s.th.rm = rm) (op : WSub) (d : RegNo) (ea : Nat) (b : List Opnd) (qd : Nat) (x : FReg) :
    s.enterWop op d ea b qd x =
      let who := s.newId.2.issuer s.nextId
      let r := s.newId.2.readShapes who ea 3
      let ds := shapesRead r.1
      let v := if r.2.th.rm = 5 then r.2.updEl r.2.drawLe (fun e => { e with srseed := drawsAfter e.srseed (op.reserved ds) }) else r.2
      let c : WCmd := ⟨{ who with ownDst := op.ownDst ds }, op, ea, x, rm, (r.2.el r.2.drawLe).srseed, 0, 0, [], b.findSome? (fun o => match o with
        | .reg n => some n
        | .port _ => none), ds.take (if op.usesY then 3 else 2), [], [], false, none⟩
      ((v.queueWop qd { c with recSnap := v.wopRecords c, snap := v.wopSources c }).mark (.g d) s.nextId).advance := by
  have hread : ∀ hs, (s.newId.2.readShapes (s.newId.2.issuer s.nextId) ea 3).1 = .ok hs → hs ≠ [] := by
    rintro hs h rfl
    exact nomatch State.readShapes_length (Prod.ext h rfl)
  have hth : (s.newId.2.readShapes (s.newId.2.issuer s.nextId) ea 3).2.th = s.th := State.th_of_seat (State.readShapes_seat ..)
  rw [State.enterWop, WSub.reserve_eq hread, WSub.kept_eq]
  dsimp only
  rw [hth, hrm]
  rfl

theorem exec_of_wopTable {i : Instr} {op : WSub} {d a : RegNo} {b : List Opnd} (h : wopTable i = some (op, d, a, b)) (s : State) :
    exec i s = wopIssue op d a b s := by
  unfold wopTable at h
  split at h <;> cases h <;> rfl

/-! ### The run (R244, R248, R249) -/

/-- The w-ops of a quad replaced. -/
def State.putWops (quad : Nat) (ws : List WCmd) (s : State) : State :=
  { s with quads := Map.set quad { Map.get Quad.start s.quads quad with wops := ws } s.quads }

section
variable {quad : Nat} {s : State} {c : WCmd} {rest : List WCmd} (hq : (Map.get Quad.start s.quads quad).wops = c :: rest)
  (hd : s.storesDone c.who = true) (hgo : s.ctx.stopped = false ∨ s.fenced ((c :: rest).map (·.who.id)) = true)
include hq hd hgo

/-- The oldest command of a quad runs once the earlier operations of its set have completed (R249, R360). -/
theorem execWopExecute_runs : execWopExecute quad s =
    match s.wopJob c with
    | (.error e, s) => (let v := s.tokenOf c (tokErr e); .next ((v.2.putWops quad rest).endCommand c.who v.1))
    | (.ok j, s) =>
      match (s.wopUndo j c).wopElems j (j.d.count + 1) { c with job := some j } with
      | (c', none, t) => .next (t.putWops quad ((c' :: rest).map t.resnap))
      | (_, some v, t) => .next ((t.putWops quad (rest.map t.resnap)).endCommand c.who v) := by
  have hrun : (!s.storesDone c.who || (s.ctx.stopped && !s.fenced ((c :: rest).map (·.who.id)))) = false := by
    rw [hd]
    obtain h | h := hgo
    · rw [h]; rfl
    · rw [h, Bool.not_true, Bool.and_false]; rfl
  unfold execWopExecute
  dsimp only
  rw [hq]
  dsimp only
  rw [hrun]
  rfl

theorem execWopExecute_refused {e : Nat} {s1 : State} (hj : s.wopJob c = (.error e, s1)) : execWopExecute quad s =
    .next (((s1.tokenOf c (tokErr e)).2.putWops quad rest).endCommand c.who (s1.tokenOf c (tokErr e)).1) := by
  rw [execWopExecute_runs hq hd hgo, hj]

theorem execWopExecute_ends {j : WJob} {s1 s2 : State} {c1 : WCmd} {v : Word} (hj : s.wopJob c = (.ok j, s1))
    (he : (s1.wopUndo j c).wopElems j (j.d.count + 1) { c with job := some j } = (c1, some v, s2)) :
    execWopExecute quad s = .next ((s2.putWops quad (rest.map s2.resnap)).endCommand c.who v) := by
  rw [execWopExecute_runs hq hd hgo, hj]
  dsimp only
  rw [he]

/-- A port blocks the run: the command keeps its progress. -/
theorem execWopExecute_blocked {j : WJob} {s1 s2 : State} {c1 : WCmd} (hj : s.wopJob c = (.ok j, s1))
    (he : (s1.wopUndo j c).wopElems j (j.d.count + 1) { c with job := some j } = (c1, none, s2)) :
    execWopExecute quad s = .next (s2.putWops quad ((c1 :: rest).map s2.resnap)) := by
  rw [execWopExecute_runs hq hd hgo, hj]
  dsimp only
  rw [he]

end

theorem exec_wopExecute (quad : Nat) (s : State) : exec (.wopExecute quad) s = execWopExecute quad s := rfl
theorem exec_wopQuantumEnd (quad : Nat) (s : State) : exec (.wopQuantumEnd quad) s = execWopQuantumEnd quad s := rfl

/-- The token of a marked command is a free word (R10, R244). -/
theorem State.tokenOf_broken {c : WCmd} (h : c.broken = true) (v : Word) (s : State) :
    s.tokenOf c v = (freeWordAt s.free 0, { s with free := s.free + 1 }) := if_pos h

end Sys2Proof.Machine
end

section
/-! The watch over queued w-ops, and the values that are free once an obligation is broken (R10, R244, R250), and O42 from them. -/
namespace Sys2Proof.Machine

/-! ### Tables, memory and bytes -/

/-- A table with each value changed. -/
theorem Map.find_map {α β : Type} (f : Nat → α → β) (k : Nat) (m : Map α) :
    Map.find k (m.map fun e => (e.1, f e.1 e.2)) = (Map.find k m).map (f k) := by
  induction m with
  | nil => rfl
  | cons e m ih =>
    obtain ⟨j, v⟩ := e
    rw [List.map_cons, Map.find, Map.find]
    split
    · next h => subst h; rfl
    · exact ih

theorem Mem.read_write_same_from {lo a : Nat} (h : lo ≤ a) (b : Byte) {m : List Host.Cell} (w : Mem.wfFrom lo m = true) :
    Mem.read a (Mem.write a b m) = b := by
  induction m generalizing lo with
  | nil =>
    unfold Mem.write
    split
    · next hb => exact hb.symm
    · simp [Mem.read]
  | cons c m ih =>
    obtain ⟨k, x⟩ := c
    have wk := w
    simp only [Mem.wfFrom, Bool.and_eq_true, decide_eq_true_eq] at w
    obtain ⟨-, hm⟩ := w
    unfold Mem.write
    split
    · next hak =>
      split
      · next hb =>
        rw [hb, Mem.read, if_neg (by omega)]
        exact Mem.read_below (by omega) hm
      · simp [Mem.read]
    · split
      · next hak =>
        subst hak
        split
        · next hb =>
          rw [hb]
          exact Mem.read_below (Nat.lt_succ_self a) hm
        · simp [Mem.read]
      · next hlt hne =>
        rw [Mem.read, if_neg (Ne.symm hne)]
        exact ih (lo := k + 1) (by omega) hm

/-- A canonical memory holds what was written last. -/
theorem Mem.read_write_same (a : Nat) (b : Byte) {m : List Host.Cell} (w : Mem.wf m = true) : Mem.read a (Mem.write a b m) = b :=
  Mem.read_write_same_from (Nat.zero_le a) b w

theorem Mem.read_writeN_on {bs : List Byte} {k : Nat} (hk : k < bs.length) (a : Nat) {m : List Host.Cell} (w : Mem.wf m = true) :
    Mem.read (a + k) (Mem.writeN a bs m) = bs[k] := by
  induction bs generalizing a k m with
  | nil => exact absurd hk (Nat.not_lt_zero k)
  | cons b bs ih =>
    have w' := Mem.wf_write a b w
    rw [Mem.writeN]
    cases k with
    | zero => rw [Mem.read_writeN_off _ (by omega), Nat.add_zero, Mem.read_write_same a b w]; rfl
    | succ k =>
      rw [show a + (k + 1) = a + 1 + k by omega]
      exact ih (Nat.lt_of_succ_lt_succ hk) (a + 1) w'

/-- Digit `k` of a number in base 256 is byte `k` of its little-endian form (R5). -/
theorem leNat_digit {bs : List Byte} {k : Nat} (hk : k < bs.length) : leNat bs / 256 ^ k % 256 = bs[k].toNat := by
  induction bs generalizing k with
  | nil => exact absurd hk (Nat.not_lt_zero k)
  | cons b bs ih =>
    have hb : b.toNat < 256 := b.isLt
    rw [leNat]
    cases k with
    | zero =>
      rw [Nat.pow_zero, Nat.div_one, Nat.add_mul_mod_self_left, Nat.mod_eq_of_lt hb]
      rfl
    | succ k =>
      have hrest : (b.toNat + 256 * leNat bs) / 256 = leNat bs := by omega
      rw [Nat.pow_succ', ← Nat.div_div_eq_div_mul, hrest]
      exact ih (Nat.lt_of_succ_lt_succ hk)

/-- Byte `k` of the bits of a line given by its bytes. -/
theorem extractLsb'_leNat {w k : Nat} {bs : List Byte} (hk : k < bs.length) (hw : 8 * k + 8 ≤ w) :
    (BitVec.ofNat w (leNat bs)).extractLsb' (8 * k) 8 = bs[k] := by
  have hpow : 2 ^ (8 * k) = 256 ^ k := Nat.pow_mul 2 8 k
  have hdvd : 2 ^ (8 * k) * 256 ∣ 2 ^ w := (Nat.pow_add 2 (8 * k) 8) ▸ Nat.pow_dvd_pow 2 hw
  refine BitVec.eq_of_toNat_eq ?_
  rw [BitVec.extractLsb'_toNat, BitVec.toNat_ofNat, Nat.shiftRight_eq_div_pow, ← leNat_digit hk, ← hpow]
  exact (Nat.mod_mul_right_div_self ..).symm.trans
    ((congrArg (· / 2 ^ (8 * k)) (Nat.mod_mod_of_dvd _ hdvd)).trans (Nat.mod_mul_right_div_self ..))

/-! ### The watch (R250) -/

theorem State.watchWops_eq (s : State) : s.watchWops = { s with
    quads := s.quads.map (fun q => (q.1, { q.2 with wops := q.2.wops.map s.noteChange }))
    ctx := { s.ctx with unspec := s.ctx.unspec || s.quads.any (fun q => q.2.wops.any s.lawless) } } := by
  unfold State.watchWops
  split
  · next hidle =>
    have hempty : ∀ q ∈ s.quads, q.2.wops = [] := fun q hq => List.isEmpty_iff.1 (List.all_eq_true.1 hidle q hq)
    have hquads : s.quads.map (fun q => (q.1, { q.2 with wops := q.2.wops.map s.noteChange })) = s.quads := by
      refine (List.map_congr_left fun q hq => ?_).trans (List.map_id _)
      obtain ⟨k, x⟩ := q
      have hx : x.wops = [] := hempty _ hq
      rw [hx, List.map_nil, ← hx]
      rfl
    have hany : s.quads.any (fun q => q.2.wops.any s.lawless) = false := by
      rw [List.any_eq_false]
      intro q hq
      rw [hempty q hq]
      exact Bool.false_ne_true
    rw [hquads, hany, Bool.or_false]
  · rfl

theorem State.watchWops_wops (quad : Nat) (s : State) : (Map.get Quad.start s.watchWops.quads quad).wops =
    (Map.get Quad.start s.quads quad).wops.map s.noteChange := by
  have hfind := Map.find_map (fun _ (q : Quad) => { q with wops := q.wops.map s.noteChange }) quad s.quads
  rw [State.watchWops_eq, Map.get, Map.get, hfind]
  cases Map.find quad s.quads <;> rfl

theorem State.unspecify_quads (s : State) : s.unspecify.quads = s.quads := by
  obtain ⟨m, ts, es, n, h⟩ := s.unspecify_only
  rw [h]

theorem State.unspecify_ctx_unspec (s : State) : s.unspecify.ctx.unspec = s.ctx.unspec := by
  obtain ⟨m, ts, es, n, h⟩ := s.unspecify_only
  rw [h]

theorem State.noted_unspec (s : State) : s.noted.ctx.unspec =
    (s.ctx.unspec || s.quads.any (fun q => q.2.wops.any s.lawless)) := by
  rw [State.noted, State.unspecify_ctx_unspec, State.watchWops_eq]

theorem State.noted_wops (quad : Nat) (s : State) : (Map.get Quad.start s.noted.quads quad).wops =
    (Map.get Quad.start s.quads quad).wops.map s.noteChange := by
  rw [State.noted, State.unspecify_quads, State.watchWops_wops]

/-- Without the context's mark nothing changes but the marks of the commands. -/
theorem State.noted_of_lawful {s : State} (h : s.noted.ctx.unspec = false) : s.noted = { s with quads := s.noted.quads } := by
  have hmark : s.watchWops.ctx.unspec = false := by rw [← State.unspecify_ctx_unspec]; exact h
  have hold : s.ctx.unspec = false := (Bool.or_eq_false_iff.1 (s.noted_unspec.symm.trans h)).1
  have hnoted : s.noted = s.watchWops := State.unspecify_idle hmark
  rw [hnoted]
  obtain ⟨q, b, hw⟩ := s.watchWops_only
  rw [hw] at hmark ⊢
  obtain rfl : b = s.ctx.unspec := hmark.trans hold.symm
  rfl

/-! ### The program's own memory (R10) -/

theorem State.mem_ownMemory (s : State) (m : Nat × Nat) : m ∈ s.ownMemory ↔
    (∃ le, le < s.nLe ∧ m = (locPlace le 0, 0xC000)) ∨ (∃ t ∈ s.ctx.tiles, m = (winPlace t 0, 3 * 65536)) ∨
    (m.2 = 65536 ∧ m.1 ∈ s.mapped s.ctx (fun e => e.wr && (!e.sup || !s.ctx.ownEntry)) ∧
      ∀ v ∈ s.saved, m.1 ∉ s.mapped v.ctx (fun _ => true)) := by
  rw [State.ownMemory]
  simp only [List.mem_append, List.mem_map, List.mem_filter, List.mem_range, or_assoc]
  refine or_congr (exists_congr fun le => and_congr_right fun _ => eq_comm)
    (or_congr (exists_congr fun t => and_congr_right fun _ => eq_comm) ?_)
  simp only [Bool.not_eq_true', ← Bool.not_eq_true, List.contains_iff_mem, List.mem_flatMap, not_exists, not_and]
  constructor
  · rintro ⟨pa, ⟨hmap, hsaved⟩, rfl⟩
    exact ⟨rfl, hmap, hsaved⟩
  · rintro ⟨hlen, hmap, hsaved⟩
    exact ⟨m.1, ⟨hmap, hsaved⟩, Prod.ext rfl hlen.symm⟩

theorem inRanges_eq_true {own : List (Nat × Nat)} {p : Nat} : inRanges own p = true ↔ ∃ r ∈ own, r.1 ≤ p ∧ p < r.1 + r.2 := by
  simp only [inRanges, List.any_eq_true, Bool.and_eq_true, decide_eq_true_eq]

theorem freeBytes_length (n a len : Nat) : (freeBytes n a len).length = len := by
  rw [freeBytes, List.length_map, List.length_range]

theorem freeBytes_getElem {n a len k : Nat} (h : k < (freeBytes n a len).length) : (freeBytes n a len)[k] = Config.freeByte n (2 ^ 40 + a + k) := by
  simp only [freeBytes, List.getElem_map, List.getElem_range]

/-- The ranges `own` with free bytes in them. -/
def Mem.free (n : Nat) (own : List (Nat × Nat)) (m : List Host.Cell) : List Host.Cell :=
  own.foldl (fun m p => Mem.writeN p.1 (freeBytes n p.1 p.2) m) m

theorem Mem.read_free_off {n p : Nat} {own : List (Nat × Nat)} (h : ∀ r ∈ own, p < r.1 ∨ r.1 + r.2 ≤ p) (m : List Host.Cell) :
    Mem.read p (Mem.free n own m) = Mem.read p m :=
  Mem.read_foldl_writeN Prod.fst (fun r => freeBytes n r.1 r.2) own m p fun r hr => by rw [freeBytes_length]; exact h r hr

/-- A byte that is free already, or lies in one of the ranges, is free then: ranges that overlap hold the same bytes. -/
theorem Mem.read_free {n p : Nat} {own : List (Nat × Nat)} {m : List Host.Cell} (w : Mem.wf m = true)
    (h : Mem.read p m = Config.freeByte n (2 ^ 40 + p) ∨ inRanges own p = true) :
    Mem.read p (Mem.free n own m) = Config.freeByte n (2 ^ 40 + p) := by
  induction own generalizing m with
  | nil => exact h.resolve_right nofun
  | cons r own ih =>
    refine ih (m := Mem.writeN r.1 (freeBytes n r.1 r.2) m) (Mem.wf_writeN _ _ w) ?_
    by_cases hp : r.1 ≤ p ∧ p < r.1 + r.2
    · obtain ⟨k, rfl⟩ := Nat.exists_eq_add_of_le hp.1
      have hk : k < (freeBytes n r.1 r.2).length := by rw [freeBytes_length]; omega
      left
      rw [Mem.read_writeN_on hk _ w, freeBytes_getElem, Nat.add_assoc]
    · rw [Mem.read_writeN_off _ (by rw [freeBytes_length]; omega)]
      refine h.imp_right fun hin => ?_
      rw [inRanges, List.any_cons] at hin
      simpa [hp, inRanges] using hin

/-! ### Copies in the tiles (R10) -/

theorem Line.unspecify_byte {k : Nat} (h : k < 64) (n pa : Nat) (l : Line) :
    (l.unspecify n pa).byte k = Config.freeByte n (2 ^ 40 + pa + k) := by
  have hk : k < (freeBytes n pa 64).length := by rw [freeBytes_length]; exact h
  exact (extractLsb'_leNat hk (by omega)).trans (freeBytes_getElem hk)

/-- A superblock with free lines. -/
def Superblock.unspecify (n : Nat) (b : Superblock) : Superblock :=
  { b with lines := Vector.ofFn (fun i => (b.lines[i]).unspecify n (b.pa + 64 * i.val)) }

theorem Superblock.unspecify_byte {i k : Nat} (hi : i < 4) (hk : k < 64) (n : Nat) (b : Superblock) :
    (vget (b.unspecify n).lines i).byte k = Config.freeByte n (2 ^ 40 + (b.pa + 64 * i) + k) := by
  simp only [vget, Superblock.unspecify, Vector.getElem_ofFn, Line.unspecify_byte hk, Nat.mod_eq_of_lt hi]

theorem State.tileUnspecify_l1 (s : State) (own : List (Nat × Nat)) (n : Nat) (tl : Tile) :
    (s.tileUnspecify own n tl).l1 = tl.l1.map (fun b => if inRanges own b.pa then b.unspecify n else b) := rfl

end Sys2Proof.Machine
end

section
/-! The state that a marked context has before a step (R10), and O42 from that and from the run of the w-ops. -/
namespace Sys2Proof.Machine

/-! ### Free registers (R34, R67, R74) -/

theorem mem_freeWords {n k : Nat} {xs : List Word} {w : Word} (h : w ∈ freeWords n k xs) : ∃ j, w = freeWordAt n j := by
  obtain ⟨i, -, rfl⟩ := List.mem_map.1 h
  exact ⟨_, rfl⟩

theorem rget_freeG {n : RegNo} (hn : n ≠ 0) (m k : Nat) (g : Vector Word 32) : rget (freeG m k g) n = freeWordAt m (k + n.toNat) := by
  have hn' : n.toNat ≠ 0 := fun h => hn (BitVec.eq_of_toNat_eq h)
  simp only [rget, freeG, Vector.getElem_ofFn, if_neg hn']

theorem rget_freeF (m k : Nat) (n : RegNo) :
    rget (freeF m k) n = ⟨freeWordAt m (k + n.toNat), (freeWordAt m (k + 32 + n.toNat)).toNat % 54⟩ := by
  simp only [rget, freeF, Vector.getElem_ofFn]

theorem rget_freeV_bits (m k : Nat) (n : RegNo) :
    (rget (freeV m k) n).bits = freeWordAt m (k + n.toNat) ++ freeWordAt m (k + 32 + n.toNat) := by
  simp only [rget, freeV, Vector.getElem_ofFn]

theorem rget_freeV_count (m k : Nat) (n : RegNo) (q : Nat) : vget (rget (freeV m k) n).tc q ≤ 24 := by
  simp only [rget, vget, freeV, Vector.getElem_ofFn]
  exact Nat.le_of_lt_succ (Nat.mod_lt _ (by decide))

theorem freeFcsr_lt (x : Word) : (freeFcsr x).toNat < 256 := by
  unfold freeFcsr
  split <;> rw [BitVec.toNat_and]
  · exact Nat.lt_of_le_of_lt Nat.and_le_right (by decide)
  · exact Nat.lt_of_le_of_lt Nat.and_le_right (by decide)

/-- A free `fcsr` names a rounding mode. -/
theorem freeFcsr_mode (x : Word) : (freeFcsr x).toNat % 8 < 6 := by
  have hlow : (x.setWidth 3 : BitVec 3).toNat = x.toNat % 2 ^ 3 := BitVec.toNat_setWidth ..
  have hlt : x.toNat % 2 ^ 3 < 8 := Nat.mod_lt _ (by decide)
  unfold freeFcsr
  rw [hlow]
  generalize hm : x.toNat % 2 ^ 3 = m at hlt
  split
  · next hge =>
    rw [BitVec.toNat_and, show 8 = 2 ^ 3 from rfl, Nat.and_mod_two_pow, hm]
    interval_cases m <;> decide
  · next hlt' =>
    rw [BitVec.toNat_and, show 8 = 2 ^ 3 from rfl, Nat.and_mod_two_pow, hm]
    interval_cases m <;> decide

section
variable (own : Bool) (n k : Nat) (t : ThreadSet)

theorem ThreadSet.unspecify_f : (t.unspecify own n k).f = freeF n (k + 32) := by
  simp only [ThreadSet.unspecify, ThreadSet.unspecifyCsrs]; split <;> simp only

theorem ThreadSet.unspecify_v : (t.unspecify own n k).v = freeV n (k + 96) := by
  simp only [ThreadSet.unspecify, ThreadSet.unspecifyCsrs]; split <;> simp only

theorem ThreadSet.unspecify_sg : (t.unspecify own n k).sg = if own then freeG n (k + 512) t.sg else t.sg := by
  simp only [ThreadSet.unspecify, ThreadSet.unspecifyCsrs]; split <;> simp only

theorem ThreadSet.unspecify_act :
    (t.unspecify own n k).act = t.act.map (fun a => { a with payload := freeWords n (k + 288) a.payload }) := by
  simp only [ThreadSet.unspecify, ThreadSet.unspecifyCsrs]; split <;> simp only

theorem ThreadSet.unspecify_pend : (t.unspecify own n k).pend = freeWords n (k + 300) t.pend := by
  simp only [ThreadSet.unspecify, ThreadSet.unspecifyCsrs]; split <;> simp only

theorem ThreadSet.unspecify_g_free {r : RegNo} (hr : r ≠ 0) : ∃ j, rget (t.unspecify own n k).g r = freeWordAt n j := by
  rw [ThreadSet.unspecify_g]
  exact ⟨_, rget_freeG hr ..⟩

theorem ThreadSet.unspecify_g_zero : rget (t.unspecify own n k).g 0 = rget t.g 0 := t.unspecify_g0 own n k

theorem ThreadSet.unspecify_sg_free {r : RegNo} (hr : r ≠ 0) : ∃ j, rget (t.unspecify true n k).sg r = freeWordAt n j := by
  rw [ThreadSet.unspecify_sg]
  exact ⟨_, rget_freeG hr ..⟩

theorem ThreadSet.unspecify_f_free (r : RegNo) :
    ∃ i j, rget (t.unspecify own n k).f r = ⟨freeWordAt n i, (freeWordAt n j).toNat % 54⟩ := by
  rw [ThreadSet.unspecify_f]
  exact ⟨_, _, rget_freeF ..⟩

theorem ThreadSet.unspecify_v_free (r : RegNo) :
    ∃ i j, (rget (t.unspecify own n k).v r).bits = freeWordAt n i ++ freeWordAt n j := by
  rw [ThreadSet.unspecify_v]
  exact ⟨_, _, rget_freeV_bits ..⟩

theorem ThreadSet.unspecify_v_count (r : RegNo) (q : Nat) : vget (rget (t.unspecify own n k).v r).tc q ≤ 24 := by
  rw [ThreadSet.unspecify_v]
  exact rget_freeV_count ..

variable {own n k t}

theorem ThreadSet.unspecify_payload_free {a : Act} {w : Word} (ha : (t.unspecify own n k).act = some a) (hw : w ∈ a.payload) :
    ∃ j, w = freeWordAt n j := by
  rw [ThreadSet.unspecify_act] at ha
  obtain ⟨_, -, rfl⟩ := Option.map_eq_some_iff.1 ha
  exact mem_freeWords hw

theorem ThreadSet.unspecify_pend_free {w : Word} (hw : w ∈ (t.unspecify own n k).pend) : ∃ j, w = freeWordAt n j := by
  rw [ThreadSet.unspecify_pend] at hw
  exact mem_freeWords hw

/-- The control registers that the program sees: free, each within its layout. -/
theorem ThreadSet.unspecify_csrs_free (h : own = true ∨ t.inSup = false) :
    (t.unspecify own n k).fcsr.toNat < 256 ∧ (t.unspecify own n k).fcsr.toNat % 8 < 6 ∧
    (∃ j, (t.unspecify own n k).sigctl = freeWordAt n j &&& 0x73F) ∧
    (∃ j, (t.unspecify own n k).tepc = freeWordAt n j &&& 0x0001FFFFFFFFFFFC) ∧ ∃ j, (t.unspecify own n k).tval = freeWordAt n j := by
  have hseen : (own || !t.inSup) = true := by
    obtain h | h := h <;> rw [h]
    · exact Bool.true_or _
    · exact Bool.or_true own
  simp only [ThreadSet.unspecify, ThreadSet.unspecifyCsrs, if_pos hseen]
  exact ⟨freeFcsr_lt _, freeFcsr_mode _, ⟨_, rfl⟩, ⟨_, rfl⟩, _, rfl⟩

/-- The runtime's handler keeps its control registers (R391). -/
theorem ThreadSet.unspecify_csrs_kept (ho : own = false) (hs : t.inSup = true) :
    (t.unspecify own n k).fcsr = t.fcsr ∧ (t.unspecify own n k).sigctl = t.sigctl ∧ (t.unspecify own n k).tepc = t.tepc ∧
    (t.unspecify own n k).tval = t.tval := by
  have hkept : ¬ (own || !t.inSup) = true := by rw [ho, hs]; decide
  simp only [ThreadSet.unspecify, if_neg hkept, and_self]

end

/-! ### Before a step (R10) -/

section
variable {s : State} (h : s.noted.ctx.unspec = true)
include h

theorem State.watchWops_of_unspec : ∃ q, s.watchWops = { s with quads := q, ctx := { s.ctx with unspec := true } } := by
  obtain ⟨q, b, hw⟩ := s.watchWops_only
  rw [State.noted, State.unspecify_ctx_unspec, hw] at h
  exact ⟨q, hw.trans (by rw [show b = true from h])⟩

theorem State.noted_free : s.noted.free = s.free + 1 := by
  obtain ⟨q, hw⟩ := State.watchWops_of_unspec h
  rw [State.noted, hw, State.unspecify, if_pos rfl]
  rfl

theorem State.noted_mem : s.noted.mem = Mem.free s.free s.ownMemory s.mem := by
  obtain ⟨q, hw⟩ := State.watchWops_of_unspec h
  rw [State.noted, hw, State.unspecify, if_pos rfl]
  rfl

theorem State.noted_tile (t : Nat) : s.noted.tile t =
    if s.ctx.tiles.contains t then s.tileUnspecify s.ownMemory s.free (s.tile t) else s.tile t := by
  obtain ⟨q, hw⟩ := State.watchWops_of_unspec h
  have hfind := Map.find_map (fun k tl => if s.ctx.tiles.contains k then s.tileUnspecify s.ownMemory s.free tl else tl) t s.tiles
  have htiles : s.noted.tile t = (Map.find t (s.tiles.map fun e =>
      (e.1, if s.ctx.tiles.contains e.1 then s.tileUnspecify s.ownMemory s.free e.2 else e.2))).getD Tile.start := by
    rw [State.noted, hw, State.unspecify, if_pos rfl]
    rfl
  rw [htiles, hfind, State.tile, Map.get]
  cases Map.find t s.tiles with
  | some tl => rfl
  | none => split <;> rfl

theorem State.noted_el {le : Nat} (hle : (Map.find le s.ctx.elems).isSome = true) :
    ∃ fb, s.noted.el le = { (s.el le).unspecify (!s.ctx.ownEntry) s.free (8192 * le) with fetchBuf := fb } := by
  obtain ⟨q, hw⟩ := State.watchWops_of_unspec h
  obtain ⟨e, he⟩ := Option.isSome_iff_exists.1 hle
  have hfind := Map.find_map (fun k (x : Element) => { x.unspecify (!s.ctx.ownEntry) s.free (8192 * k) with
    fetchBuf := (x.unspecify (!s.ctx.ownEntry) s.free (8192 * k)).fetchBuf.map (s.codeUnspecify s.ownMemory s.free) }) le s.ctx.elems
  have hel : s.el le = e := by rw [State.el, he]; rfl
  rw [he] at hfind
  refine ⟨(e.unspecify (!s.ctx.ownEntry) s.free (8192 * le)).fetchBuf.map (s.codeUnspecify s.ownMemory s.free), ?_⟩
  rw [hel, State.noted, hw, State.unspecify, if_pos rfl]
  exact congrArg (fun o => o.getD (Element.start s.ctx.jobseed s.ctx.ringBase le)) hfind

theorem State.noted_thOf {le : Nat} (hle : (Map.find le s.ctx.elems).isSome = true) (k : Nat) :
    s.noted.thOf le k = (s.thOf le k).unspecify (!s.ctx.ownEntry) s.free (8192 * le + 1024 * (k % 4)) := by
  obtain ⟨fb, hel⟩ := State.noted_el h hle
  rw [State.thOf, hel]
  simp only [Element.unspecify, vget, Vector.getElem_ofFn]
  rfl

/-- The words in queues and links are free. -/
theorem State.noted_words_free {le k : Nat} {w : Word} (hle : (Map.find le s.ctx.elems).isSome = true)
    (hw : w ∈ (vget (s.noted.el le).queues k).words ∨ w ∈ (vget (s.noted.el le).links k).words) : ∃ j, w = freeWordAt s.free j := by
  obtain ⟨fb, hel⟩ := State.noted_el h hle
  simp only [hel, Element.unspecify, Fifo.unspecify, vget, Vector.getElem_ofFn] at hw
  exact hw.elim mem_freeWords mem_freeWords

/-- The program's own memory is free, byte for byte, and the rest stays. -/
theorem State.noted_read (w : s.memInv = true) (p : Nat) :
    ((∃ m ∈ s.ownMemory, m.1 ≤ p ∧ p < m.1 + m.2) → Mem.read p s.noted.mem = Config.freeByte s.free (2 ^ 40 + p)) ∧
    ((∀ m ∈ s.ownMemory, p < m.1 ∨ m.1 + m.2 ≤ p) → Mem.read p s.noted.mem = Mem.read p s.mem) := by
  rw [State.noted_mem h]
  exact ⟨fun hin => Mem.read_free w (.inr (inRanges_eq_true.2 hin)), fun hout => Mem.read_free_off hout _⟩

/-- A superblock of a tile holds the free bytes of its home where its line is of the program's own memory and its tile of the partition, and
stays else. -/
theorem State.noted_l1 {t : Nat} {b : Superblock} (hb : b ∈ (s.noted.tile t).l1) :
    (t ∉ s.ctx.tiles → b ∈ (s.tile t).l1) ∧
    ((∀ m ∈ s.ownMemory, b.pa < m.1 ∨ m.1 + m.2 ≤ b.pa) → b ∈ (s.tile t).l1) ∧
    (t ∈ s.ctx.tiles → (∃ m ∈ s.ownMemory, m.1 ≤ b.pa ∧ b.pa < m.1 + m.2) →
      ∀ i k, i < 4 → k < 64 → (vget b.lines i).byte k = Config.freeByte s.free (2 ^ 40 + (b.pa + 64 * i) + k)) := by
  rw [State.noted_tile h] at hb
  by_cases ht : t ∈ s.ctx.tiles
  · rw [if_pos (List.contains_iff_mem.2 ht), State.tileUnspecify_l1] at hb
    obtain ⟨c, hc, hcb⟩ := List.mem_map.1 hb
    by_cases hin : inRanges s.ownMemory c.pa = true
    · rw [if_pos hin] at hcb
      subst hcb
      refine ⟨fun hout => absurd ht hout, fun hout => ?_, fun _ _ i k hi hk => Superblock.unspecify_byte hi hk ..⟩
      obtain ⟨m, hm, hlo, hhi⟩ := inRanges_eq_true.1 hin
      exact ((hout m hm).elim (Nat.not_lt.2 hlo) (Nat.not_le.2 hhi)).elim
    · rw [if_neg hin] at hcb
      subst hcb
      exact ⟨fun _ => hc, fun _ => hc, fun _ hown => absurd (inRanges_eq_true.2 hown) hin⟩
  · rw [if_neg (mt List.contains_iff_mem.1 ht)] at hb
    exact ⟨fun _ => hb, fun _ => hb, fun hin => absurd hin ht⟩

end

/-- Settles O42: a w-op that is ready joins the queue with its command, the oldest one runs as its job and its elements say, and before each
step the watch marks commands and their context, whose program's values are then free. -/
theorem wopsQueueAndRun : Obligations.WopsQueueAndRun := by
  refine ⟨?issue, ?run, ?token, ?marks, ?quantum, ?watch⟩
  case issue =>
    intro i op d a b s hi rds hr u qd
    have hrun := (exec_of_wopTable hi s).trans (wopIssue_of_readyFor hr)
    rw [hrun]
    refine ⟨fun hal => if_pos hal, fun hal hfull => ?_, fun hal hbehind => ?_, fun hal hroom hclear => ?_⟩
    · exact (if_neg (not_not.2 hal)).trans (if_pos hfull)
    · exact (if_neg (not_not.2 hal)).trans (ite_eq_left_iff.2 fun _ => if_pos hbehind)
    · refine (if_neg (not_not.2 hal)).trans ((if_neg (Nat.not_le.2 hroom)).trans ((if_neg (Bool.eq_false_iff.1 hclear)).trans ?_))
      exact congrArg Host.Outcome.next (State.enterWop_eq (State.takeScale_issued_rm ..) ..)
  case run =>
    intro quad s c rest hq hd hgo put
    rw [exec_wopExecute]
    exact ⟨fun e s1 => execWopExecute_refused hq hd hgo, fun j s1 c1 v s2 => execWopExecute_ends hq hd hgo,
      fun j s1 c1 s2 => execWopExecute_blocked hq hd hgo⟩
  case token => exact fun c v s => ⟨fun hb => State.tokenOf_sound hb v s, fun hb => State.tokenOf_broken hb v s⟩
  case marks => exact State.noted_wops
  case quantum =>
    intro quad s
    exact ⟨_, exec_wopQuantumEnd quad s, by simp, by simp, rfl, rfl⟩
  case watch =>
    intro s
    refine ⟨s.noted_unspec, State.noted_of_lawful, ?ctx, ?mem, ?copies, s.mem_ownMemory, ?sets⟩
    case ctx =>
      obtain ⟨q, b, m, ts, es, n, h⟩ := s.noted_only
      rw [h]
    case mem => exact fun h w p => State.noted_read h w p
    case copies => exact fun h t b hb => State.noted_l1 h hb
    case sets =>
      intro h
      refine ⟨State.noted_free h, fun le k n hle => ?_⟩
      intro o t
      have ht : t = o.unspecify (!s.ctx.ownEntry) s.free (8192 * le + 1024 * (k % 4)) := State.noted_thOf h hle k
      generalize 8192 * le + 1024 * (k % 4) = m at ht
      obtain ⟨hrun, hpc, hpending, hbank⟩ := o.unspecify_kept (!s.ctx.ownEntry) s.free m
      rw [ht]
      refine ⟨ThreadSet.unspecify_g_free _ _ _ _, ThreadSet.unspecify_g_zero .., ThreadSet.unspecify_f_free .., ThreadSet.unspecify_v_free ..,
        ThreadSet.unspecify_v_count _ _ _ _ n, fun a ha w => ThreadSet.unspecify_payload_free ha, fun w => ThreadSet.unspecify_pend_free,
        fun w => State.noted_words_free h hle, ?bank, ?freeBank, ?csrs, ?handler, hrun, hpc, hpending⟩
      case bank =>
        intro hown
        exact hbank (by rw [hown]; rfl)
      case freeBank =>
        intro hown
        rw [hown]
        exact ThreadSet.unspecify_sg_free _ _ _
      case csrs =>
        intro hseen
        exact ThreadSet.unspecify_csrs_free (hseen.imp_left fun hown => by rw [hown]; rfl)
      case handler =>
        intro hown
        exact ThreadSet.unspecify_csrs_kept (by rw [hown]; rfl)

end Sys2Proof.Machine
end

section
/-! Words that the spec gives as examples (O3). -/
namespace Sys2Proof

/-- Settles O3: each example word is the one that the well-formed instruction beside it has, and so decodes to that. -/
theorem specExampleWordsDecode : Obligations.SpecExampleWordsDecode := by
  unfold Obligations.SpecExampleWordsDecode
  simp only [decode_eq_ok]
  decide

end Sys2Proof
end

section
/-! The canonical form of memory and its values at reset (R389), with O10, O11 and O13 from them. -/
namespace Sys2Proof.Machine

/-! ### Memories that read alike (R389) -/

/-- What two canonical memories with a first cell each read below decides which of the cells comes first: neither does. -/
theorem Mem.cell_le_of_reads_alike {lo k j : Nat} {b c : Byte} {m n : List Host.Cell} (hm : Mem.wfFrom lo ((k, b) :: m) = true)
    (hn : Mem.wfFrom lo ((j, c) :: n) = true) (h : ∀ a, Mem.read a ((k, b) :: m) = Mem.read a ((j, c) :: n)) : j ≤ k := by
  simp only [Mem.wfFrom, Bool.and_eq_true, decide_eq_true_eq] at hm hn
  by_contra hlt
  have hread : b = Mem.read k n := by simpa [Mem.read, show j ≠ k by omega] using h k
  exact hm.1.2 (hread.trans (Mem.read_below (by omega) hn.2))

/-- A canonical memory with a cell reads a value other than the unlisted one there. -/
theorem Mem.read_ne_of_cell {lo k : Nat} {b : Byte} {m : List Host.Cell} (hm : Mem.wfFrom lo ((k, b) :: m) = true) :
    Mem.read k ((k, b) :: m) ≠ unlisted := by
  simp only [Mem.wfFrom, Bool.and_eq_true, decide_eq_true_eq] at hm
  simpa [Mem.read] using hm.1.2

theorem Mem.eq_of_reads_alike {lo : Nat} {m n : List Host.Cell} (hm : Mem.wfFrom lo m = true) (hn : Mem.wfFrom lo n = true)
    (h : ∀ a, Mem.read a m = Mem.read a n) : m = n := by
  induction m generalizing lo n with
  | nil =>
    cases n with
    | nil => rfl
    | cons c n => exact absurd (h c.1).symm (Mem.read_ne_of_cell hn)
  | cons c m ih =>
    cases n with
    | nil => exact absurd (h c.1) (Mem.read_ne_of_cell hm)
    | cons d n =>
      obtain ⟨k, b⟩ := c
      obtain ⟨j, c⟩ := d
      obtain rfl : k = j := Nat.le_antisymm (Mem.cell_le_of_reads_alike hn hm fun a => (h a).symm) (Mem.cell_le_of_reads_alike hm hn h)
      obtain rfl : b = c := by simpa [Mem.read] using h k
      simp only [Mem.wfFrom, Bool.and_eq_true] at hm hn
      -- Above their first cell the rests read alike, and below it both read the unlisted value.
      rw [ih hm.2 hn.2 fun a => ?_]
      by_cases ha : k = a
      · rw [Mem.read_below (by omega) hm.2, Mem.read_below (by omega) hn.2]
      · simpa [Mem.read, ha] using h a

/-- Settles O13, by induction on the one memory: the first cells of the two stand at one place. -/
theorem canonicalMemoriesThatReadAlikeAreEqual : Obligations.CanonicalMemoriesThatReadAlikeAreEqual :=
  fun _ _ => Mem.eq_of_reads_alike

/-! ### Reset (R105, R165, R217, R389) -/

theorem rget_replicate {α : Type} (x : α) (n : RegNo) : rget (Vector.replicate 32 x) n = x := Vector.getElem_replicate _

theorem vget_replicate {α : Type} {n : Nat} (x : α) (k : Nat) : vget (Vector.replicate (n + 1) x) k = x := Vector.getElem_replicate _

/-- Settles O10: nothing is listed at reset. -/
theorem resetMemoryIsCanonical : Obligations.ResetMemoryIsCanonical := rfl

/-- Settles O11: the values that `State.reset` and `ThreadSet.start` write out, and the same one in each register of a file. -/
theorem resetReleasesStepOneOfBringUp : Obligations.ResetReleasesStepOneOfBringUp := by
  refine ⟨rfl, rfl, rfl, rfl, fun _ => rfl, rfl, fun _ => rfl, rfl, fun n => ⟨?g, ?f, ?v, fun k => ?counts⟩, rfl, rfl⟩
  case g => exact rget_replicate 0 n
  case f => exact rget_replicate FReg.start n
  case v => exact congrArg VReg.bits (rget_replicate VReg.start n)
  case counts =>
    have hv : rget ThreadSet.start.v n = VReg.start := rget_replicate VReg.start n
    rw [hv]
    exact vget_replicate 24 k

end Sys2Proof.Machine
end

section
/-! Issue where nothing is to mend or to read as a token (O15). -/
namespace Sys2Proof.Machine

/-- Settles O15: issue lists elements at most. -/
theorem issueIsQuietWhereNothingIsToMend : Obligations.IssueIsQuietWhereNothingIsToMend := by
  intro s rds wrs h
  have hquiet : s.Alike (s.issued rds) := State.issued_alike h
  have hset : s.Alike (s.updTh fun _ => s.th) := State.updTh_alike_self rfl
  exact ⟨(hset.symm.trans hquiet).onlySet, fun p => by rw [hquiet.mem]⟩

end Sys2Proof.Machine
end

section
/-! Atomics at issue (R145, R303, R308, R315), and O32 from them. -/
namespace Sys2Proof.Machine

theorem exec_of_atomicTable {i : Instr} {op : AtomOp} {d b : Opnd} {a : RegNo} {w64 ar : Bool}
    (h : atomicTable i = some (op, d, a, b, w64, ar)) (s : State) : exec i s = atomOp op d a b [] (fun _ => 0) w64 ar s := by
  unfold atomicTable at h
  split at h <;> cases h <;> rfl

theorem exec_acas (d a : RegNo) (b : Opnd) (w64 ar : Bool) (s : State) :
    exec (.acas d a b w64 ar) s = atomOp .cas (.reg d) a b [(.g, .reg d)] (fun s => s.rg d) w64 ar s := rfl

section
variable {op : AtomOp} {d b : Opnd} {a : RegNo} {rds : List (Cls × Opnd)} {cmp : State → Word} {w64 ar : Bool} {s u s1 s2 : State} {t : Target}
  {n : Nat} (hr : s.readyFor ((.g, .reg a) :: (.g, b) :: rds) [(.g, d)] = true) (hu : s.issued ((.g, .reg a) :: (.g, b) :: rds) = u)
  (hn : (if w64 then 8 else 4) = n)
include hr hu hn

theorem atomOp_refused {c : Nat} (hc : u.check (u.issuer 0) .special true (s.rg a).toNat n n = (.error c, s1)) :
    atomOp op d a b rds cmp w64 ar s = s1.trap c (BitVec.ofNat 64 (s.rg a).toNat) := by
  rw [atomOp, withIssue_of_readyFor hr, hu, hn, ← hu, State.issued_rg, hu]
  simp only [hc]
  rfl

variable (hc : u.check (u.issuer 0) .special true (s.rg a).toNat n n = (.ok t, s1)) (hroom : s1.opsFull s1.cur.1 = false)
include hc hroom

/-- On registers the atomic joins the outstanding operations, once the own copy of its line has gone home. -/
theorem atomOp_outstanding {r q : RegNo} (hd : d = .reg r) (hb : b = .reg q) : atomOp op d a b rds cmp w64 ar s =
    .next (((s1.flushOwn s1.cur.1 t.place).issueOp (s.rg a).toNat n t (.atom op (some (.g r)) (s1.rg q) (cmp s1) ar)
      (some (.g r))).advance) := by
  rw [atomOp, withIssue_of_readyFor hr, hu, hn, ← hu, State.issued_rg, hu]
  subst hd hb
  simp [hc, hroom]

variable {p : Port} (hp : d = .port p ∨ b = .port p) (hfirst : s1.behind s1.cur.1 s1.cur.2 t.place n = false)
  (hidle : ar = true → s1.setBusy s1.cur.1 s1.cur.2 = false)
include hp hfirst hidle

/-- With a port the atomic is performed now, unless its word is poisoned. -/
theorem atomOp_now : atomOp op d a b rds cmp w64 ar s =
    match (if ar then s1.release s1.cur.1 .dv else s1).atomNow s1.cur.1 t.place (s.rg a).toNat n op (s1.takeG b).1 (cmp s1) with
    | (.error y, v) => v.trap 0x0F (BitVec.ofNat 64 y)
    | (.ok y, v) =>
      let w := (v.takeG b).2.putG d y
      .next (if ar then w.acquire w.cur.1 .dv else w).advance := by
  have hgo : (s1.behind s1.cur.1 s1.cur.2 t.place n || (ar && s1.setBusy s1.cur.1 s1.cur.2)) = false := by
    rw [hfirst, Bool.false_or, Bool.and_eq_false_imp]
    exact hidle
  rw [atomOp, withIssue_of_readyFor hr, hu, hn, ← hu, State.issued_rg, hu]
  simp only [hc, hroom, hgo]
  obtain rfl | rfl := hp
  · rfl
  · cases d <;> rfl

theorem atomOp_performed {y : Word}
    (hnow : (if ar then s1.release s1.cur.1 .dv else s1).atomNow s1.cur.1 t.place (s.rg a).toNat n op (s1.takeG b).1 (cmp s1) = (.ok y, s2)) :
    let w := (s2.takeG b).2.putG d y
    atomOp op d a b rds cmp w64 ar s = .next (if ar then w.acquire w.cur.1 .dv else w).advance := by
  rw [atomOp_now hr hu hn hc hroom hp hfirst hidle, hnow]

theorem atomOp_poisoned {y : Nat}
    (hnow : (if ar then s1.release s1.cur.1 .dv else s1).atomNow s1.cur.1 t.place (s.rg a).toNat n op (s1.takeG b).1 (cmp s1) = (.error y, s2)) :
    atomOp op d a b rds cmp w64 ar s = s2.trap 0x0F (BitVec.ofNat 64 y) := by
  rw [atomOp_now hr hu hn hc hroom hp hfirst hidle, hnow]

end

/-- Settles O32: what is ready is checked in the issued state, and then joins the outstanding operations or is performed. -/
theorem atomicsIssueOrAct : Obligations.AtomicsIssueOrAct := by
  refine ⟨fun i op d a b w64 ar s s1 t hi hr => ?_, fun d a b w64 ar s s1 t hr => ?_⟩
  · rw [exec_of_atomicTable hi]
    exact ⟨fun c => atomOp_refused hr rfl rfl, fun hc => ⟨fun r q hd hb hroom => atomOp_outstanding hr rfl rfl hc hroom hd hb,
      fun p hp hroom hfirst hidle => ⟨fun y s2 hnow => atomOp_performed hr rfl rfl hc hroom hp hfirst hidle hnow,
        fun y s2 hnow => atomOp_poisoned hr rfl rfl hc hroom hp hfirst hidle hnow⟩⟩⟩
  · rw [exec_acas]
    exact ⟨fun c => atomOp_refused hr rfl rfl, fun hc hroom => ⟨fun q hb => atomOp_outstanding hr rfl rfl hc hroom rfl hb,
      fun p hp hfirst hidle => ⟨fun y s2 hnow => atomOp_performed hr rfl rfl hc hroom (.inr hp) hfirst hidle hnow,
        fun y s2 hnow => atomOp_poisoned hr rfl rfl hc hroom (.inr hp) hfirst hidle hnow⟩⟩⟩

end Sys2Proof.Machine
end

section
/-! The word of an atomic (R315): the bytes that a number makes and are, the values of the rows, and O33 from them. -/
namespace Sys2Proof.Machine

/-! ### Words in memory (R5) -/

/-- Bytes written to a canonical memory are read back. -/
theorem Mem.readN_writeN (bs : List Byte) (a : Nat) {m : List Host.Cell} (w : Mem.wf m = true) :
    Mem.readN (Mem.writeN a bs m) a bs.length = bs := by
  induction bs generalizing a m with
  | nil => rfl
  | cons b bs ih =>
    rw [List.length_cons, Mem.readN, Mem.writeN, ih (a + 1) (Mem.wf_write a b w), Mem.read_writeN_off _ (.inl (Nat.lt_succ_self a)),
      Mem.read_write_same a b w]

@[simp] theorem Mem.length_readN (m : List Host.Cell) (a n : Nat) : (Mem.readN m a n).length = n := by
  induction n generalizing a with
  | zero => rfl
  | succ n ih => rw [Mem.readN, List.length_cons, ih]

theorem leNat_lt (bs : List Byte) : leNat bs < 2 ^ (8 * bs.length) := by
  induction bs with
  | nil => decide
  | cons b bs ih =>
    have hb : b.toNat < 256 := b.isLt
    rw [leNat, List.length_cons, Nat.mul_succ, Nat.pow_add]
    omega

theorem leNat_leBytes (n x : Nat) : leNat (leBytes n x) = x % 2 ^ (8 * n) := by
  induction n generalizing x with
  | zero => rw [Nat.mul_zero, Nat.pow_zero, Nat.mod_one]; rfl
  | succ n ih => rw [leBytes, leNat, ih, BitVec.toNat_ofNat, Nat.mul_succ, Nat.pow_add, Nat.mul_comm (2 ^ (8 * n)), Nat.mod_mul]

/-! ### The rows of R315 -/

theorem signedOf_eq {w : Nat} (hw : 0 < w) (v : Nat) : signedOf w v = if 2 * v < 2 ^ w then (v : Int) else (v : Int) - 2 ^ w := by
  have hdouble : 2 ^ w = 2 * 2 ^ (w - 1) := by rw [← Nat.pow_succ', Nat.succ_eq_add_one, Nat.sub_add_cancel hw]
  have hhalf : 2 ^ (w - 1) ≤ v ↔ ¬ 2 * v < 2 ^ w := by omega
  rw [signedOf]
  by_cases h : 2 * v < 2 ^ w
  · rw [if_neg (mt hhalf.1 (not_not.2 h)), if_pos h]
  · rw [if_pos (hhalf.2 h), if_neg h]

/-- Operands are compared as the signed integers of their width. -/
theorem atomSlt_eq (n x y : Nat) : atomSlt n x y = decide (signedOf (8 * n) x < signedOf (8 * n) y) := rfl

/-- Each row gives a value of the word's width. -/
theorem atomNew_lt {n old b : Nat} (hold : old < 2 ^ (8 * n)) (hb : b < 2 ^ (8 * n)) (op : AtomOp) (cmp : Nat) :
    atomNew op n old b cmp < 2 ^ (8 * n) := by
  cases op with
  | add => exact Nat.mod_lt _ (Nat.two_pow_pos _)
  | and => exact Nat.and_lt_two_pow _ hb
  | or => exact Nat.or_lt_two_pow hold hb
  | xor => exact Nat.xor_lt_two_pow hold hb
  | min | max | cas =>
    simp only [atomNew]
    split <;> assumption
  | minn => exact Nat.lt_of_le_of_lt (Nat.min_le_left ..) hold
  | maxn => exact Nat.max_lt.2 ⟨hold, hb⟩
  | swp => exact hb

/-- An atomic on a sound word of local memory gives the old value and writes the new one. -/
theorem State.atomNow_loc {l off n : Nat} {s : State} (hp : firstPoison s.poison (locPlace l off) n = none) (le ea : Nat) (op : AtomOp)
    (b cmp : Word) :
    let old := leNat (Mem.readN s.mem (locPlace l off) n)
    ∃ t, s.atomNow le (.loc l off) ea n op b cmp = (.ok (BitVec.ofNat 64 old), t) ∧
      t.mem = Mem.writeN (locPlace l off) (leBytes n (atomNew op n old (b.toNat % 2 ^ (8 * n)) (cmp.toNat % 2 ^ (8 * n)))) s.mem := by
  obtain ⟨lat, c, hcorrect⟩ := s.correctLine_only (locPlace l off)
  simp only [State.atomNow, State.flushOwn, Place.key, hcorrect, hp]
  exact ⟨_, rfl, rfl⟩

/-- Settles O33: the word written has the width, and so is read back as the value of the row. -/
theorem atomicsAreOneActionAtTheirWord : Obligations.AtomicsAreOneActionAtTheirWord := by
  intro le l off ea n op b cmp s hinv hn p m old x signed new hpoison
  obtain ⟨t, hnow, hmem⟩ := State.atomNow_loc hpoison le ea op b cmp
  have hold : old < m := by simpa using leNat_lt (Mem.readN s.mem p n)
  have hx : x < m := Nat.mod_lt _ (Nat.two_pow_pos _)
  have hsigned : ∀ v, signedOf (8 * n) v = signed v := fun v => by
    rw [signedOf_eq (by omega)]
    simp only [signed, m]
    norm_cast
  have hnew : atomNew op n old x (cmp.toNat % m) = new := by
    cases op with
    | min | max => simp only [atomNew, atomSlt_eq, decide_eq_true_eq, hsigned]; rfl
    | minn =>
      simp only [atomNew, new]
      split <;> omega
    | maxn =>
      simp only [atomNew, new]
      split <;> omega
    | _ => rfl
  have hword : leNat (leBytes n new) = new := by
    rw [leNat_leBytes, Nat.mod_eq_of_lt]
    exact hnew ▸ atomNew_lt hold hx op _
  have hwritten : t.mem = Mem.writeN p (leBytes n new) s.mem := hnew ▸ hmem
  refine ⟨t, hnow, ?_, fun q hq => ?_⟩
  · have hread := Mem.readN_writeN (leBytes n new) p hinv
    rw [length_leBytes] at hread
    rw [hwritten, hread, hword]
  · rw [hwritten]
    exact Mem.read_writeN_off _ (by rwa [length_leBytes]) _

end Sys2Proof.Machine
end

section
/-! Fences (R151, R316, R317, R318), and O35 from them. -/
namespace Sys2Proof.Machine

/-! ### `fenc` (R316) -/

/-- What reads no register issues without an effect of its own. -/
theorem State.clearFor_of_readyFor_nil {wrs : List (Cls × Opnd)} {s : State} (h : s.readyFor [] wrs = true) : s.clearFor [] wrs = true := by
  simp [State.clearFor, h, ThreadSet.readsOf, regUses]

theorem State.issued_nil_alike {wrs : List (Cls × Opnd)} {s : State} (h : s.readyFor [] wrs = true) : s.Alike (s.issued []) :=
  State.issued_alike (State.clearFor_of_readyFor_nil h)

theorem State.Alike.nextId {s t : State} (h : s.Alike t) : t.nextId = s.nextId := by
  obtain ⟨⟨es, rfl⟩, -⟩ := h
  rfl

theorem State.Alike.cmdsOf {s t : State} (h : s.Alike t) (le k : Nat) : t.cmdsOf le k = s.cmdsOf le k := by
  obtain ⟨⟨es, rfl⟩, -⟩ := h
  rfl

/-- The record of a fence that the issuing set makes now: the operations and commands that its kinds cover. -/
def State.fenceRec (smp st ld : Bool) (sc : Scope) (s : State) : FenceRec :=
  ⟨s.nextId, smp, st, ld, sc, ((s.el s.cur.1).ops.filter (fun o => o.set == s.cur.2 && o.covered st ld)).map (·.id),
    if st then s.cmdsOf s.cur.1 s.cur.2 else []⟩

theorem State.Alike.fenceRec {s t : State} (h : s.Alike t) (smp st ld : Bool) (sc : Scope) :
    t.fenceRec smp st ld sc = s.fenceRec smp st ld sc := by
  simp only [State.fenceRec, h.nextId, h.cur, h.el, h.cmdsOf]

section
variable {d : RegNo} {smp st ld : Bool} {sc : Scope} {s : State} (hr : s.readyFor [] [(.g, .reg d)] = true)
include hr

theorem exec_fenc : exec (.fenc d smp st ld sc) s =
    if Config.fencesOut ≤ s.th.fences.length then .next (s.issued [])
    else .next (((({ s.issued [] with nextId := s.nextId + 1 } : State).updTh (fun t => { t with
      fences := t.fences ++ [s.fenceRec smp st ld sc] })).mark (.g d) s.nextId).advance) := by
  have hquiet := State.issued_nil_alike hr
  show execFenc d smp st ld sc s = _
  rw [execFenc, withIssue_of_readyFor hr, hquiet.th, ← hquiet.fenceRec, ← hquiet.nextId]
  rfl

end

/-- The counter of numbers is none of a thread set. -/
@[simp] theorem State.th_nextId (n : Nat) (s : State) : ({ s with nextId := n } : State).th = s.th := rfl

/-- A fence recorded changes the fences of its set and marks its register, and nothing of memory. -/
theorem State.fence_recorded (d : RegNo) (f : FenceRec) (s : State) :
    let t := ((s.updTh (fun t => { t with fences := t.fences ++ [f] })).mark (.g d) f.id).advance
    t.th.fences = s.th.fences ++ [f] ∧ t.awaits d f.id = true ∧ t.mem = s.mem := by
  intro t
  refine ⟨?_, ?_, ?_⟩
  · obtain ⟨p, hp⟩ := State.mark_th (.g d) f.id (s.updTh (fun t => { t with fences := t.fences ++ [f] }))
    rw [State.th_advance, ThreadSet.advance_fences, hp, State.th_updTh]
  · rw [State.awaits_advance]
    exact State.awaits_mark ..
  · rw [State.advance_mem, State.mark_mem, State.updTh_mem]

/-! ### Completion (R316) -/

section
variable {le set k : Nat} {s : State} {f : FenceRec} (hf : (s.thOf le set).fences.find? (fun f => f.id == k) = some f)
include hf

theorem exec_fencComplete : exec (.fencComplete le set k) s =
    if (∃ o ∈ (s.el le).ops, f.ops.contains o.id = true) ∨ (∃ c ∈ s.cmdsOf le set, f.cmds.contains c = true) then .next s
    else .next (((s.fenceEffect le f).updThOf le set (fun t => { t with fences := t.fences.filter (fun g => g.id != k) })).finish le set k 0) := by
  show execFencComplete le set k s = _
  simp only [execFencComplete, hf, Bool.or_eq_true, List.any_eq_true]

end

/-! ### `fence` (R318) -/

theorem exec_fence (o : FenceOrder) (sc : Scope) (s : State) : exec (.fence o sc) s = execFence o sc s := rfl

section
variable {o : FenceOrder} {sc : Scope} {s : State}

/-- An acquire waits for the loads and atomics of its set, and any other order for all operations. -/
theorem State.fenceWaits_eq_true : s.fenceWaits o = true ↔ (o ≠ .acq ∧ s.setBusy s.cur.1 s.cur.2 = true) ∨
    (o = .acq ∧ ∃ p ∈ (s.el s.cur.1).ops, p.set = s.cur.2 ∧ p.covered false true = true) := by
  cases o <;> simp [State.fenceWaits]

theorem exec_fence_outside (h : s.ctx.maint = false) : exec (.fence o sc) s = s.trap 0x13 (instrVal (.fence o sc)) :=
  if_pos (by rw [h]; rfl)

/-- What an order does once all that it covers has completed. -/
def State.fenceOrders (o : FenceOrder) (sc : Scope) (s : State) : State :=
  match o with
  | .acq => s.acquire s.cur.1 sc
  | .rel => s.release s.cur.1 sc
  | .ar | .sc => (s.release s.cur.1 sc).acquire (s.release s.cur.1 sc).cur.1 sc

variable (h : s.ctx.maint = true)
include h

theorem exec_fence_waits (hw : s.fenceWaits o = true) : exec (.fence o sc) s = .next s := by
  rw [exec_fence]
  unfold execFence
  rw [h, hw]
  rfl

theorem exec_fence_orders (hw : s.fenceWaits o = false) : exec (.fence o sc) s = .next (s.fenceOrders o sc).advance := by
  rw [exec_fence]
  unfold execFence
  rw [h, hw]
  cases o <;> rfl

end

/-- Settles O35: a fence is recorded or stalls, completes once nothing that it covers is left, and orders at once in maintenance mode. -/
theorem fencesIssueAndComplete : Obligations.FencesIssueAndComplete := by
  refine ⟨?fenc, ?fifth, ?completes, ?waits, ?fwait, ?orders, ?stalls, fun o sc s => exec_fence_outside⟩
  case fenc =>
    intro d smp st ld sc s hr hroom f
    have hrun := (exec_fenc hr (smp := smp) (st := st) (ld := ld) (sc := sc)).trans (if_neg (Nat.not_le.2 hroom))
    have hquiet := State.issued_nil_alike hr
    have hframe := State.fence_recorded d f { s.issued [] with nextId := s.nextId + 1 }
    rw [State.th_nextId, hquiet.th] at hframe
    obtain ⟨hfences, hawaits, hmem⟩ := hframe
    exact ⟨hrun, _, hrun, hfences, hawaits, hmem.trans hquiet.mem⟩
  case fifth => exact fun d smp st ld sc s hr hfull => (exec_fenc hr).trans (if_pos hfull)
  case completes =>
    intro le set k s f hf hops hcmds
    refine (exec_fencComplete hf).trans (if_neg ?_)
    rintro (⟨o, ho, hin⟩ | ⟨c, hc, hin⟩)
    · exact Bool.eq_false_iff.1 (hops o ho) hin
    · exact Bool.eq_false_iff.1 (hcmds c hc) hin
  case waits => exact fun le set k s f hf hleft => (exec_fencComplete hf).trans (if_pos hleft)
  case fwait => exact fun a s hr => withIssue_of_readyFor hr
  case orders =>
    intro o sc s hm hidle hloads
    have hgo : s.fenceWaits o = false := by
      rw [Bool.eq_false_iff, ne_eq, State.fenceWaits_eq_true]
      rintro (⟨ho, hbusy⟩ | ⟨ho, p, hp, hset, hcov⟩)
      · exact Bool.eq_false_iff.1 (hidle ho) hbusy
      · exact Bool.eq_false_iff.1 (hloads ho p hp hset) hcov
    rw [exec_fence_orders hm hgo]
    cases o <;> rfl
  case stalls => exact fun o sc s hm hleft => exec_fence_waits hm (State.fenceWaits_eq_true.2 hleft)

end Sys2Proof.Machine
end

section
/-! Matrix commands at issue (R151, R260 to R264, R276 to R284, R347), and O43 from them. -/
namespace Sys2Proof.Machine

/-! ### What issue keeps of the elements (R340, R352) -/

/-- Issue changes nothing of an element but its thread sets. -/
theorem State.el_issued (rds : List (Cls × Opnd)) (s : State) (m : Nat) : ∃ sets, (s.issued rds).el m = { s.el m with sets := sets } := by
  have hmended : ∃ sets, (s.mended rds).el m = { s.el m with sets := sets } := by
    obtain ⟨sets, h⟩ := State.el_updThOf s.cur.1 s.cur.2 (fun t => { t with badRegs := t.badRegs.filter fun r => !(s.th.readsOf rds).contains r })
      (s.countFixes (s.quadOf s.cur.1) (s.th.badRegs.filter fun r => (s.th.readsOf rds).contains r).length) m
    refine ⟨sets, ?_⟩
    rw [State.mended, State.updTh, State.countFixes_cur, h, State.el_countFixes]
  obtain h | ⟨toks, h⟩ := (s.mended rds).barRead_seat rds
  · obtain ⟨sets, hs⟩ := hmended
    exact ⟨sets, (State.el_of_seat h m).trans hs⟩
  · obtain ⟨sets, hs⟩ := hmended
    obtain ⟨sets', h'⟩ := State.el_updThOf (s.mended rds).cur.1 (s.mended rds).cur.2 (fun t => { t with barTok := toks t }) (s.mended rds) m
    exact ⟨sets', (State.el_of_seat h m).trans (h'.trans (by rw [hs]))⟩

@[simp] theorem State.issued_srseed (rds : List (Cls × Opnd)) (s : State) (m : Nat) : ((s.issued rds).el m).srseed = (s.el m).srseed := by
  obtain ⟨sets, h⟩ := s.el_issued rds m
  rw [h]

@[simp] theorem State.issued_drawLe (rds : List (Cls × Opnd)) (s : State) : (s.issued rds).drawLe = s.drawLe := by
  obtain ⟨bad, toks, h⟩ := s.issued_th rds
  simp only [State.drawLe, h, State.issued_cur, State.issued_physOf, State.issued_leAt]

theorem State.drawLe_of_seat {s t : State} (h : t.seat = s.seat) : t.drawLe = s.drawLe := by
  have hphys : ∀ le, t.physOf le = s.physOf le := fun le => by rw [State.physOf, State.physOf, State.ctx_of_seat h]
  have hat : ∀ p, t.leAt p = s.leAt p := fun p => by rw [State.leAt, State.leAt, State.ctx_of_seat h]
  simp only [State.drawLe, hphys, hat, State.th_of_seat h, State.cur_of_seat h]

@[simp] theorem State.mark_tiles (key : RegKey) (id : Nat) (s : State) : (s.mark key id).tiles = s.tiles := by
  unfold State.mark
  split <;> rfl

theorem State.mark_srseed (key : RegKey) (id : Nat) (s : State) (m : Nat) : ((s.mark key id).el m).srseed = (s.el m).srseed := by
  unfold State.mark
  split
  · rfl
  · obtain ⟨sets, h⟩ := State.el_updThOf s.cur.1 s.cur.2 (fun t => { t with pending := t.pending ++ [((key.inBank t.inSup).1, key, id)] }) s m
    rw [State.updTh, h]

@[simp] theorem State.advance_srseed (s : State) (m : Nat) : (s.advance.el m).srseed = (s.el m).srseed := by
  obtain ⟨sets, h⟩ := s.el_advance m
  rw [h]

/-! ### What a command carries (R260, R276 to R281) -/

/-- The block address among the registers that a command reads. -/
def mxBlockAddr (rds : List (Cls × Opnd)) (s : State) : Word :=
  match rds with
  | (.g, .reg b) :: _ => s.rg b
  | _ => 0

/-- The first position that an `mld` reads. -/
def mxFirst (rds : List (Cls × Opnd)) (s : State) : Word :=
  match rds with
  | [_, (.g, .reg n)] => s.rg n
  | _ => 0

/-- The scale that a run or a drain reads. -/
def mxScale (rds : List (Cls × Opnd)) (s : State) : FReg :=
  match rds with
  | [_, (.f, .reg n)] => s.rf n
  | _ => ⟨0, 24⟩

/-- The register of the scale. -/
def mxSreg (rds : List (Cls × Opnd)) : Option RegNo :=
  match rds with
  | [_, (.f, .reg n)] => some n
  | _ => none

section
variable (rds r : List (Cls × Opnd)) (s : State)

@[simp] theorem mxBlockAddr_issued : mxBlockAddr rds (s.issued r) = mxBlockAddr rds s := by
  unfold mxBlockAddr
  split <;> simp

@[simp] theorem mxFirst_issued : mxFirst rds (s.issued r) = mxFirst rds s := by
  unfold mxFirst
  split <;> simp

@[simp] theorem mxScale_issued : mxScale rds (s.issued r) = mxScale rds s := by
  unfold mxScale
  split <;> simp

end

/-- The record block that an `mdrn` reads at issue, and the state after that; no other command reads one. -/
def mxPeek (op : MxOp) (rds : List (Cls × Opnd)) (s : State) : Option Shape × State :=
  match op with
  | .mdrn => s.peekBlock (s.issuer 0) (mxBlockAddr rds s)
  | _ => (none, s)

/-- The draws that a command reserves for the values of the block read. -/
def mxDraws (h : Option Shape) : Nat := (h.map (fun h => h.dims.getD 0 0 * h.dims.getD 1 0)).getD 0

/-- An earlier operation of the issuing set on the block of an `mdrn` is outstanding. -/
def mxWaits (op : MxOp) (rds : List (Cls × Opnd)) (s : State) : Bool :=
  match op with
  | .mdrn => s.blockWaits (mxBlockAddr rds s)
  | _ => false

/-- What a command does once its capability has passed: an `mdrn` waits for its block, and then it leaves. -/
def mxIssue (op : MxOp) (d a : RegNo) (rds : List (Cls × Opnd)) (s : State) : Host.Outcome State Fault Refusal :=
  if mxWaits op rds s then .next s
  else mxSend op d (s.rg a) (mxBlockAddr rds s) (mxFirst rds s) (mxScale rds s) (mxSreg rds)
    (((mxPeek op rds s).1.map Shape.inOwn).getD false) (mxDraws (mxPeek op rds s).1) (mxPeek op rds s).2

theorem exec_of_matrixTable {i : Instr} {op : MxOp} {d a : RegNo} {rds : List (Cls × Opnd)} {right : Nat}
    (h : matrixTable i = some (op, d, a, rds, right)) (s : State) : exec i s =
      withIssue ((.g, .reg a) :: rds) [(.g, .reg d)] (fun u => capGate d (u.rg a) right (mxIssue op d a rds) u) s := by
  unfold matrixTable at h
  split at h <;> cases h <;> rfl

theorem matrixTable_mdrn {op : MxOp} {d a d' a' b c : RegNo} {rds : List (Cls × Opnd)} {right : Nat}
    (h : matrixTable (.mdrn d' a' b c) = some (op, d, a, rds, right)) : op = .mdrn ∧ rds = [(.g, .reg b), (.f, .reg c)] := by
  cases h
  exact ⟨rfl, rfl⟩

/-- Only an `mdrn` waits for a block. -/
theorem matrixTable_of_mdrn {i : Instr} {op : MxOp} {d a : RegNo} {rds : List (Cls × Opnd)} {right : Nat}
    (h : matrixTable i = some (op, d, a, rds, right)) : op ≠ .mdrn ∨ ∃ b c, i = .mdrn d a b c := by
  unfold matrixTable at h
  split at h <;> cases h
  case h_11 b c => exact .inr ⟨b, c, rfl⟩
  all_goals exact .inl (by decide)

theorem State.peekBlock_seat (who : Issuer) (ea : Word) (s : State) : (s.peekBlock who ea).2.seat = s.seat := by
  have hread := s.readStruct_seat who ea.toNat 8 9
  unfold State.peekBlock
  split
  · rfl
  · split <;> next h => rw [h] at hread; exact hread

theorem mxPeek_seat (op : MxOp) (rds : List (Cls × Opnd)) (s : State) : (mxPeek op rds s).2.seat = s.seat := by
  unfold mxPeek
  split
  · exact s.peekBlock_seat ..
  · rfl

/-! ### Leaving for the unit (R260, R279) -/

/-- The draws of a command under stochastic rounding are reserved. -/
def State.reserve (draws : Nat) (s : State) : State :=
  if s.th.rm = 5 then s.reseed s.drawLe (drawsAfter (s.el s.drawLe).srseed draws) else s

theorem State.reseed_srseed (le : Nat) (x : Word) (s : State) : ((s.reseed le x).el le).srseed = x :=
  congrArg Element.srseed (State.el_updEl_same ..)

/-- Draws reserved move a generator, and leave the rest of every element. -/
theorem State.el_reserve (draws : Nat) (s : State) (m : Nat) : ∃ x, (s.reserve draws).el m = { s.el m with srseed := x } := by
  unfold State.reserve
  split
  · obtain rfl | hm := Decidable.em (m = s.drawLe)
    · exact ⟨_, State.el_updEl_same ..⟩
    · exact ⟨(s.el m).srseed, State.el_updEl_other _ _ hm⟩
  · exact ⟨(s.el m).srseed, rfl⟩

@[simp] theorem State.reserve_cur (draws : Nat) (s : State) : (s.reserve draws).cur = s.cur := by
  unfold State.reserve
  split <;> rfl

@[simp] theorem State.reserve_th (draws : Nat) (s : State) : (s.reserve draws).th = s.th := by
  obtain ⟨x, h⟩ := s.el_reserve draws s.cur.1
  rw [State.th, State.thOf, State.reserve_cur, h]
  rfl

theorem State.reserve_issuer (draws id : Nat) (s : State) : (s.reserve draws).issuer id = s.issuer id := by
  obtain ⟨x, h⟩ := s.el_reserve draws s.cur.1
  simp only [State.issuer, State.act, State.reserve_th, State.reserve_cur, h]

/-- The command as it leaves in state `w`. -/
def State.mxCmd (op : MxOp) (cap block first : Word) (scale : FReg) (sreg : Option RegNo) (own : Bool) (w : State) : MxCmd :=
  ⟨{ w.issuer w.nextId with ownDst := own }, op, cap, block, first, scale, w.th.rm, if w.th.inSup then 0 else w.th.sigctl,
    (w.el w.drawLe).srseed, 0, [], 0, sreg, none⟩

section
variable {op : MxOp} {d : RegNo} {cap block first : Word} {scale : FReg} {sreg : Option RegNo} {own : Bool} {draws : Nat} {w : State}

theorem mxSend_stalls (h : Config.matrixPlaces ≤ w.unitLoad (w.capTile cap)) :
    mxSend op d cap block first scale sreg own draws w = .next w := if_pos h

variable (h : w.unitLoad (w.capTile cap) < Config.matrixPlaces)
include h

theorem mxSend_eq : mxSend op d cap block first scale sreg own draws w = .next ((((w.newId.2.reserve draws).launchFlight
    (.matrix (w.mxCmd op cap block first scale sreg own) (w.capTile cap))).mark (.g d) w.nextId).advance) := by
  have hissuer : (w.newId.2.reserve draws).issuer w.nextId = w.issuer w.nextId := State.reserve_issuer ..
  have hth : (w.newId.2.reserve draws).th = w.th := State.reserve_th ..
  have hsend : mxSend op d cap block first scale sreg own draws w =
      let v := w.newId.2.reserve draws
      .next (((v.launchFlight (.matrix ⟨{ v.issuer w.nextId with ownDst := own }, op, cap, block, first, scale, w.th.rm,
        if v.th.inSup then 0 else v.th.sigctl, (w.el w.drawLe).srseed, 0, [], 0, sreg, none⟩ (w.capTile cap))).mark (.g d) w.nextId).advance) :=
    if_neg (Nat.not_le.2 h)
  dsimp only at hsend
  rwa [hissuer, hth] at hsend

/-- Where the unit has a place, the command is on its way, its destination waits for it, and its draws are reserved. -/
theorem mxSend_leaves : ∃ t,
    mxSend op d cap block first scale sreg own draws w = .next t ∧
    t.ctx.flights = w.ctx.flights ++ [(w.nextId + 1, .matrix (w.mxCmd op cap block first scale sreg own) (w.capTile cap))] ∧
    t.awaits d w.nextId = true ∧ t.mem = w.mem ∧ t.tiles = w.tiles ∧
    (w.th.rm = 5 → (t.el w.drawLe).srseed = drawsAfter (w.el w.drawLe).srseed draws) := by
  refine ⟨_, mxSend_eq h, ?_, (State.awaits_advance ..).trans (State.awaits_mark ..), ?_, ?_, fun hrm => ?_⟩
  · refine (State.mark_ctx_flights ..).trans ?_
    unfold State.reserve
    split <;> rfl
  · rw [State.advance_mem, State.mark_mem]
    unfold State.reserve
    split <;> rfl
  · rw [State.advance_tiles, State.mark_tiles]
    unfold State.reserve
    split <;> rfl
  · have hrm' : w.newId.2.th.rm = 5 := hrm
    rw [State.advance_srseed, State.mark_srseed, State.reserve, if_pos hrm']
    exact State.reseed_srseed w.newId.2.drawLe (drawsAfter (w.newId.2.el w.newId.2.drawLe).srseed draws) w.newId.2

end

/-! ### The checks of the capability (R262, R264, R284) -/

section
variable {d : RegNo} {cap : Word} {right : Nat} {k : State → Host.Outcome State Fault Refusal} {u : State}

theorem capGate_refused {r : Nat} (h : u.capRefusal cap right true = some r) : capGate d cap right k u =
    .next (((u.newId.2.mark (.g d) u.nextId).token (u.newId.2.issuer u.nextId) (tokErr (r * 256 + 0x20))).advance) := by
  simp only [capGate, h]
  rfl

variable (h : u.capRefusal cap right true = none)
include h

theorem capGate_lost (hl : (u.tile (u.capTile cap)).mx.lost = true) : capGate d cap right k u =
    (u.updTile (u.capTile cap) (fun tl => { tl with mx := { tl.mx with lost := false } })).trap 0x14 cap := by
  simp only [capGate, h]
  exact if_pos hl

theorem capGate_passes (hl : (u.tile (u.capTile cap)).mx.lost = false) : capGate d cap right k u = k u := by
  simp only [capGate, h]
  exact if_neg (Bool.eq_false_iff.1 hl)

end

/-! ### The block of an `mdrn` (R267, R279) -/

section
variable {who : Issuer} {ea : Word} {s v : State} {bs : List Byte}

theorem State.peekBlock_misaligned (hal : ea.toNat % 64 ≠ 0) : (s.peekBlock who ea).1 = none := by
  rw [State.peekBlock, if_pos hal]

theorem State.peekBlock_read (hal : ea.toNat % 64 = 0) (hread : s.readStruct who ea.toNat 8 9 = (.ok bs, v)) :
    s.peekBlock who ea =
      (if (shapeOf (bs.take 64)).error.isNone && decide (leNat (bs.drop 64) < 2 ^ 17) then some (shapeOf (bs.take 64)) else none, v) := by
  rw [State.peekBlock, if_neg (not_not.2 hal), hread]

end

/-! ### Commands at issue -/

section
variable {i : Instr} {op : MxOp} {d a : RegNo} {rds : List (Cls × Opnd)} {right : Nat} {s u : State}
  (hi : matrixTable i = some (op, d, a, rds, right)) (hr : s.readyFor ((.g, .reg a) :: rds) [(.g, .reg d)] = true)
  (hu : s.issued ((.g, .reg a) :: rds) = u)
include hi hr hu

theorem exec_matrix : exec i s = capGate d (s.rg a) right (mxIssue op d a rds) u := by
  rw [exec_of_matrixTable hi, withIssue_of_readyFor hr, hu, ← hu, State.issued_rg]

theorem exec_matrix_refused {r : Nat} (h : u.capRefusal (s.rg a) right true = some r) : exec i s =
    .next (((u.newId.2.mark (.g d) u.nextId).token (u.newId.2.issuer u.nextId) (tokErr (r * 256 + 0x20))).advance) :=
  (exec_matrix hi hr hu).trans (capGate_refused h)

variable (hcap : u.capRefusal (s.rg a) right true = none)
include hcap

theorem exec_matrix_lost (hl : (u.tile (u.capTile (s.rg a))).mx.lost = true) : exec i s =
    (u.updTile (u.capTile (s.rg a)) (fun tl => { tl with mx := { tl.mx with lost := false } })).trap 0x14 (s.rg a) :=
  (exec_matrix hi hr hu).trans (capGate_lost hcap hl)

variable (hl : (u.tile (u.capTile (s.rg a))).mx.lost = false)
include hl

theorem exec_matrix_waits {b c : RegNo} (h : i = .mdrn d a b c) (hw : u.blockWaits (s.rg b) = true) : exec i s = .next u := by
  subst h
  obtain ⟨rfl, rfl⟩ := matrixTable_mdrn hi
  rw [exec_matrix hi hr hu, capGate_passes hcap hl]
  refine if_pos ?_
  show u.blockWaits (u.rg b) = true
  rwa [← hu, State.issued_rg, hu]

/-- A command that need not wait for its block is sent in the state after the read of it. -/
theorem exec_matrix_sends (hgo : ∀ b c, i = .mdrn d a b c → u.blockWaits (s.rg b) = false) : exec i s =
    mxSend op d (s.rg a) (mxBlockAddr rds s) (mxFirst rds s) (mxScale rds s) (mxSreg rds) (((mxPeek op rds u).1.map Shape.inOwn).getD false)
      (mxDraws (mxPeek op rds u).1) (mxPeek op rds u).2 := by
  have hgoes : mxWaits op rds u = false := by
    obtain hop | ⟨b, c, rfl⟩ := matrixTable_of_mdrn hi
    · unfold mxWaits
      split
      · exact absurd rfl hop
      · rfl
    · obtain ⟨rfl, rfl⟩ := matrixTable_mdrn hi
      show u.blockWaits (u.rg b) = false
      rw [← hgo b c rfl, ← hu, State.issued_rg]
  rw [exec_matrix hi hr hu, capGate_passes hcap hl, mxIssue, if_neg (Bool.eq_false_iff.1 hgoes)]
  subst hu
  rw [State.issued_rg, mxBlockAddr_issued, mxFirst_issued, mxScale_issued]

end

theorem mxPeek_of_ne {op : MxOp} (h : op ≠ .mdrn) (rds : List (Cls × Opnd)) (s : State) : mxPeek op rds s = (none, s) := by
  unfold mxPeek
  split
  · exact absurd rfl h
  · rfl

/-- An `mdrn` peeks at its block by the register as it stood before issue. -/
theorem mxPeek_issued {i : Instr} {op : MxOp} {d a b c : RegNo} {rds r : List (Cls × Opnd)} {right : Nat} {s u : State}
    (hi : matrixTable i = some (op, d, a, rds, right)) (hu : s.issued r = u) (h : i = .mdrn d a b c) :
    mxPeek op rds u = u.peekBlock (u.issuer 0) (s.rg b) := by
  subst h
  obtain ⟨rfl, rfl⟩ := matrixTable_mdrn hi
  show u.peekBlock (u.issuer 0) (u.rg b) = _
  rw [← hu, State.issued_rg]

/-- Settles O43: a capability that passes lets its command wait for its block or leave in the state after the read of it. -/
theorem matrixCommandsAreSent : Obligations.MatrixCommandsAreSent := by
  intro i op d a rds right s hi hr
  dsimp only
  generalize hu : s.issued ((.g, .reg a) :: rds) = u
  refine ⟨fun r => exec_matrix_refused hi hr hu, fun hcap => exec_matrix_lost hi hr hu hcap,
    fun hcap hl b c => exec_matrix_waits hi hr hu hcap hl, ?leaves, ?block⟩
  case leaves =>
    intro hcap hl hgo
    have hsend := exec_matrix_sends hi hr hu hcap hl hgo
    have hseat := mxPeek_seat op rds u
    refine ⟨(mxPeek op rds u).2, fun hop => by rw [mxPeek_of_ne hop], fun b c h => by rw [mxPeek_issued hi hu h],
      fun hfull => hsend.trans (mxSend_stalls hfull), fun hroom => ?_⟩
    obtain ⟨t, hleaves, hflights, hawaits, hmem, htiles, hseed⟩ := mxSend_leaves hroom
    have hrm : (mxPeek op rds u).2.th.rm = s.th.rm := by rw [State.th_of_seat hseat, ← hu, State.issued_rm]
    have hgen : ((mxPeek op rds u).2.el (mxPeek op rds u).2.drawLe).srseed = (s.el s.drawLe).srseed := by
      rw [State.el_of_seat hseat, State.drawLe_of_seat hseat, ← hu, State.issued_srseed, State.issued_drawLe]
    refine ⟨t, _, hsend.trans hleaves, hflights, rfl, rfl, rfl, rfl, rfl, rfl, rfl, rfl, hrm, hgen, rfl, rfl, rfl, rfl, hawaits, hmem, htiles,
      fun b e h => ⟨?_, fun h5 => ?_⟩⟩
    · rw [← mxPeek_issued hi hu h]
      rfl
    · rw [hseed h5, ← mxPeek_issued hi hu h]
      rfl
  case block =>
    intro b e bs v h
    refine ⟨State.peekBlock_misaligned, fun hal hread hbad => ?_, fun hal hread hshape hcontrol => ?_⟩
    · rw [State.peekBlock_read hal hread]
      refine if_neg ?_
      rw [Bool.and_eq_true, decide_eq_true_eq, Option.isNone_iff_eq_none]
      rintro ⟨hshape, hcontrol⟩
      obtain herr | hlong := hbad
      · rw [hshape] at herr
        exact nomatch herr
      · exact Nat.not_le.2 hcontrol hlong
    · rw [State.peekBlock_read hal hread, hshape, decide_eq_true hcontrol]
      rfl

end Sys2Proof.Machine
end


section
/-! The units' side of the matrix commands (R260 to R264, R275, R282), and O44 from them. -/
namespace Sys2Proof.Machine

/-! ### `mcap` (R263, R275) -/

theorem exec_mcap_user {d : RegNo} {a b : Opnd} {s : State} (h : s.th.inSup = false) :
    exec (.mcap d a b) s = s.trap 0x12 (instrVal (.mcap d a b)) :=
  if_pos (by rw [h]; rfl)

/-- The low 36 bits of a capability by its two fields. -/
theorem capability_fields {x y : Word} (hx : x.toNat < 2 ^ 28) (hy : y.toNat < 2 ^ 8) :
    ((y.setWidth 8 : BitVec 8) ++ (x.setWidth 28 : BitVec 28) : BitVec 36) = BitVec.ofNat 36 (y.toNat * 2 ^ 28 + x.toNat) := by
  refine BitVec.eq_of_toNat_eq ?_
  rw [BitVec.toNat_append, BitVec.toNat_setWidth, BitVec.toNat_setWidth, BitVec.toNat_ofNat, Nat.mod_eq_of_lt hx, Nat.mod_eq_of_lt hy,
    Nat.mod_eq_of_lt (by omega), Nat.shiftLeft_eq, Nat.mul_comm]
  exact (Nat.two_pow_add_eq_or_of_lt hx _).symm

section
variable {d : RegNo} {a b : Opnd} {s u : State} {x y : Word × State} (hs : s.th.inSup = true)
  (hr : s.readyFor [(.g, a), (.g, b)] [(.g, .reg d)] = true) (hu : s.issued [(.g, a), (.g, b)] = u) (hx : u.takeG a = x) (hy : x.2.takeG b = y)
include hs hr hu hx hy

theorem exec_mcap : exec (.mcap d a b) s =
    if 2 ^ 28 ≤ x.1.toNat then u.trap 0x07 x.1
    else if 2 ^ 8 ≤ y.1.toNat then u.trap 0x07 y.1
    else .next ((y.2.wg d (u.mint ((y.1.setWidth 8 : BitVec 8) ++ (x.1.setWidth 28 : BitVec 28)))).advance) := by
  subst hu hx hy
  show execMcap d a b s = _
  rw [execMcap, hs, withIssue_of_readyFor hr]
  rfl

theorem exec_mcap_low (h : 2 ^ 28 ≤ x.1.toNat) : exec (.mcap d a b) s = u.trap 0x07 x.1 :=
  (exec_mcap hs hr hu hx hy).trans (if_pos h)

variable (hlow : x.1.toNat < 2 ^ 28)
include hlow

theorem exec_mcap_high (h : 2 ^ 8 ≤ y.1.toNat) : exec (.mcap d a b) s = u.trap 0x07 y.1 :=
  (exec_mcap hs hr hu hx hy).trans ((if_neg (Nat.not_le.2 hlow)).trans (if_pos h))

theorem exec_mcap_mints (hhigh : y.1.toNat < 2 ^ 8) : exec (.mcap d a b) s =
    let low := BitVec.ofNat 36 (y.1.toNat * 2 ^ 28 + x.1.toNat)
    .next ((y.2.wg d (Config.keyedCheck u.resets low ++ low)).advance) := by
  rw [exec_mcap hs hr hu hx hy, if_neg (Nat.not_le.2 hlow), if_neg (Nat.not_le.2 hhigh), capability_fields hlow hhigh]
  rfl

end

/-! ### `mqry` (R282) -/

theorem exec_mqry {d a : RegNo} {s u : State} (hr : s.readyFor [(.g, .reg a)] [(.g, .reg d)] = true) (hu : s.issued [(.g, .reg a)] = u)
    (hcap : u.capRefusal (s.rg a) 0xF000 true = none) (hl : (u.tile (u.capTile (s.rg a))).mx.lost = false) : exec (.mqry d a) s =
      .next (((u.newId.2.launchFlight (.query (u.newId.2.issuer u.nextId) (s.rg a) (u.capTile (s.rg a)))).mark (.g d) u.nextId).advance) := by
  have hrg : u.rg a = s.rg a := by rw [← hu, State.issued_rg]
  show execMqry d a s = _
  rw [execMqry, withIssue_of_readyFor hr, hu]
  simp only [hrg, capGate_passes hcap hl]
  rfl

section
variable {k t : Nat} {who : Issuer} {cap : Word} {s : State}

/-- A query that may go on in its turn is answered by the unit. -/
theorem exec_mqryAnswer (hf : s.flight k = some (.query who cap t)) (hgo : s.ctx.stopped = false ∨ s.fenced [who.id] = true)
    (hturn : s.streamBefore k (.query who cap t) = false) : exec (.mqryAnswer k) s =
      .next ((s.dropFlight k).token who (match (s.dropFlight k).capRefusal cap 0xF000 false with
        | some r => capError r
        | none => (s.tile t).mx.status t)) := by
  have hruns : (s.ctx.stopped && !s.fenced [who.id]) = false := by
    obtain h | h := hgo <;> simp [h]
  show execMqryAnswer k s = _
  simp only [execMqryAnswer, hf, hruns, hturn]
  rfl

end

/-! ### Acceptance (R260, R261) -/

section
variable {k t : Nat} {c : MxCmd} {s : State} (hf : s.flight k = some (.matrix c t))
  (hgo : s.ctx.stopped = false ∨ s.fenced [c.who.id] = true) (hturn : s.streamBefore k (.matrix c t) = false)
include hf hgo hturn

theorem exec_matrixCommandAccept : exec (.matrixCommandAccept k) s = match s.capRefusal c.cap (MxOp.right c.op) false with
    | some r => .next ((s.dropFlight k).token c.who (capError r))
    | none =>
      if Config.matrixPlaces ≤ (s.tile t).mx.queue.length then .next s
      else .next (((s.scaleOf c).2.dropFlight k).updUnit t (fun m => { m with queue := m.queue ++ [(s.scaleOf c).1] })) := by
  have hruns : (s.ctx.stopped && !s.fenced [c.who.id]) = false := by
    obtain h | h := hgo <;> simp [h]
  show execMatrixCommandAccept k s = _
  simp only [execMatrixCommandAccept, hf, hruns, hturn]
  rfl

end

/-- The scale that a unit reads is the one at issue or the one now, and reading it takes a free value at most. -/
theorem State.scaleOf_only (c : MxCmd) (s : State) : ∃ x n, s.scaleOf c = ({ c with scale := x }, { s with free := n }) ∧
    (x = c.scale ∨ ∃ r, c.sreg = some r ∧ x = rget (s.thOf c.who.le c.who.set).f r) := by
  unfold State.scaleOf
  split
  · exact ⟨c.scale, s.free, rfl, .inl rfl⟩
  · next r hr =>
    dsimp only
    split
    · exact ⟨c.scale, s.free, rfl, .inl rfl⟩
    · split
      · exact ⟨_, _, rfl, .inr ⟨r, hr, rfl⟩⟩
      · exact ⟨c.scale, _, rfl, .inl rfl⟩

/-! ### Completion (R261, R262, R269) -/

theorem exec_matrixCommandComplete {tile : Nat} {s : State} {c : MxCmd} {rest : List MxCmd} (hq : (s.tile tile).mx.queue = c :: rest)
    (hd : s.storesDone c.who = true) (hgo : s.ctx.stopped = false ∨ s.fenced ((c :: rest).map (·.who.id)) = true) :
    exec (.matrixCommandComplete tile) s = match s.mxPerform c tile with
      | (.blocked c1, s1) => .next (s1.updUnit tile (fun m => { m with queue := c1 :: rest }))
      | (.done v, s1) => .next ((s1.updUnit tile (fun m => { m.noted with queue := rest })).endCommand c.who v) := by
  have hunit : (s.unit tile).queue = c :: rest := hq
  have hruns : (s.ctx.stopped && !s.fenced ((c :: rest).map (·.who.id))) = false := by
    obtain h | h := hgo <;> simp only [h, Bool.false_and, Bool.not_true, Bool.and_false]
  show execMatrixCommandComplete tile s = _
  simp only [execMatrixCommandComplete, hunit, hd, hruns]
  rfl

/-- Settles O44: the supervisor mints, a query that passes is asked and answered, and a unit takes, performs and reports its commands. -/
theorem matrixUnitsAcceptAndComplete : Obligations.MatrixUnitsAcceptAndComplete := by
  refine ⟨?mcap, ?mqry, ?answer, ?accept, ?complete⟩
  case mcap =>
    exact fun d a b s => ⟨exec_mcap_user, fun hs hr => ⟨exec_mcap_mints hs hr rfl rfl rfl, exec_mcap_low hs hr rfl rfl rfl,
      exec_mcap_high hs hr rfl rfl rfl⟩⟩
  case mqry => exact fun d a s hr => exec_mqry hr rfl
  case answer =>
    intro k s who cap t hf hgo hturn
    rw [exec_mqryAnswer hf hgo hturn]
    exact ⟨fun r href => by rw [href]; rfl, fun hcap => by rw [hcap]⟩
  case accept =>
    intro k s c t hf hgo hturn
    rw [exec_matrixCommandAccept hf hgo hturn]
    refine ⟨fun r href => by rw [href]; rfl, fun hcap => ?_⟩
    rw [hcap]
    refine ⟨fun hfull => if_pos hfull, fun hroom => ?_⟩
    obtain ⟨x, n, hscale, hx⟩ := s.scaleOf_only c
    refine ⟨_, x, if_neg (Nat.not_le.2 hroom), hx, ?_, ?_, ?_⟩
    · rw [hscale]
      exact congrArg (fun tl : Tile => tl.mx.queue) (State.tile_updTile_same ..)
    · rw [hscale]
      rfl
    · rw [hscale]
      rfl
  case complete =>
    intro tile s c rest hq hd hgo
    rw [exec_matrixCommandComplete hq hd hgo]
    exact ⟨fun v s1 hrun => by rw [hrun]; rfl, fun c1 s1 hrun => by rw [hrun]; rfl⟩

end Sys2Proof.Machine
end

section
/-! What traps and the ends of handlers change of a thread set (R144, R151, R180, R326, R334, R345 to R347, R354). -/
namespace Sys2Proof.Machine

/-! ### Changes of thread sets -/

/-- A change of one set is that change of it, and none of the others. -/
theorem State.thOf_updThOf (le k : Nat) (f : ThreadSet → ThreadSet) (s : State) (m j : Nat) :
    (s.updThOf le k f).thOf m j = if m = le ∧ j % 4 = k % 4 then f (s.thOf m j) else s.thOf m j := by
  split
  · next h =>
    obtain ⟨rfl, hj⟩ := h
    have hsame : ∀ t : State, t.thOf m j = t.thOf m k := fun t => by simp only [State.thOf, vget, hj]
    rw [hsame, hsame, State.thOf_updThOf_same]
  · next h => exact State.thOf_updThOf_other s f (by rwa [ne_eq, ne_eq, ← Decidable.not_and_iff_not_or_not])

/-- A change of the issuing set differs from the state in that set only. -/
theorem State.updTh_onlySet (s : State) (f : ThreadSet → ThreadSet) : s.onlySet (s.updTh f) (s.updTh f).th := by
  rw [State.th_updTh]
  exact State.Alike.onlySet (.refl _)

/-! ### What the end of an operation may change (R151) -/

/-- The set without what the end of an operation may change: its general registers with what guards them, and the scoreboard. -/
def ThreadSet.still (t : ThreadSet) : ThreadSet :=
  { t with g := ThreadSet.start.g, sg := ThreadSet.start.sg, pending := [], barTok := [], oplog := [], badRegs := [] }

theorem ThreadSet.wgIn_still (sup : Bool) (n : RegNo) (x : Word) (t : ThreadSet) : (t.wgIn sup n x).still = t.still := by
  unfold ThreadSet.wgIn
  split
  · rfl
  · split <;> rfl

/-- A part of a set that no end of an operation changes. -/
theorem ThreadSet.eq_of_still {α : Type} (π : ThreadSet → α) (hπ : ∀ t, π t.still = π t) {t u : ThreadSet} (h : t.still = u.still) : π t = π u := by
  rw [← hπ t, h, hπ]

/-- `t` is `s` but for what the end of an operation may change of a thread set, and for the tiles and the rest of the elements. -/
structure State.Retains (s t : State) : Prop where
  cur : t.cur = s.cur
  entry : t.ctx.trapEntry = s.ctx.trapEntry
  own : t.ctx.ownEntry = s.ctx.ownEntry
  mem : t.mem = s.mem
  sets : ∀ le k, (t.thOf le k).still = (s.thOf le k).still

theorem State.Retains.refl (s : State) : s.Retains s := ⟨rfl, rfl, rfl, rfl, fun _ _ => rfl⟩

theorem State.Retains.trans {s t u : State} (h : s.Retains t) (h' : t.Retains u) : s.Retains u :=
  ⟨h'.cur.trans h.cur, h'.entry.trans h.entry, h'.own.trans h.own, h'.mem.trans h.mem, fun le k => (h'.sets le k).trans (h.sets le k)⟩

theorem State.updTile_retains (t : Nat) (f : Tile → Tile) (s : State) : s.Retains (s.updTile t f) := ⟨rfl, rfl, rfl, rfl, fun _ _ => rfl⟩

theorem State.updEl_retains (le : Nat) {f : Element → Element} (h : ∀ e, (f e).sets = e.sets) (s : State) : s.Retains (s.updEl le f) :=
  ⟨rfl, rfl, rfl, rfl, fun m k => congrArg ThreadSet.still (s.thOf_updEl_of_sets h m k)⟩

theorem State.updThOf_retains (le k : Nat) {f : ThreadSet → ThreadSet} (h : ∀ t, (f t).still = t.still) (s : State) :
    s.Retains (s.updThOf le k f) := by
  refine ⟨rfl, rfl, rfl, rfl, fun m j => ?_⟩
  rw [State.thOf_updThOf]
  split
  · exact h _
  · rfl

theorem State.finish_retains (le k id : Nat) (x : Word) (s : State) : s.Retains (s.finish le k id x) := by
  unfold State.finish
  split
  · refine State.Retains.trans (s.updThOf_retains le k fun t => ?_) (.refl _)
    exact ThreadSet.wgIn_still ..
  · refine s.updThOf_retains le k fun t => ?_
    rfl
  · exact .refl s

theorem State.consume_retains (le : Nat) (a : Act) (s : State) : s.Retains (s.consume le a) := by
  unfold State.consume
  split
  · exact .refl s
  · refine s.updEl_retains le fun e => ?_
    rfl
  · refine s.updEl_retains le fun e => ?_
    rfl

/-! ### Released allotments and abandoned clones (R326, R377) -/

theorem Element.sets_release (id : Nat) (chans : List Nat) (e : Element) : (e.release id chans).sets = e.sets := by
  refine foldl_keeps Element.sets (Element.freeChan id) (fun e ch => ?_) chans e
  unfold Element.freeChan
  split <;> rfl

theorem State.noteRunnable_retains (le : Nat) (s : State) : s.Retains (s.noteRunnable le) := by
  unfold State.noteRunnable
  split
  · exact s.updTile_retains ..
  · exact .refl s

theorem State.noteReleased_retains (le : Nat) (s : State) : s.Retains (s.noteReleased le) := by
  unfold State.noteReleased
  split
  · exact .refl s
  · exact ⟨rfl, rfl, rfl, rfl, fun _ _ => rfl⟩

theorem State.releaseAllot_retains (le id : Nat) (s : State) : s.Retains (s.releaseAllot le id) := by
  cases h : s.allotOf le id with
  | none =>
    rw [State.releaseAllot, h]
    exact .refl s
  | some a =>
    rw [State.releaseAllot_of_allotOf h]
    exact ((s.noteRunnable_retains le).trans (State.noteReleased_retains ..)).trans (State.updEl_retains le (Element.sets_release id a.chans) _)

/-- The donor's allotment, where there is one, is released. -/
theorem State.releaseAllot_optional_retains (m : Nat) (o : Option Allot) (s : State) :
    s.Retains (match o with | some a => s.releaseAllot m a.id | none => s) := by
  cases o with
  | none => exact .refl s
  | some a => exact s.releaseAllot_retains m a.id

theorem State.abandonClone_retains (le ch : Nat) (s : State) : s.Retains (s.abandonClone le ch) := by
  unfold State.abandonClone
  split
  · next st _ =>
    split
    · next o _ =>
      split
      · have hupd : ∀ (f : Element → Element), (∀ e, (f e).sets = e.sets) → ∀ u, s.Retains u → s.Retains (u.updEl le f) :=
          fun f hf u hu => hu.trans (u.updEl_retains le hf)
        dsimp only
        split
        · refine State.Retains.trans (hupd _ ?_ _ ?_) (State.finish_retains ..)
          · exact fun _ => rfl
          · exact s.releaseAllot_optional_retains o.partner _
        · refine hupd _ ?_ _ ?_
          · exact fun _ => rfl
          · exact s.releaseAllot_optional_retains o.partner _
      · exact .refl s
    · exact .refl s
  · exact .refl s

/-! ### Changes that leave every thread set (R180, R226) -/

/-- What of a state a change of queues, of messages, of operations or of tiles leaves as it is. -/
def State.sight (s : State) : (Nat × Nat) × Word × Bool × List Host.Cell × (Nat → Nat → ThreadSet) :=
  (s.cur, s.ctx.trapEntry, s.ctx.ownEntry, s.mem, s.thOf)

theorem State.sight_eq_iff {s t : State} : t.sight = s.sight ↔
    t.cur = s.cur ∧ t.ctx.trapEntry = s.ctx.trapEntry ∧ t.ctx.ownEntry = s.ctx.ownEntry ∧ t.mem = s.mem ∧ t.thOf = s.thOf := by
  simp only [State.sight, Prod.mk.injEq]

theorem State.th_of_sight {s t : State} (h : t.sight = s.sight) : t.th = s.th := by
  obtain ⟨hcur, -, -, -, hth⟩ := State.sight_eq_iff.mp h
  rw [State.th, State.th, hcur, hth]

theorem State.cur_of_sight {s t : State} (h : t.sight = s.sight) : t.cur = s.cur := (State.sight_eq_iff.mp h).1

theorem State.retains_of_sight {s t : State} (h : t.sight = s.sight) : s.Retains t := by
  obtain ⟨hcur, hentry, hown, hmem, hth⟩ := State.sight_eq_iff.mp h
  exact ⟨hcur, hentry, hown, hmem, fun le k => by rw [hth]⟩

theorem State.updEl_sight (le : Nat) {f : Element → Element} (h : ∀ e, (f e).sets = e.sets) (s : State) : (s.updEl le f).sight = s.sight :=
  State.sight_eq_iff.mpr ⟨rfl, rfl, rfl, rfl, funext fun m => funext fun k => s.thOf_updEl_of_sets h m k⟩

theorem State.muteOps_sight (le k : Nat) (sup : Bool) (s : State) : (s.muteOps le k sup).sight = s.sight := by
  refine s.updEl_sight le fun e => ?_
  rfl

theorem State.dropSubPins_sight (le k : Nat) (s : State) : (s.dropSubPins le k).sight = s.sight := rfl

theorem State.leaveQueues_sight (le : Nat) (w : Waiter) (s : State) : (s.leaveQueues le w).sight = s.sight := by
  have hown : ∀ (f : Element → Element), (∀ e, (f e).sets = e.sets) → (s.updEl le f).sight = s.sight := fun f hf => s.updEl_sight le hf
  unfold State.leaveQueues
  dsimp only
  refine (foldl_keeps State.sight _ (fun b d => ?_) _ _).trans (hown _ fun _ => rfl)
  split
  · next m _ =>
    split
    · refine b.updEl_sight m fun e => ?_
      rfl
    · rfl
  · rfl

theorem State.noteTrailing_sight (le k : Nat) (s : State) : (s.noteTrailing le k).sight = s.sight := by
  unfold State.noteTrailing
  split
  · split
    · refine s.updEl_sight le fun e => ?_
      rfl
    · rfl
  · rfl

/-! ### The abort of a handler (R345) -/

/-- The set after the abort of its handler. -/
def ThreadSet.aborted (t : ThreadSet) : ThreadSet :=
  { t with sendBuf := [], pend := [], susp := none, frame := none, waiting := none, blocked := [] }

/-- The state where the aborted handler's message still stands: all else of the abort is done. -/
def State.abandoned (le k : Nat) (s : State) : State :=
  (((s.muteOps le k false).updThOf le k fun t => (detach (s.el le) t).aborted).leaveQueues le (.set le k)).dropSubPins le k

/-- The message of an aborted activation waits for the supervisor's end; that of a split goes, and its clone is abandoned (R334). -/
def State.holdMessage (le : Nat) (o : Option Act) (s : State) : State :=
  match o with
  | some a =>
    match a.kind with
    | .split => (s.consume le a).abandonClone le a.stageCh
    | .spawn | .ring => s
    | _ => s.updEl le (fun e => { e with inb := e.inb.map (fun q => if q.stamp = a.stamp then { q with returned := true } else q) })
  | none => s

theorem State.abortHandler_eq (le k : Nat) (s : State) :
    s.abortHandler le k = (s.abandoned le k).holdMessage le ((s.abandoned le k).thOf le k).act := rfl

theorem State.abandoned_retains (le k : Nat) (s : State) : (s.updThOf le k ThreadSet.aborted).Retains (s.abandoned le k) := by
  refine State.Retains.trans ?_ (State.retains_of_sight ((State.dropSubPins_sight ..).trans (State.leaveQueues_sight ..)))
  refine ⟨rfl, rfl, rfl, rfl, fun m j => ?_⟩
  rw [State.thOf_updThOf, State.thOf_updThOf, State.muteOps_thOf]
  split <;> rfl

theorem State.holdMessage_retains (le : Nat) (o : Option Act) (s : State) : s.Retains (s.holdMessage le o) := by
  have hinb : ∀ (f : Element → Element), (∀ e, (f e).sets = e.sets) → s.Retains (s.updEl le f) := fun f hf => s.updEl_retains le hf
  unfold State.holdMessage
  split
  · split
    · exact (s.consume_retains le _).trans (State.abandonClone_retains ..)
    · exact .refl s
    · exact .refl s
    · exact hinb _ fun _ => rfl
  · exact .refl s

/-- An abort takes the handler's buffers and frame from its set, and ends operations of any set (R345). -/
theorem State.abortHandler_retains (le k : Nat) (s : State) : (s.updThOf le k ThreadSet.aborted).Retains (s.abortHandler le k) := by
  rw [State.abortHandler_eq]
  exact (s.abandoned_retains le k).trans (State.holdMessage_retains ..)

/-! ### A free set, and the end of the supervisor (R169, R354) -/

/-- The set after its activation. -/
def ThreadSet.freed (t : ThreadSet) : ThreadSet :=
  { t with
    run := .free, act := none, susp := none, frame := none, ending := none, yielded := false, waiting := none, blocked := []
    sendBuf := [], pend := [], migrated := false }

theorem State.freeSet_thOf_eq (le k : Nat) (s : State) : (s.freeSet le k).thOf le k = (s.thOf le k).freed := by
  rw [State.freeSet, State.thOf_updThOf_same, State.muteOps_thOf, State.muteOps_thOf, State.noteTrailing_thOf]
  rfl

theorem State.freeSet_cur (le k : Nat) (s : State) : (s.freeSet le k).cur = s.cur := by
  rw [State.freeSet, State.updThOf_cur, State.muteOps_cur, State.muteOps_cur]
  exact State.cur_of_sight (s.noteTrailing_sight le k)

theorem State.poke_thOf (a : Nat) (bs : List Byte) (s : State) : (s.poke a bs).thOf = s.thOf := rfl

theorem State.giveBack_thOf (le : Nat) (a : Act) (s : State) : (s.giveBack le a).thOf = s.thOf := by
  have hupd : ∀ (f : Element → Element) (u : State), (∀ e, (f e).sets = e.sets) → (u.updEl le f).thOf = u.thOf :=
    fun f u hf => funext fun m => funext fun k => u.thOf_updEl_of_sets hf m k
  unfold State.giveBack
  split
  · rfl
  · rfl
  · dsimp only
    refine (hupd _ _ ?_).trans ?_
    · exact fun _ => rfl
    · exact State.poke_thOf ..
  · exact hupd _ _ fun _ => rfl

theorem State.giveBack_cur (le : Nat) (a : Act) (s : State) : (s.giveBack le a).cur = s.cur := by
  unfold State.giveBack
  split <;> rfl

/-- The message or ring entry of the ended activation is removed or given back (R354). -/
def State.settleMessage (le : Nat) (t : ThreadSet) (s : State) : State :=
  match t.act with
  | some a =>
    if t.tstat.getLsbD 19 then
      match a.passPin with
      | some _ => (s.consume le a).dropPassPin le a.stamp
      | none => s.consume le a
    else s.giveBack le a
  | none => s

theorem State.endSup_eq (le k : Nat) (s : State) : s.endSup le k =
    (((s.settleMessage le (s.thOf le k)).updThOf le k (detach ((s.settleMessage le (s.thOf le k)).el le))).dropAllPins le k).freeSet le k := rfl

theorem State.settleMessage_cur (le : Nat) (t : ThreadSet) (s : State) : (s.settleMessage le t).cur = s.cur := by
  unfold State.settleMessage
  split
  · next a _ =>
    split
    · split
      · exact (s.consume_retains le a).cur
      · exact (s.consume_retains le a).cur
    · exact s.giveBack_cur le a
  · rfl

theorem State.settleMessage_still (le : Nat) (t : ThreadSet) (s : State) (m k : Nat) :
    ((s.settleMessage le t).thOf m k).still = (s.thOf m k).still := by
  unfold State.settleMessage
  split
  · next a _ =>
    split
    · split
      · exact (s.consume_retains le a).sets m k
      · exact (s.consume_retains le a).sets m k
    · rw [s.giveBack_thOf le a]
  · rfl

theorem State.endSup_cur (le k : Nat) (s : State) : (s.endSup le k).cur = s.cur := by
  have hdrop : ∀ u : State, (u.dropAllPins le k).cur = u.cur := fun u => rfl
  rw [State.endSup_eq, State.freeSet_cur, hdrop, State.updThOf_cur, State.settleMessage_cur]

/-- The end of the supervisor frees its set, and changes nothing else there but what the end of an operation may. -/
theorem State.endSup_still (le k : Nat) (s : State) : ((s.endSup le k).thOf le k).still = (s.thOf le k).freed.still := by
  have hdrop : ∀ u : State, (u.dropAllPins le k).thOf le k = u.thOf le k := fun u => rfl
  rw [State.endSup_eq, State.freeSet_thOf_eq, hdrop, State.thOf_updThOf_same]
  exact congrArg ThreadSet.freed (s.settleMessage_still le _ le k)

/-! ### A trap taken by a handler of the user (R345 to R347) -/

/-- The set as the supervisor enters it. -/
def ThreadSet.entered (pc : Word) (t : ThreadSet) : ThreadSet :=
  { t with run := .sup, pc := pc, frame := none, sendBuf := [], pend := [], ending := none, waiting := none, blocked := [] }

/-- The set with its handler suspended by a resumable trap, or aborted by a fault. -/
def ThreadSet.setAside (cause : Nat) (held : Option HeldResult) (t : ThreadSet) : ThreadSet :=
  if resumable cause then { t with susp := some ⟨t.frame, t.sendBuf, t.pend, cause, held, t.pc, none⟩ } else t.aborted

/-- The set as a trap leaves it to the supervisor at `pc`. -/
def ThreadSet.trapped (cause : Nat) (tval : Word) (held : Option HeldResult) (pc : Word) (t : ThreadSet) : ThreadSet :=
  { (t.saveTrap cause tval).entered pc with
    susp := if resumable cause then some ⟨t.frame, t.sendBuf, t.pend, cause, held, t.pc, none⟩ else none }

theorem ThreadSet.entered_setAside (cause : Nat) (tval : Word) (held : Option HeldResult) (pc : Word) (t : ThreadSet) :
    ((t.saveTrap cause tval).setAside cause held).entered pc = t.trapped cause tval held pc := by
  unfold ThreadSet.setAside ThreadSet.trapped
  split <;> rfl

/-- The state with the trap's registers saved and the handler suspended or aborted, before the supervisor enters. -/
def State.setAside (le k cause : Nat) (tval : Word) (held : Option HeldResult) (s : State) : State :=
  if resumable cause then
    (s.updThOf le k (·.saveTrap cause tval)).updThOf le k (fun t => { t with susp := some ⟨t.frame, t.sendBuf, t.pend, cause, held, t.pc, none⟩ })
  else (s.updThOf le k (·.saveTrap cause tval)).abortHandler le k

theorem State.trapAt_of_user {le k : Nat} {s : State} (h : (s.thOf le k).inSup = false) (cause : Nat) (tval : Word)
    (held : Option HeldResult) : s.trapAt le k cause tval held = (s.setAside le k cause tval held).enterSup le k := by
  unfold State.trapAt State.setAside
  dsimp only
  rw [if_neg (by rw [h]; decide)]
  split <;> rfl

theorem State.setAside_retains (le k cause : Nat) (tval : Word) (held : Option HeldResult) (s : State) :
    (s.updThOf le k fun t => (t.saveTrap cause tval).setAside cause held).Retains (s.setAside le k cause tval held) := by
  unfold State.setAside ThreadSet.setAside
  split
  · refine ⟨rfl, rfl, rfl, rfl, fun m j => ?_⟩
    rw [State.thOf_updThOf, State.thOf_updThOf, State.thOf_updThOf]
    split <;> rfl
  · refine State.Retains.trans ?_ (State.abortHandler_retains ..)
    refine ⟨rfl, rfl, rfl, rfl, fun m j => ?_⟩
    rw [State.thOf_updThOf, State.thOf_updThOf, State.thOf_updThOf]
    split <;> rfl

theorem State.enterSup_of_named {s : State} (h : s.ctx.ownEntry = false) (le k : Nat) :
    s.enterSup le k = s.updThOf le k (ThreadSet.entered s.ctx.trapEntry) := by
  have hown : (s.startSup le k).ctx.ownEntry = false := h
  unfold State.enterSup
  exact if_neg (by rw [hown]; decide)

/-- With a trap entry named, the set that traps runs the supervisor there, its registers saved and its handler set aside (R345 to R347). -/
theorem State.trapAt_still {le k : Nat} {s : State} (hsup : (s.thOf le k).inSup = false) (hown : s.ctx.ownEntry = false) (cause : Nat) (tval : Word)
    (held : Option HeldResult) : ((s.trapAt le k cause tval held).thOf le k).still =
      ((s.thOf le k).trapped cause tval held s.ctx.trapEntry).still := by
  have hr := s.setAside_retains le k cause tval held
  have hset := hr.sets le k
  rw [State.thOf_updThOf_same] at hset
  rw [State.trapAt_of_user hsup, State.enterSup_of_named (hr.own.trans hown), State.thOf_updThOf_same, hr.entry, ← ThreadSet.entered_setAside]
  exact congrArg (ThreadSet.entered s.ctx.trapEntry) hset

theorem State.trapAt_mem {le k : Nat} {s : State} (hsup : (s.thOf le k).inSup = false) (hown : s.ctx.ownEntry = false) (cause : Nat) (tval : Word)
    (held : Option HeldResult) : (s.trapAt le k cause tval held).mem = s.mem := by
  have hr := s.setAside_retains le k cause tval held
  rw [State.trapAt_of_user hsup, State.enterSup_of_named (hr.own.trans hown)]
  exact hr.mem

/-- A resumable trap leaves the set's general registers and its tokens to the supervisor as they are (R346). -/
theorem State.trapAt_of_resumable {le k cause : Nat} {s : State} (hsup : (s.thOf le k).inSup = false) (hown : s.ctx.ownEntry = false)
    (hc : resumable cause = true) (tval : Word) (held : Option HeldResult) : (s.trapAt le k cause tval held).thOf le k =
      (s.thOf le k).trapped cause tval held s.ctx.trapEntry := by
  have hr := s.setAside_retains le k cause tval held
  rw [State.trapAt_of_user hsup, State.enterSup_of_named (hr.own.trans hown), State.thOf_updThOf_same, hr.entry, State.setAside, if_pos hc,
    State.thOf_updThOf_same, State.thOf_updThOf_same, ← ThreadSet.entered_setAside, ThreadSet.setAside, if_pos hc]
  rfl

/-- The word of `tcause`: the cause, and above it whether the trap resumes and whether it struck in a frame (R344). -/
theorem tcause_bits {c : Nat} (hc : c < 256) (a b : Bool) : (BitVec.ofNat 64 (c + a.toNat * 256 + b.toNat * 512)).toNat % 256 = c ∧
    (BitVec.ofNat 64 (c + a.toNat * 256 + b.toNat * 512)).getLsbD 8 = a ∧ (BitVec.ofNat 64 (c + a.toNat * 256 + b.toNat * 512)).getLsbD 9 = b := by
  have ha := Bool.toNat_le a
  have hb := Bool.toNat_le b
  simp only [BitVec.toNat_ofNat, BitVec.getLsbD_ofNat, Nat.testBit_eq_decide_div_mod_eq]
  refine ⟨by omega, ?_, ?_⟩
  · cases a <;> cases b <;> simp <;> omega
  · cases a <;> cases b <;> simp <;> omega

end Sys2Proof.Machine
end


section
/-! The return from the supervisor, and O57: traps are taken and returned from (R345 to R347, R354; log entries 67, 70). -/
namespace Sys2Proof.Machine

/-! ### The resumed handler (R346, R354) -/

/-- The state that the handler resumes in, before its set changes. -/
def State.handlerHome (past : Bool) (u : Suspended) (s : State) : State :=
  ((if past || s.th.tepc != u.pc &&& 0x0001FFFFFFFFFFFC then s.leaveQueues s.cur.1 (.set s.cur.1 s.cur.2) else s).muteOps
    s.cur.1 s.cur.2 true).dropSubPins s.cur.1 (s.cur.2 + 4)

theorem State.handlerHome_sight (past : Bool) (u : Suspended) (s : State) : (s.handlerHome past u).sight = s.sight := by
  unfold State.handlerHome
  rw [State.dropSubPins_sight, State.muteOps_sight]
  split
  · exact s.leaveQueues_sight ..
  · rfl

theorem State.resumeHandler_eq (past : Bool) (u : Suspended) (s : State) :
    s.resumeHandler past u = (s.handlerHome past u).updTh fun t => (t.dropSupTokens (s.el s.cur.1)).resume u := by
  have hcur : (if past || s.th.tepc != u.pc &&& 0x0001FFFFFFFFFFFC then s.leaveQueues s.cur.1 (.set s.cur.1 s.cur.2) else s).cur = s.cur := by
    split
    · exact State.cur_of_sight (s.leaveQueues_sight ..)
    · rfl
  unfold State.resumeHandler State.handlerHome
  dsimp only
  rw [hcur]

/-- The handler that resumes has its own frame, buffers and pc again, at `tepc` (R346). -/
theorem State.resumeHandler_th (past : Bool) (u : Suspended) (s : State) :
    (s.resumeHandler past u).th = (s.th.dropSupTokens (s.el s.cur.1)).resume u := by
  rw [State.resumeHandler_eq, State.th_updTh, State.th_of_sight (s.handlerHome_sight past u)]

theorem State.resumeHandler_cur (past : Bool) (u : Suspended) (s : State) : (s.resumeHandler past u).cur = s.cur := by
  rw [State.resumeHandler_eq, State.updTh_cur]
  exact State.cur_of_sight (s.handlerHome_sight past u)

/-- At the trapping instruction itself, a set keeps its places at queues. -/
theorem State.resumeHandler_onlySet {u : Suspended} {s : State} (h : s.th.tepc = u.pc &&& 0x0001FFFFFFFFFFFC) :
    ((s.muteOps s.cur.1 s.cur.2 true).dropSubPins s.cur.1 (s.cur.2 + 4)).onlySet (s.resumeHandler false u) (s.resumeHandler false u).th := by
  have hhome : s.handlerHome false u = (s.muteOps s.cur.1 s.cur.2 true).dropSubPins s.cur.1 (s.cur.2 + 4) := by
    rw [State.handlerHome, if_neg (by simp [h])]
  rw [State.resumeHandler_eq, hhome]
  exact State.updTh_onlySet ..

/-! ### A blocked return (R180, R212) -/

theorem State.updIn_sight (le : Nat) (p : Port) (f : Fifo → Fifo) (s : State) : (s.updIn le p f).sight = s.sight := by
  have hupd : ∀ (m : Nat) (f : Element → Element), (∀ e, (f e).sets = e.sets) → (s.updEl m f).sight = s.sight := fun m f hf => s.updEl_sight m hf
  unfold State.updIn
  split
  · exact hupd _ _ fun _ => rfl
  · split
    · exact hupd _ _ fun _ => rfl
    · rfl

theorem State.updOut_sight (le : Nat) (p : Port) (f : Fifo → Fifo) (s : State) : (s.updOut le p f).sight = s.sight := by
  have hupd : ∀ (m : Nat) (f : Element → Element), (∀ e, (f e).sets = e.sets) → (s.updEl m f).sight = s.sight := fun m f hf => s.updEl_sight m hf
  unfold State.updOut
  split
  · exact hupd _ _ fun _ => rfl
  · split
    · split
      · exact hupd _ _ fun _ => rfl
      · rfl
    · rfl

theorem State.joinQueues_sight (le k : Nat) (needs : List (Port × Nat × Nat)) (s : State) : (s.joinQueues le k needs).sight = s.sight := by
  refine foldl_keeps State.sight _ (fun b nd => ?_) needs s
  have hread : (if nd.2.1 = 0 then b else b.updIn le nd.1 (·.joinReader (.set le k))).sight = b.sight := by
    split
    · rfl
    · exact State.updIn_sight ..
  dsimp only
  generalize (if nd.2.1 = 0 then b else b.updIn le nd.1 (·.joinReader (.set le k))) = v at hread ⊢
  split
  · exact hread
  · rw [State.updOut_sight, hread]

/-! ### The modes of `tret` (R354) -/

section
variable {s : State} {u : Suspended}

theorem exec_tret (m : BitVec 2) (hsup : s.th.inSup = true) : exec (.tret m) s = s.supReturn m.toNat := if_pos hsup

theorem exec_tret_of_user (m : BitVec 2) (hsup : s.th.inSup = false) : exec (.tret m) s = s.trap 0x12 (instrVal (.tret m)) :=
  if_neg (by rw [hsup]; decide)

/-- `done` in the supervisor is `tret 2` (R354). -/
theorem exec_doneI_of_sup (hsup : s.th.inSup = true) : exec .doneI s = exec (.tret 2) s := by
  rw [exec_tret 2 hsup]
  exact if_pos hsup

theorem State.supReturn_of_waits (m : Nat) (h : s.supWaits = true) : s.supReturn m = .next s := by
  unfold State.supReturn
  exact if_pos h

theorem State.supReturn_of_fault (m : Nat) (h : s.supWaits = false) (hu : s.th.susp = none) : s.supReturn m = .next (s.endSup s.cur.1 s.cur.2) := by
  unfold State.supReturn
  dsimp only
  rw [if_neg (by rw [h]; decide), hu]

/-- Mode 0 resumes the suspended handler. -/
theorem exec_tret_resumes (hsup : s.th.inSup = true) (hw : s.supWaits = false) (hu : s.th.susp = some u) :
    exec (.tret 0) s = .next ((s.resumeHandler false u).strikeLate u) := by
  have hmode : s.supReturn 0 = .next ((s.resumeHandler false u).strikeLate u) := by
    unfold State.supReturn
    dsimp only
    rw [if_neg (by rw [hw]; decide), hu]
    exact if_pos rfl
  exact (exec_tret 0 hsup).trans hmode

/-- Mode 1 of a trap that holds no result passes the instruction over. -/
theorem exec_tret_passes (hsup : s.th.inSup = true) (hw : s.supWaits = false) (hu : s.th.susp = some u) (hheld : u.held = none) :
    exec (.tret 1) s = .next ((s.resumeHandler true u).advance.strikeLate u) := by
  have hmode : s.supReturn 1 = .next ((s.resumeHandler true u).advance.strikeLate u) := by
    unfold State.supReturn
    dsimp only
    rw [if_neg (by rw [hw]; decide), hu]
    dsimp only
    rw [if_neg (by decide), if_pos rfl, hheld]
  exact (exec_tret 1 hsup).trans hmode

/-- Mode 1 of a doldrums trap retires the held result, or waits for its ports (R84, R212). -/
theorem exec_tret_held {h : HeldResult} (hsup : s.th.inSup = true) (hw : s.supWaits = false) (hu : s.th.susp = some u) (hheld : u.held = some h) :
    exec (.tret 1) s =
      if (portNeeds h.pops (heldPushes h.writes)).all (fun nd => s.portReady s.cur.1 s.cur.2 nd.1 nd.2.1 nd.2.2) then
        .next ((((h.writes.foldl (fun s w => s.write w) ((s.resumeHandler false u).popAll h.pops)).updTh (·.raise h.flags)).advance).strikeLate u)
      else .next ((s.joinQueues s.cur.1 s.cur.2 (portNeeds h.pops (heldPushes h.writes))).updTh
        fun t => { t with blocked := portNeeds h.pops (heldPushes h.writes) }) := by
  rw [exec_tret 1 hsup]
  have hone : (1 : BitVec 2).toNat = 1 := rfl
  rw [hone]
  unfold State.supReturn
  dsimp only
  rw [if_neg (by rw [hw]; decide), hu]
  dsimp only
  rw [if_neg (by decide), if_pos rfl, hheld]

/-- Mode 2 aborts the suspended handler. -/
theorem exec_tret_aborts (hsup : s.th.inSup = true) (hw : s.supWaits = false) (hu : s.th.susp = some u) :
    exec (.tret 2) s = .next ((s.abortHandler s.cur.1 s.cur.2).endSup s.cur.1 s.cur.2) := by
  have hmode : s.supReturn 2 = .next ((s.abortHandler s.cur.1 s.cur.2).endSup s.cur.1 s.cur.2) := by
    unfold State.supReturn
    dsimp only
    rw [if_neg (by rw [hw]; decide), hu]
    dsimp only
    rw [if_neg (by decide), if_neg (by decide)]
  exact (exec_tret 2 hsup).trans hmode

end

/-- The set of an ended supervisor runs nothing (R169, R354). -/
theorem State.endSup_th (s : State) : (s.endSup s.cur.1 s.cur.2).th.run = .free ∧ (s.endSup s.cur.1 s.cur.2).th.susp = none ∧
    (s.endSup s.cur.1 s.cur.2).th.act = none := by
  have hstill := s.endSup_still s.cur.1 s.cur.2
  rw [State.th, State.endSup_cur]
  exact ⟨ThreadSet.eq_of_still ThreadSet.run (fun _ => rfl) hstill, ThreadSet.eq_of_still ThreadSet.susp (fun _ => rfl) hstill,
    ThreadSet.eq_of_still ThreadSet.act (fun _ => rfl) hstill⟩

theorem State.abortHandler_cur (le k : Nat) (s : State) : (s.abortHandler le k).cur = s.cur := (s.abortHandler_retains le k).cur

/-- The handler resumed at an instruction goes on behind it, in its frame where it is in one (R196). -/
theorem ThreadSet.advance_frame {t : ThreadSet} {fr : Frame} (h : t.frame = some fr) : t.advance.frame = fr.step.1 ∧ t.advance.pc = fr.step.2 := by
  unfold ThreadSet.advance
  rw [h]
  exact ⟨rfl, rfl⟩

/-- A held result for one f register, retired in the resumed handler (R84). -/
theorem State.retire_held_th (s : State) (u : Suspended) (d : RegNo) (x : FReg) (fl : FpFlags) :
    (((([RegWrite.f d x].foldl (fun s w => s.write w) ((s.resumeHandler false u).popAll [])).updTh (·.raise fl)).advance)).th =
      ((((s.th.dropSupTokens (s.el s.cur.1)).resume u).wf d x).raise fl).advance := by
  have hwrite : ∀ v : State, (v.write (.f d x)).th = v.th.wf d x := fun v => v.th_updTh _
  have hpop : (s.resumeHandler false u).popAll [] = s.resumeHandler false u := rfl
  rw [List.foldl_cons, List.foldl_nil, State.th_advance, State.th_updTh, hwrite, hpop, State.resumeHandler_th]

/-- What stands in a set that a trap has given to the supervisor, whatever operations have ended since (R344 to R347). -/
theorem ThreadSet.trapped_fields {t o : ThreadSet} {cause : Nat} {tval pc : Word} {held : Option HeldResult}
    (h : t.still = (o.trapped cause tval held pc).still) (hc : cause < 256) :
    t.tcause.toNat % 256 = cause ∧ t.tcause.getLsbD 8 = resumable cause ∧ t.tcause.getLsbD 9 = o.frame.isSome ∧
    t.tepc = o.pc &&& 0x0001FFFFFFFFFFFC ∧ t.tval = tval ∧ t.tmsg = (o.act.getD Act.idle).header ∧ (o.frame = none → t.tstat = 0) ∧
    t.run = .sup ∧ t.pc = pc ∧ t.frame = none ∧ t.sendBuf = [] ∧ t.pend = [] ∧ t.f = o.f ∧ t.v = o.v ∧ t.fcsr = o.fcsr ∧ t.act = o.act := by
  have hkeep : ∀ {α : Type} (π : ThreadSet → α), (∀ t, π t.still = π t) → _ := fun π hπ => ThreadSet.eq_of_still π hπ h
  have hword := hkeep ThreadSet.tcause fun _ => rfl
  have hstat := hkeep ThreadSet.tstat fun _ => rfl
  obtain ⟨hcause, hresumes, hframe⟩ := tcause_bits hc (resumable cause) o.frame.isSome
  refine ⟨hword ▸ hcause, hword ▸ hresumes, hword ▸ hframe, hkeep ThreadSet.tepc fun _ => rfl, hkeep ThreadSet.tval fun _ => rfl,
    hkeep ThreadSet.tmsg fun _ => rfl, fun hnone => hstat.trans ?_, hkeep ThreadSet.run fun _ => rfl, hkeep ThreadSet.pc fun _ => rfl,
    hkeep ThreadSet.frame fun _ => rfl, hkeep ThreadSet.sendBuf fun _ => rfl, hkeep ThreadSet.pend fun _ => rfl, hkeep ThreadSet.f fun _ => rfl,
    hkeep ThreadSet.v fun _ => rfl, hkeep ThreadSet.fcsr fun _ => rfl, hkeep ThreadSet.act fun _ => rfl⟩
  simp only [ThreadSet.trapped, ThreadSet.entered, ThreadSet.saveTrap, hnone]

/-- Settles O57: what a trap leaves of its set is read off the set as the supervisor enters it, and each mode of `tret` off the resumed or freed
set. -/
theorem trapsAreTakenAndReturnedFrom : Obligations.TrapsAreTakenAndReturnedFrom := by
  unfold Obligations.TrapsAreTakenAndReturnedFrom
  refine ⟨?_, fun m s h => exec_tret_of_user m h, ?_, ?_, ?_⟩
  · intro le k cause tval held s hsup hown hc
    have hstill := State.trapAt_still hsup hown cause tval held
    obtain ⟨hcause, hresumes, hframe, hepc, hval, hmsg, hstat, hrun, hpc, hfr, hbuf, hpend, hf, hv, hfcsr, hact⟩ :=
      ThreadSet.trapped_fields hstill hc
    refine ⟨hcause, hresumes, hframe, hepc, hval, hmsg, hstat, hrun, hpc, hfr, hbuf, hpend, hf, hv, hfcsr, hact,
      State.trapAt_mem hsup hown cause tval held, fun hr => ?_, fun hr => ?_⟩
    · rw [State.trapAt_of_resumable hsup hown hr tval held]
      exact ⟨if_pos hr, rfl, rfl⟩
    · exact (ThreadSet.eq_of_still ThreadSet.susp (fun _ => rfl) hstill).trans (if_neg (by rw [hr]; decide))
  · intro m s hsup hw
    have htret : ∀ m : BitVec 2, exec (.tret m) s = .next s := fun m => (exec_tret m hsup).trans (State.supReturn_of_waits _ hw)
    exact ⟨htret m, (exec_doneI_of_sup hsup).trans (htret 2)⟩
  · intro u s hsup hu hw
    refine ⟨?_, ?_, ?_, ?_, ?_, ?_, exec_doneI_of_sup hsup⟩
    · intro f hf
      rw [exec_tret_resumes hsup hw hu, State.strikeLate, hf, State.resumeHandler_cur]
    · intro hlate
      rw [exec_tret_resumes hsup hw hu, State.strikeLate_none hlate]
      refine ⟨_, rfl, State.resumeHandler_onlySet, ?_⟩
      rw [State.resumeHandler_th]
      exact ⟨rfl, rfl, rfl, rfl, rfl, rfl, rfl, rfl, rfl⟩
    · intro hheld hlate
      rw [exec_tret_passes hsup hw hu hheld, State.strikeLate_none hlate]
      refine ⟨_, rfl, ?_⟩
      rw [State.th_advance, State.resumeHandler_th]
      exact ⟨ThreadSet.advance_run _, fun h => (ThreadSet.advance_pc_of_none h).1, fun fr h => ThreadSet.advance_frame h⟩
    · intro h hheld
      rw [exec_tret_held hsup hw hu hheld]
      refine ⟨fun hready => if_pos hready, fun hready => ⟨_, if_neg (by rw [hready]; decide), ?_⟩⟩
      rw [State.th_updTh, State.th_of_sight (State.joinQueues_sight ..)]
      exact ⟨hu, rfl, rfl⟩
    · intro d x fl hheld hlate
      rw [exec_tret_held hsup hw hu hheld]
      refine ⟨_, if_pos rfl, ?_⟩
      rw [State.strikeLate_none hlate, State.retire_held_th]
      exact ⟨ThreadSet.advance_run _, ThreadSet.advance_susp _, by rw [ThreadSet.advance_f]; exact rget_rset_same _ d x,
        fun m hm => by rw [ThreadSet.advance_f]; exact rget_rset_other _ x hm, ThreadSet.advance_fcsr _, ThreadSet.advance_g _,
        fun h => (ThreadSet.advance_pc_of_none h).1⟩
    · have hend := (s.abortHandler s.cur.1 s.cur.2).endSup_th
      rw [State.abortHandler_cur] at hend
      exact ⟨_, exec_tret_aborts hsup hw hu, hend⟩
  · intro m s hsup hu hw
    have hend := s.endSup_th
    exact ⟨_, (exec_tret m hsup).trans (State.supReturn_of_fault _ hw hu), hend.1, hend.2.2, exec_doneI_of_sup hsup⟩

end Sys2Proof.Machine
end


section
/-! O55: `sys` raises its trap, and `tret 1` continues after it (R353, R354). -/
namespace Sys2Proof.Machine

/-! ### The saved registers, whatever the trap entry is (R344, R345, R391) -/

/-- What a trap saves of its cause, value and place. -/
def ThreadSet.savedRegs (t : ThreadSet) : Word × Word × Word := (t.tcause, t.tval, t.tepc)

theorem ThreadSet.savedRegs_of_still {t u : ThreadSet} (h : t.still = u.still) : t.savedRegs = u.savedRegs :=
  ThreadSet.eq_of_still ThreadSet.savedRegs (fun _ => rfl) h

theorem State.updThOf_savedRegs (le k : Nat) {f : ThreadSet → ThreadSet} (h : ∀ t, (f t).savedRegs = t.savedRegs) (s : State) :
    ((s.updThOf le k f).thOf le k).savedRegs = (s.thOf le k).savedRegs := by
  rw [State.thOf_updThOf_same, h]

theorem State.endSup_savedRegs (le k : Nat) (s : State) : ((s.endSup le k).thOf le k).savedRegs = (s.thOf le k).savedRegs := by
  rw [ThreadSet.savedRegs_of_still (s.endSup_still le k)]
  rfl

theorem State.abortHandler_savedRegs (le k : Nat) (s : State) : ((s.abortHandler le k).thOf le k).savedRegs = (s.thOf le k).savedRegs := by
  rw [ThreadSet.savedRegs_of_still ((s.abortHandler_retains le k).sets le k), State.thOf_updThOf_same]
  rfl

theorem State.ownReturn_savedRegs (le k : Nat) (s : State) : ((s.ownReturn le k).thOf le k).savedRegs = (s.thOf le k).savedRegs := by
  have hdrop : ∀ f : ThreadSet → ThreadSet, (∀ t, (f t).savedRegs = t.savedRegs) →
      ((s.updThOf le k f).thOf le k).savedRegs = (s.thOf le k).savedRegs := fun f hf => s.updThOf_savedRegs le k hf
  unfold State.ownReturn
  dsimp only
  rw [State.endSup_savedRegs]
  split
  · rw [State.abortHandler_savedRegs]
    exact hdrop _ fun _ => rfl
  · exact hdrop _ fun _ => rfl

theorem State.ownReturn_cur (le k : Nat) (s : State) : (s.ownReturn le k).cur = s.cur := by
  unfold State.ownReturn
  dsimp only
  rw [State.endSup_cur]
  split
  · rw [State.abortHandler_cur, State.updThOf_cur]
  · rfl

theorem State.enterSup_savedRegs (le k : Nat) (s : State) : ((s.enterSup le k).thOf le k).savedRegs = (s.thOf le k).savedRegs := by
  have hstart : ((s.startSup le k).thOf le k).savedRegs = (s.thOf le k).savedRegs := by
    rw [State.startSup_thOf]
    rfl
  unfold State.enterSup
  dsimp only
  split
  · rw [State.ownReturn_savedRegs, hstart]
  · exact hstart

theorem State.enterSup_cur (le k : Nat) (s : State) : (s.enterSup le k).cur = s.cur := by
  unfold State.enterSup
  dsimp only
  split
  · exact State.ownReturn_cur ..
  · rfl

/-- A trap of the issuing set's handler stands in its registers, by a named trap entry or the runtime's own. -/
theorem State.trapAt_savedRegs {s : State} (hsup : s.th.inSup = false) (cause : Nat) (tval : Word) (held : Option HeldResult) :
    (s.trapAt s.cur.1 s.cur.2 cause tval held).th.savedRegs = (s.th.saveTrap cause tval).savedRegs := by
  have hset := (s.setAside_retains s.cur.1 s.cur.2 cause tval held).sets s.cur.1 s.cur.2
  rw [State.thOf_updThOf_same] at hset
  rw [State.trapAt_of_user hsup, State.th, State.enterSup_cur, (s.setAside_retains s.cur.1 s.cur.2 cause tval held).cur,
    State.updThOf_cur, State.enterSup_savedRegs, ThreadSet.savedRegs_of_still hset]
  unfold ThreadSet.setAside
  split <;> rfl

/-! ### A resumable trap of the issuing set (R346) -/

section
variable {s : State} {cause : Nat}

theorem State.trapAt_cur (hsup : s.th.inSup = false) (cause : Nat) (tval : Word) (held : Option HeldResult) :
    (s.trapAt s.cur.1 s.cur.2 cause tval held).cur = s.cur := by
  rw [State.trapAt_of_user hsup, State.enterSup_cur]
  exact (s.setAside_retains s.cur.1 s.cur.2 cause tval held).cur

theorem State.trapAt_th_of_resumable (hsup : s.th.inSup = false) (hown : s.ctx.ownEntry = false) (hc : resumable cause = true) (tval : Word)
    (held : Option HeldResult) : (s.trapAt s.cur.1 s.cur.2 cause tval held).th = s.th.trapped cause tval held s.ctx.trapEntry := by
  rw [State.th, State.trapAt_cur hsup]
  exact State.trapAt_of_resumable hsup hown hc tval held

/-- Three changes of the issuing set are one. -/
theorem State.updTh_thrice_onlySet (s : State) (f g h : ThreadSet → ThreadSet) :
    s.onlySet (((s.updTh f).updTh g).updTh h) (((s.updTh f).updTh g).updTh h).th := by
  have halike : (s.updTh fun t => h (g (f t))).Alike (((s.updTh f).updTh g).updTh h) :=
    (s.updTh_updTh_alike (fun t => g (f t)) h).trans ((s.updTh_updTh_alike f g).updTh h)
  rw [State.th_updTh, State.th_updTh, State.th_updTh]
  exact halike.onlySet

/-- A resumable trap with a trap entry named changes nothing but the issuing set. -/
theorem State.trapAt_onlySet (hsup : s.th.inSup = false) (hown : s.ctx.ownEntry = false) (hc : resumable cause = true) (tval : Word)
    (held : Option HeldResult) :
    s.onlySet (s.trapAt s.cur.1 s.cur.2 cause tval held) (s.trapAt s.cur.1 s.cur.2 cause tval held).th := by
  rw [State.trapAt_of_user hsup, State.enterSup_of_named ((s.setAside_retains ..).own.trans hown), State.setAside, if_pos hc]
  exact s.updTh_thrice_onlySet ..

end

/-- A change of the issuing set alone leaves the operations that `tret` waits for. -/
theorem State.supWaits_of_onlySet {s t : State} {u : ThreadSet} (h : s.onlySet t u) : t.supWaits = s.supWaits := by
  obtain ⟨hcur, -, -, hel, -⟩ := h
  have hops : (t.el s.cur.1).ops = (s.el s.cur.1).ops := by
    rw [← hel s.cur.1]
  unfold State.supWaits
  rw [hcur, hops]

/-! ### `sys` (R353) -/

theorem exec_sys (i : BitVec 12) (s : State) : exec (.sys i) s = .next (s.trapAt s.cur.1 s.cur.2 0x10 (i.setWidth 64) none) := rfl

theorem resumable_sys : resumable 0x10 = true := rfl

/-- The cause of `sys` is resumable, in a frame or not (R343, R344). -/
theorem tcause_of_sys (t : ThreadSet) (tval : Word) : (t.saveTrap 0x10 tval).tcause.setWidth 9 = (0x110 : BitVec 9) := by
  have hbits : ∀ b : Bool, (BitVec.ofNat 64 (0x10 + true.toNat * 256 + b.toNat * 512)).setWidth 9 = (0x110 : BitVec 9) := by decide
  exact hbits t.frame.isSome

/-- `tret 1` after `sys` goes on behind it with what the handler had (R354). -/
theorem exec_tret_after_sys {s t : State} {u : Suspended} (hsup : t.th.inSup = true) (hw : t.supWaits = false) (hu : t.th.susp = some u)
    (hframe : u.frame = none) (hheld : u.held = none) (hlate : u.late = none) (hepc : t.th.tepc = s.th.pc) (hg : t.th.g = s.th.g)
    (hbuf : u.sendBuf = s.th.sendBuf) (hpend : u.pend = s.th.pend) :
    ∃ v, exec (.tret 1) t = .next v ∧ v.th.run = .user ∧ v.th.pc = s.th.pc + 4 ∧ v.th.g = s.th.g ∧ v.th.sendBuf = s.th.sendBuf ∧
      v.th.pend = s.th.pend := by
  rw [exec_tret_passes hsup hw hu hheld, State.strikeLate_none hlate]
  refine ⟨_, rfl, ?_⟩
  rw [State.th_advance, State.resumeHandler_th]
  have hnone : ((t.th.dropSupTokens (t.el t.cur.1)).resume u).frame = none := by
    unfold ThreadSet.resume
    rw [hframe]
    rfl
  refine ⟨ThreadSet.advance_run _, (ThreadSet.advance_pc_of_none hnone).1.trans ?_, (ThreadSet.advance_g _).trans hg,
    (ThreadSet.advance_sendBuf _).trans hbuf, (ThreadSet.advance_pend _).trans hpend⟩
  rw [← hepc]
  rfl

/-- Settles O55: a resumable trap changes the issuing set alone, and `tret 1` there passes the `sys` over. -/
theorem sysRaisesItsTrap : Obligations.SysRaisesItsTrap := by
  unfold Obligations.SysRaisesItsTrap
  intro i s hsup hpc
  have hsaved := State.trapAt_savedRegs hsup 0x10 (i.setWidth 64) none
  obtain ⟨hcause, hval, hepc⟩ : _ ∧ _ ∧ _ := by simpa only [ThreadSet.savedRegs, Prod.mk.injEq] using hsaved
  have hepc' : (s.trapAt s.cur.1 s.cur.2 0x10 (i.setWidth 64) none).th.tepc = s.th.pc := hepc.trans hpc
  refine ⟨_, exec_sys i s, ?_, ?_, hepc', fun hown hframe => ?_⟩
  · rw [hcause, tcause_of_sys]
  · rw [hval, ThreadSet.saveTrap_saved_tval, BitVec.ofNat_toNat]
  · have honly := State.trapAt_onlySet hsup hown resumable_sys (i.setWidth 64) none
    have hth := State.trapAt_th_of_resumable hsup hown resumable_sys (i.setWidth 64) none
    generalize s.trapAt s.cur.1 s.cur.2 0x10 (i.setWidth 64) none = t at *
    have hsusp : t.th.susp = some ⟨s.th.frame, s.th.sendBuf, s.th.pend, 0x10, none, s.th.pc, none⟩ := by
      rw [hth]
      rfl
    refine ⟨honly, ?_⟩
    have hret := fun hw : s.supWaits = false => exec_tret_after_sys (s := s) (by rw [hth]; rfl) ((State.supWaits_of_onlySet honly).trans hw) hsusp
      hframe rfl rfl hepc' (by rw [hth]; rfl) rfl rfl
    refine ⟨?_, ?_, ?_, ?_, ?_, ?_, ?_, ?_, ?_, ?_, hret⟩ <;> rw [hth] <;> rfl

end Sys2Proof.Machine
end


section
/-! O54: control and status registers, `yld` and `mark` (R355, R356, R358, R374). -/
namespace Sys2Proof.Machine

/-! ### A source read at issue -/

/-- A port that is ready for pops and pushes is ready for the pops alone (R180). -/
theorem State.portReady_pops {s : State} {le k : Nat} {p : Port} {pops pushes : Nat} (h : s.portReady le k p pops pushes = true) :
    s.portReady le k p pops 0 = true := by
  unfold State.portReady at h ⊢
  split at h
  · rfl
  · rfl
  · rw [Bool.and_eq_true] at h
    simp only [h.1, State.pushReady, beq_self_eq_true, Bool.true_or, Bool.and_self]

/-- An instruction that is ready with its destination is ready to read. -/
theorem State.readyFor_reads {s : State} {rds wrs : List (Cls × Opnd)} (h : s.readyFor rds wrs = true) : s.readyFor rds [] = true := by
  simp only [State.readyFor, Bool.and_eq_true, Option.isNone_iff_eq_none] at h ⊢
  obtain ⟨⟨⟨⟨hlink, -⟩, hsound⟩, hwaits⟩, hports⟩ := h
  refine ⟨⟨⟨⟨?_, rfl⟩, hsound⟩, ?_⟩, ?_⟩
  · simp only [State.absentLink, Option.map_eq_none_iff, List.find?_eq_none] at hlink ⊢
    exact fun p hp => hlink p (by simpa [portUses] using Or.inl (List.mem_append.mp hp |>.resolve_right (by simp [portUses])))
  · simp only [List.all_eq_true, regUses, List.append_nil, List.filterMap_append, List.mem_append] at hwaits ⊢
    exact fun r hr => hwaits r (.inl hr)
  · simp only [List.all_eq_true, portNeeds, List.mem_map, List.mem_eraseDups] at hports ⊢
    rintro nd ⟨p, ⟨q, hq, rfl⟩, rfl⟩
    have hq' : q ∈ portUses rds := by simpa [portUses] using hq
    have hport := hports (q.1, wordsAt q.1 (portUses rds), wordsAt q.1 (portUses wrs)) ⟨q.1, ⟨q, List.mem_append_left _ hq', rfl⟩, rfl⟩
    exact State.portReady_pops hport

theorem State.issued_inFifo (rds : List (Cls × Opnd)) (s : State) (m : Nat) (p : Port) : (s.issued rds).inFifo m p = s.inFifo m p := by
  obtain ⟨sets, h⟩ := s.el_issued rds m
  simp only [State.inFifo, h]

/-- The payload word that a pop gives is read off the activation (R178, R347). -/
theorem State.popPayload_fst (le k : Nat) (s : State) : (s.popPayload le k).1 = (s.thOf le k).act.elim 0 fun a =>
    if (s.thOf le k).inSup || a.payload.length ≤ a.read then 0 else a.payload.getD a.read 0 := by
  unfold State.popPayload
  split
  · next a ha =>
    rw [ha, Option.elim_some, apply_ite Prod.fst]
  · next hnone => rw [hnone, Option.elim_none]

/-- Issue does not change the word that a pop gives. -/
theorem State.issued_popWord_fst (rds : List (Cls × Opnd)) (s : State) (p : Port) : ((s.issued rds).popWord p).1 = (s.popWord p).1 := by
  have hfifo : ∀ w : Waiter, ((s.issued rds).popFifo w s.cur.1 p).1 = (s.popFifo w s.cur.1 p).1 := fun w => by
    simp only [State.popFifo, State.issued_inFifo]
    split <;> rfl
  have hpayload : ((s.issued rds).popPayload s.cur.1 s.cur.2).1 = (s.popPayload s.cur.1 s.cur.2).1 := by
    obtain ⟨bad, toks, h⟩ := s.issued_th rds
    rw [State.th, State.issued_cur] at h
    rw [State.popPayload_fst, State.popPayload_fst, h]
    rfl
  cases p with
  | po => rfl
  | pi => simpa only [State.popWord, State.issued_cur] using hpayload
  | _ => simpa only [State.popWord, State.issued_cur] using hfifo _

theorem State.issued_takeG_fst (rds : List (Cls × Opnd)) (s : State) (o : Opnd) : ((s.issued rds).takeG o).1 = (s.takeG o).1 := by
  cases o with
  | reg n => exact s.issued_rg rds n
  | port p => exact s.issued_popWord_fst rds p

theorem State.csr_fcsr (s : State) : s.csr 1 = s.th.fcsr := rfl

theorem State.issued_csr_fcsr (rds : List (Cls × Opnd)) (s : State) : (s.issued rds).csr 1 = s.csr 1 := by
  obtain ⟨bad, toks, h⟩ := s.issued_th rds
  rw [State.csr_fcsr, State.csr_fcsr, h]

/-! ### CSR instructions (R355) -/

theorem exec_csrr {d : Opnd} {csr : BitVec 12} {s : State} (h : s.readyFor [] [(.g, d)] = true) :
    exec (.csrr d csr) s = .next (((s.issued []).putG d ((s.issued []).csr csr.toNat)).advance) := by
  have hexec : exec (.csrr d csr) s = csrOp (.csrr d csr) (fun old _ => old) false d [] csr s := rfl
  rw [hexec, csrOp]
  simp only [Bool.false_and, Bool.false_eq_true, if_false, List.map_nil]
  exact withIssue_of_readyFor h

section
variable {i : Instr} {f : Word → Word → Word} {wr : Bool} {d a : Opnd} {csr : BitVec 12} {s : State}

/-- The CSR instructions that read a source differ in what they store, and in whether they store. -/
theorem exec_csrOp (h : (i = .csrw d a csr ∧ wr = true ∧ f = fun _ x => x) ∨ (i = .csrs d a csr ∧ wr = (a != .reg 0) ∧ f = fun old x => old ||| x) ∨
    (i = .csrc d a csr ∧ wr = (a != .reg 0) ∧ f = fun old x => old &&& ~~~x)) (s : State) : exec i s = csrOp i f wr d [a] csr s := by
  obtain ⟨rfl, rfl, rfl⟩ | ⟨rfl, rfl, rfl⟩ | ⟨rfl, rfl, rfl⟩ := h <;> rfl

/-- The whole of a CSR instruction, once nothing forbids its write. -/
def csrWhole (f : Word → Word → Word) (wr : Bool) (d a : Opnd) (csr : BitVec 12) (s : State) : Host.Outcome State Fault Refusal :=
  withIssue [(.g, a)] [(.g, d)] (fun s =>
    .next (((if wr then (s.takeG a).2.putCsr csr.toNat (f (s.csr csr.toNat) (s.takeG a).1) else (s.takeG a).2).putG d (s.csr csr.toNat)).advance)) s

theorem csrOp_forbidden (hw : wr = true) (hp : csrSupervisor csr = true) (hs : s.th.inSup = false) :
    csrOp i f wr d [a] csr s = s.trap 0x12 (instrVal i) :=
  if_pos (by rw [hw, hp, hs]; rfl)

theorem csrOp_allowed (h : wr = true → csrSupervisor csr = true → s.th.inSup = true) : csrOp i f wr d [a] csr s =
    if wr && csr.toNat == 1 then
      match gate [(.g, a)] [] s with
      | .stop o => if s.destTraps d then o else csrWhole f wr d a csr s
      | .go _ => if 6 ≤ ((f (s.csr 1) (s.takeG a).1).setWidth 3 : BitVec 3).toNat then (s.mended [(.g, a)]).trap 0x01 (instrVal i)
        else csrWhole f wr d a csr s
    else csrWhole f wr d a csr s := by
  have hno : ¬ (wr && csrSupervisor csr && !s.th.inSup) = true := by
    simp only [Bool.and_eq_true, Bool.not_eq_true', not_and, Bool.not_eq_false]
    exact fun hwp => h hwp.1 hwp.2
  exact if_neg hno

theorem csrOp_other (h : wr = true → csrSupervisor csr = true → s.th.inSup = true) (hne : ¬(wr = true ∧ csr = 1)) :
    csrOp i f wr d [a] csr s = csrWhole f wr d a csr s := by
  rw [csrOp_allowed h]
  refine if_neg fun hc => hne ?_
  rw [Bool.and_eq_true, beq_iff_eq] at hc
  exact ⟨hc.1, BitVec.eq_of_toNat_eq hc.2⟩

theorem csrOp_fcsr_ready (hr : s.readyFor [(.g, a)] [] = true) : csrOp i f true d [a] 1 s =
    if 6 ≤ (f (s.csr 1) (s.takeG a).1).toNat % 8 then (s.mended [(.g, a)]).trap 0x01 (instrVal i) else csrWhole f true d a 1 s := by
  rw [csrOp_allowed (fun _ h => absurd h (by decide)), gate_of_readyFor hr]
  simp only [BitVec.toNat_setWidth]
  rfl

theorem csrOp_fcsr_stops {o : Host.Outcome State Fault Refusal} (hg : gate [(.g, a)] [] s = .stop o) (hd : s.destTraps d = true) :
    csrOp i f true d [a] 1 s = o := by
  rw [csrOp_allowed (fun _ h => absurd h (by decide)), hg]
  exact if_pos hd

theorem csrWhole_of_readyFor (hr : s.readyFor [(.g, a)] [(.g, d)] = true) {u : State} (hu : s.issued [(.g, a)] = u) :
    csrWhole f wr d a csr s = .next (((if wr then (u.takeG a).2.putCsr csr.toNat (f (u.csr csr.toNat) (u.takeG a).1) else (u.takeG a).2).putG d
      (u.csr csr.toNat)).advance) := by
  subst hu
  exact withIssue_of_readyFor hr

end

/-! ### Fields that a write stores (R72, R120, R211, R344, R356) -/

theorem getLsbD_mixBits (m old new : Word) {k : Nat} (hk : k < 64) :
    (mixBits m old new).getLsbD k = if m.getLsbD k then new.getLsbD k else old.getLsbD k := by
  unfold mixBits
  rw [BitVec.getLsbD_or, BitVec.getLsbD_and, BitVec.getLsbD_and, BitVec.getLsbD_not]
  cases m.getLsbD k <;> simp [hk]

theorem fcsr_field : ∀ k < 64, (0xFF : Word).getLsbD k = decide (k < 8) := by decide

theorem sigctl_field : ∀ k < 64, (0x73F : Word).getLsbD k = decide (k < 6 ∨ (8 ≤ k ∧ k < 11)) := by decide

theorem tepc_field : ∀ k < 64, (0x0001FFFFFFFFFFFC : Word).getLsbD k = decide (2 ≤ k ∧ k < 49) := by decide

theorem tstat_field : ∀ k < 64, (0x80000 : Word).getLsbD k = decide (k = 19) := by decide

section
variable (s : State) (x : Word)

theorem State.putCsr_fcsr : (s.putCsr 1 x).th.fcsr = mixBits 0xFF s.th.fcsr x := by
  rw [State.putCsr, if_pos rfl, State.th_updTh]

theorem State.putCsr_sigctl : (s.putCsr 2 x).th.sigctl = mixBits 0x73F s.th.sigctl x := by
  rw [State.putCsr, if_neg (by decide), if_pos rfl, State.th_updTh]

theorem State.putCsr_srseed : s.putCsr 3 x = s.updEl s.drawLe fun e => { e with srseed := if x = 0 then 1 else x } := rfl

theorem State.putCsr_stkbase : s.putCsr 4 x = s.updTh fun t => { t with scap := x.extractLsb' 16 16, sbase := x.setWidth 16 } := rfl

theorem State.putCsr_ringbase : s.putCsr 5 x = s.updEl s.cur.1 fun e =>
    if e.ringCnt = 0 && e.ringRsv = 0 then { e with ringBase := x.setWidth 16, ringEn := x.getLsbD 16 } else e := rfl

theorem State.putCsr_tepc : s.putCsr 0x21 x = s.updTh fun t => { t with tepc := x &&& 0x0001FFFFFFFFFFFC } := rfl

theorem State.putCsr_tval : s.putCsr 0x22 x = s.updTh fun t => { t with tval := x } := rfl

theorem State.putCsr_tstat : s.putCsr 0x24 x = s.updTh fun t => { t with tstat := mixBits 0x80000 t.tstat x } := rfl

/-- A write of another address stores nothing (R356). -/
theorem State.putCsr_other {n : Nat} (h : n ∉ [1, 2, 3, 4, 5, 0x21, 0x22, 0x24]) : s.putCsr n x = s := by
  simp only [List.mem_cons, List.not_mem_nil, or_false, not_or] at h
  obtain ⟨h1, h2, h3, h4, h5, hepc, hval, hstat⟩ := h
  rw [State.putCsr, if_neg h1, if_neg h2, if_neg h3, if_neg h4, if_neg h5, if_neg hepc, if_neg hval, if_neg hstat]

end

/-- A change of an element is what it makes of that element. -/
theorem State.updEl_congr {s : State} {le : Nat} {f g : Element → Element} (h : f (s.el le) = g (s.el le)) : s.updEl le f = s.updEl le g := by
  rw [State.updEl, State.updEl, h]

/-! ### What each address reads (R50, R67, R126, R149, R152) -/

theorem Bool.toNat_mul_eq_ite (b : Bool) (n : Nat) : b.toNat * n = if b then n else 0 := by
  cases b <;> simp

theorem State.csr_trust (s : State) {k : Nat} (hk : k < 4) : s.csr (0x30 + 3 * k) = BitVec.ofNat 64 (vget s.ctx.trust k).1 ∧
    s.csr (0x31 + 3 * k) = BitVec.ofNat 64 (vget s.ctx.trust k).2.1 ∧ s.csr (0x32 + 3 * k) = BitVec.ofNat 64 (vget s.ctx.trust k).2.2 := by
  interval_cases k <;> exact ⟨rfl, rfl, rfl⟩

theorem State.csr_tracked (s : State) {k : Nat} (hk : k < 8) : s.csr (0x40 + 2 * k) = BitVec.ofNat 64 (vget s.ctx.tracked k).1 ∧
    s.csr (0x41 + 2 * k) = BitVec.ofNat 64 (vget s.ctx.tracked k).2 := by
  interval_cases k <;> exact ⟨rfl, rfl⟩

theorem State.csr_share (s : State) {k : Nat} (hk : k < 6) : s.csr (0x50 + k) = budgetWord (vget s.ctx.shares k) (s.ctx.borrowed.getLsbD k) := by
  interval_cases k <;> rfl

/-! ### `yld` and `mark` (R358, R374) -/

theorem exec_yld_moves {s : State} (h : s.ctx.calm = none) : exec .yld s = .next s.advance := by
  refine if_pos ?_
  rw [h]
  rfl

theorem exec_yld {s : State} (h : s.ctx.calm.isSome = true) : exec .yld s =
    if !s.th.pending.isEmpty || s.setBusy s.cur.1 s.cur.2 then .next s else .next (s.advance.updTh fun t => { t with yielded := true }) :=
  if_neg (by rw [Option.isNone_eq_false_iff.mpr h]; decide)

theorem exec_mark {a : Opnd} {i : BitVec 12} {s u : State} (hr : s.readyFor [(.g, a)] [] = true) (hu : s.issued [(.g, a)] = u)
    (hcur : u.cur = s.cur) (htick : u.tick = s.tick) : exec (.mark a i) s = .next ((if u.slipOn s.cur.1 1 then
      (u.takeG a).2.record (u.tileOf s.cur.1) ⟨BitVec.ofNat 64 s.tick, u.slipHead 3 s.cur.1 s.cur.2, (u.takeG a).1, i.setWidth 64⟩
      else (u.takeG a).2).advance) := by
  rw [← hcur, ← htick]
  subst hu
  exact withIssue_of_readyFor hr

/-- Settles O54: each instruction is `csrOp` with what it stores, and each field is read off the write that stores it. -/
theorem controlRegistersReadAndWrite : Obligations.ControlRegistersReadAndWrite := by
  unfold Obligations.ControlRegistersReadAndWrite
  refine ⟨fun d csr s h => exec_csrr h, ?_, ?_, ?_, ?_, fun s x n h => s.putCsr_other x h, ?_, ?_, ?_, ?_⟩
  · intro i f wr d a csr s hi
    rw [exec_csrOp hi s]
    refine ⟨fun hw hp hs => csrOp_forbidden hw hp hs, ?_, ?_, ?_⟩
    · rintro rfl rfl hr hmode
      rw [csrOp_fcsr_ready hr, if_pos hmode]
    · rintro o rfl rfl hg hd
      exact csrOp_fcsr_stops hg hd
    · intro hallow hr
      dsimp only
      have hread : ((s.issued [(.g, a)]).takeG a).1 = (s.takeG a).1 := s.issued_takeG_fst _ a
      have hfcsr : (s.issued [(.g, a)]).csr 1 = s.csr 1 := s.issued_csr_fcsr _
      have hwhole := csrWhole_of_readyFor (f := f) (wr := wr) (csr := csr) hr rfl
      constructor
      · rintro rfl rfl hmode
        rw [csrOp_fcsr_ready (State.readyFor_reads hr), ← hread, ← hfcsr]
        exact if_pos hmode
      · intro hmode
        by_cases hc : wr = true ∧ csr = 1
        · obtain ⟨rfl, rfl⟩ := hc
          rw [csrOp_fcsr_ready (State.readyFor_reads hr), ← hread, ← hfcsr, ← hwhole]
          exact if_neg (Nat.not_le.mpr (hmode rfl rfl))
        · rw [csrOp_other hallow hc, hwhole]
  · intro s x k hk
    refine ⟨?_, ?_, ?_, ?_, ?_⟩
    · rw [State.putCsr_fcsr, getLsbD_mixBits _ _ _ hk, fcsr_field k hk]
      simp only [decide_eq_true_eq]
    · rw [State.putCsr_sigctl, getLsbD_mixBits _ _ _ hk, sigctl_field k hk]
      simp only [decide_eq_true_eq]
    · rw [State.putCsr_tepc, State.th_updTh, BitVec.getLsbD_and, tepc_field k hk, Bool.and_comm]
    · rw [State.putCsr_tval, State.th_updTh]
    · rw [State.putCsr_tstat, State.th_updTh, getLsbD_mixBits _ _ _ hk, tstat_field k hk]
      simp only [decide_eq_true_eq]
  · intro s
    dsimp only
    simp only [List.forall_mem_cons, ← Bool.toNat_mul_eq_ite, BitVec.ofNat_toNat]
    exact ⟨rfl, rfl, rfl, rfl, rfl, rfl, rfl, rfl, rfl, rfl, rfl, rfl, rfl, rfl, fun _ h => absurd h List.not_mem_nil⟩
  · intro s k
    refine ⟨s.csr_trust, s.csr_tracked, fun hk => ?_⟩
    rw [s.csr_share hk, budgetWord, Bool.toNat_mul_eq_ite]
  · intro s x
    have hbase : BitVec.ofNat 16 (x.toNat % 65536) = x.setWidth 16 := by
      apply BitVec.eq_of_toNat_eq
      simp
    refine ⟨fun hcnt hrsv => ?_, fun hbusy => ?_⟩
    · rw [State.putCsr_ringbase, hbase]
      refine State.updEl_congr ?_
      simp only [hcnt, hrsv, decide_true, Bool.and_self, if_true]
    · rw [State.putCsr_ringbase]
      refine State.updEl_congr (if_neg ?_)
      rw [Bool.and_eq_true, decide_eq_true_eq, decide_eq_true_eq]
      omega
  · intro s x
    rw [State.putCsr_stkbase, State.th_updTh, State.putCsr_srseed, State.el_updEl_same]
    refine ⟨?_, ?_, rfl, rfl⟩
    · rw [BitVec.extractLsb'_toNat, Nat.shiftRight_eq_div_pow]
    · rw [BitVec.toNat_setWidth]
  · intro s
    refine ⟨exec_yld_moves, fun hcalm hbusy => ?_, fun hcalm hpend hbusy => ?_⟩
    · rw [exec_yld hcalm]
      refine if_pos ?_
      simpa using hbusy
    · rw [exec_yld hcalm, hpend, hbusy]
      rfl
  · intro a i s hr
    have hcur := s.issued_cur [(.g, a)]
    have htick := s.issued_tick [(.g, a)]
    dsimp only
    generalize hu : s.issued [(.g, a)] = u at hcur htick ⊢
    rw [exec_mark hr hu hcur htick]
    exact ⟨fun h => by rw [if_neg (by rw [h]; decide)], fun h => by rw [if_pos h]⟩

end Sys2Proof.Machine
end
